-- ==== Sys2Proof/Word.lean ====
section
/-! DEFINITION. The words of the machine and their plainest arithmetic: control registers of 64 bits (R48), bytes
(R2), and register numbers of five bits (R16). -/

namespace Sys2Proof

/-- A control register's value. -/
abbrev Word := BitVec 64

/-- One byte. -/
abbrev Byte := BitVec 8

/-- A register number, g0-g31 (R16). -/
abbrev Reg := BitVec 5

/-- The immediate field of formats I, S and B (R17). -/
abbrev Imm14 := BitVec 14

end Sys2Proof
end

