-- ==== Sys2Proof/Syntax.lean ====
section
/-! DEFINITION. The syntax of the ORS-7160: the operand types and the one inductive `Instr`, with one constructor for
every row of the table of operations and events (spec/opcode_table.json). Control instructions carry the fields of
their words (02_words R16); cell operations carry the rule slot that holds the operation word (R32); the remaining
rows are the events of the units, the lodge and the host, and carry the unit they happen to. -/

namespace Sys2Proof

/-- The extension words of an instruction whose group accepts LEN 1 and LEN 2 (R17). -/
inductive Ext where
  | one (e0 : BitVec 32)
  | two (e0 e1 : BitVec 32)
  deriving DecidableEq, Repr

/-- The immediate an extension gives (R17): one word sign-extended, or two words. -/
def Ext.value : Ext → Word
  | .one e0 => e0.signExtend 64
  | .two e0 e1 => e1 ++ e0

/-- The LEN field of an extension. -/
def Ext.len : Ext → Nat
  | .one _ => 1
  | .two _ _ => 2

/-- WHEN conditions (R29). -/
inductive Cond where
  | z | nz | ltz | gez
  deriving DecidableEq, Repr

/-- Tile access sizes (R25). -/
inductive AccSize where
  | b | h | w | d
  deriving DecidableEq, Repr

/-- AMO order modifiers (R26). -/
inductive AmoOrder where
  | rlx | acq | rel | acqrel
  deriving DecidableEq, Repr

/-- Scopes of fences and streams (R27, R161), narrowest first. -/
inductive Scope where
  | plot | die | pkg | dom | sys
  deriving DecidableEq, Repr

/-- Fence kinds (R27). -/
inductive FenceKind where
  | full | acq | rel | ss | drv | cmd
  deriving DecidableEq, Repr

/-- Scopes of ICINV (R340). -/
inductive IcScope where
  | plot | die | pkg | dom
  deriving DecidableEq, Repr

/-- Kinds of access (R244). -/
inductive AccKind where
  | read | write | fetch
  deriving DecidableEq, Repr

/-- A rule slot of a cell of a plane (R96). -/
structure RuleAt where
  plot  : Nat
  plane : Nat
  cell  : Nat
  slot  : Nat
  deriving DecidableEq, Repr

/-- Parties that make accesses (R161) and places that hold translations (R253). `core` is the translation cache of a
plot's control core, `walkers` the walker caches of a die. -/
inductive Holder where
  | thread (tid : Nat)
  | core (plot : Nat)
  | walkers (die : Nat)
  | port (plot port : Nat)
  | chan (c : Nat)
  | fill (plot h : Nat)
  | slice (plot lat slot : Nat)
  | near (mbox : Nat)
  deriving DecidableEq, Repr

/-- Registers written from outside that have no row of their own (R321, R355, R372, R373, R385): interrupt bindings, the
command buffers and doorbells of the mailboxes, LOCID, frame tables. -/
inductive RegTarget where
  | irq (vf s : Nat)
  | mbuf (off : Nat)
  | vmbuf (vf off : Nat)
  | locid
  | frame (die n : Nat)
  | mbdoor
  | vmbdoor (vf : Nat)
  deriving DecidableEq, Repr

/-- Units that wear (R375, R376). -/
inductive WearUnit where
  | plot (p : Nat)
  | column (plot lat col : Nat)
  | lane (port lane : Nat)
  | row (r : Nat)
  | way (slice way : Nat)
  | lodge (core : Nat)
  deriving DecidableEq, Repr

/-- Where an uncorrectable error arises (R336, R376, R284, R394). -/
inductive ErrUnit where
  | unit (u : WearUnit)
  | rowState (region row part : Nat)
  | memory (line : Nat)
  | sram (word : Nat)
  deriving DecidableEq, Repr

/-- What a Solrus flit carries (R385): a load, a store or an AMO to a line homed here with the number its sender gave it, the
data or the acknowledgement that answers such an access, a debug halt or run, or an ICINV at domain scope. -/
inductive Flit where
  | load (id spa n : Nat)
  | store (id spa : Nat) (bytes : List Byte)
  | amo (id op spa : Nat) (dw : Bool) (v c : BitVec 64)
  | data (id : Nat) (bytes : List Byte)
  | ack (id : Nat)
  | halt (tenant : Nat) (v : BitVec 64)
  | icinv (tenant : Nat) (va : BitVec 64) (n : Nat)
  deriving DecidableEq, Repr

/-- Requests of the management channel (R388). -/
inductive MctpReq where
  | temperatures | power | repairLog (first : Nat) | fatal | attest (nonce : BitVec 256)
  deriving DecidableEq, Repr


/-- The operations of rule words, in the order of their codes (R33). -/
inductive CellOp where
  | nop | mov | add | sub | mul | and | or | xor | shl | shr | sar | min | max | abs | neg | sel
  | cmpeq | cmplt | cmple
  | fadd | fsub | fmul | fma | fmin | fmax | fcmpeq | fcmplt | fabs | fneg | cvt | qbfp | dqbfp
  | exp2 | log2 | rcp | rsqrt | sqrt | tanh | sigm | gact
  | rsum | rmax
  | pset | pand | por | pnot | steer | merge | psend | precv
  | tagset | drop
  deriving DecidableEq, Repr

/-- A trigger word (R31). -/
structure Trigger where
  v    : Bool
  role : Nat
  pm   : BitVec 4
  pv   : BitVec 4
  qe   : Bool
  iq   : Nat
  nm1  : Nat
  tag  : Nat
  oe   : Bool
  oq   : Nat
  q2e  : Bool
  iq2  : Nat
  pt   : Bool
  deriving DecidableEq, Repr

/-- An operation word whose OP is assigned (R32). -/
structure OpWord where
  op   : CellOp
  dst  : Nat
  sa   : Nat
  sb   : Nat
  ea   : Bool
  ka   : Bool
  eb   : Bool
  kb   : Bool
  fmt  : Nat
  peek : Bool
  rm   : Nat
  deriving DecidableEq, Repr

/-- The source a switch word names (R36, R37). -/
inductive Source where
  | none
  | cell (c q : Nat)
  | port (n : Nat) (scale : Bool)
  | mesh (d lane : Nat)
  | lattice (k : Nat) (scale : Bool)
  deriving DecidableEq, Repr

/-- A route of a plane: its source, virtual channel, predicate and order bits (R36). -/
structure Route where
  src  : Source
  vc   : Nat
  pred : Bool
  ord  : Bool
  deriving DecidableEq, Repr

/-- Every instruction, cell operation and event of the machine. -/
inductive Instr where
  /-- ADD (R80). Adds two control registers modulo 2^64. -/
  | aluAdd (rd : Reg) (rs1 : Reg) (rs2 : Reg)
  /-- SUB (R80). Subtracts two control registers modulo 2^64. -/
  | aluSub (rd : Reg) (rs1 : Reg) (rs2 : Reg)
  /-- AND (R80). Bitwise AND of two control registers. -/
  | aluAnd (rd : Reg) (rs1 : Reg) (rs2 : Reg)
  /-- OR (R80). Bitwise OR of two control registers. -/
  | aluOr (rd : Reg) (rs1 : Reg) (rs2 : Reg)
  /-- XOR (R80). Bitwise XOR of two control registers. -/
  | aluXor (rd : Reg) (rs1 : Reg) (rs2 : Reg)
  /-- SLL (R80). Shifts left by the low six bits of rs2. -/
  | aluSll (rd : Reg) (rs1 : Reg) (rs2 : Reg)
  /-- SRL (R80). Shifts right logically by the low six bits of rs2. -/
  | aluSrl (rd : Reg) (rs1 : Reg) (rs2 : Reg)
  /-- SRA (R80). Shifts right arithmetically by the low six bits of rs2. -/
  | aluSra (rd : Reg) (rs1 : Reg) (rs2 : Reg)
  /-- SLT (R80). Writes 1 if rs1 is less than rs2 as signed values. -/
  | aluSlt (rd : Reg) (rs1 : Reg) (rs2 : Reg)
  /-- SLTU (R80). Writes 1 if rs1 is less than rs2 as unsigned values. -/
  | aluSltu (rd : Reg) (rs1 : Reg) (rs2 : Reg)
  /-- MIN (R80). Writes the signed minimum of two registers. -/
  | aluMin (rd : Reg) (rs1 : Reg) (rs2 : Reg)
  /-- MAX (R80). Writes the signed maximum of two registers. -/
  | aluMax (rd : Reg) (rs1 : Reg) (rs2 : Reg)
  /-- MINU (R80). Writes the unsigned minimum of two registers. -/
  | aluMinu (rd : Reg) (rs1 : Reg) (rs2 : Reg)
  /-- MAXU (R80). Writes the unsigned maximum of two registers. -/
  | aluMaxu (rd : Reg) (rs1 : Reg) (rs2 : Reg)
  /-- MUL (R80). Writes the low 64 bits of the signed product. -/
  | aluMul (rd : Reg) (rs1 : Reg) (rs2 : Reg)
  /-- MULH (R80). Writes the high 64 bits of the signed 128-bit product. -/
  | aluMulh (rd : Reg) (rs1 : Reg) (rs2 : Reg)
  /-- MULHU (R80). Writes the high 64 bits of the unsigned 128-bit product. -/
  | aluMulhu (rd : Reg) (rs1 : Reg) (rs2 : Reg)
  /-- DIV (R80). Signed division truncating toward zero, with zero-divisor and overflow results defined. -/
  | aluDiv (rd : Reg) (rs1 : Reg) (rs2 : Reg)
  /-- DIVU (R80). Unsigned division, with a zero divisor giving quotient 0. -/
  | aluDivu (rd : Reg) (rs1 : Reg) (rs2 : Reg)
  /-- REM (R80). Signed remainder with the sign of the dividend. -/
  | aluRem (rd : Reg) (rs1 : Reg) (rs2 : Reg)
  /-- REMU (R80). Unsigned remainder. -/
  | aluRemu (rd : Reg) (rs1 : Reg) (rs2 : Reg)
  /-- CLZ (R80). Counts leading zero bits of rs1. -/
  | clz (rd : Reg) (rs1 : Reg)
  /-- CTZ (R80). Counts trailing zero bits of rs1. -/
  | ctz (rd : Reg) (rs1 : Reg)
  /-- POPC (R80). Counts one bits of rs1. -/
  | popc (rd : Reg) (rs1 : Reg)
  /-- ADDI (R81). Adds a 14-bit sign-extended immediate to a register. -/
  | addi (rd : Reg) (rs1 : Reg) (imm : Imm14)
  /-- ADDI_EXT (R81). Adds a 32- or 64-bit immediate taken from extension words. -/
  | addiExt (rd : Reg) (rs1 : Reg) (e : Ext)
  /-- ANDI (R81). ANDs a register with a 14-bit sign-extended immediate. -/
  | andi (rd : Reg) (rs1 : Reg) (imm : Imm14)
  /-- ANDI_EXT (R81). ANDs a register with an immediate from extension words. -/
  | andiExt (rd : Reg) (rs1 : Reg) (e : Ext)
  /-- ORI (R81). ORs a register with a 14-bit sign-extended immediate. -/
  | ori (rd : Reg) (rs1 : Reg) (imm : Imm14)
  /-- ORI_EXT (R81). ORs a register with an immediate from extension words. -/
  | oriExt (rd : Reg) (rs1 : Reg) (e : Ext)
  /-- XORI (R81). XORs a register with a 14-bit sign-extended immediate. -/
  | xori (rd : Reg) (rs1 : Reg) (imm : Imm14)
  /-- XORI_EXT (R81). XORs a register with an immediate from extension words. -/
  | xoriExt (rd : Reg) (rs1 : Reg) (e : Ext)
  /-- SLTI (R81). Writes 1 if a register is less than a 14-bit immediate, signed. -/
  | slti (rd : Reg) (rs1 : Reg) (imm : Imm14)
  /-- SLTI_EXT (R81). Signed compare against an immediate from extension words. -/
  | sltiExt (rd : Reg) (rs1 : Reg) (e : Ext)
  /-- SLLI (R81). Shifts left by an immediate amount. -/
  | slli (rd : Reg) (rs1 : Reg) (sh : BitVec 6)
  /-- SRLI (R81). Shifts right logically by an immediate amount. -/
  | srli (rd : Reg) (rs1 : Reg) (sh : BitVec 6)
  /-- SRAI (R81). Shifts right arithmetically by an immediate amount. -/
  | srai (rd : Reg) (rs1 : Reg) (sh : BitVec 6)
  /-- BEQ (R83). Branches by a 14-bit word offset when two registers are equal. -/
  | beq (rs1 : Reg) (rs2 : Reg) (off : Imm14)
  /-- BEQ_EXT (R83). Branch if equal with a 32-bit offset in ext0. -/
  | beqExt (rs1 : Reg) (rs2 : Reg) (e0 : BitVec 32)
  /-- BNE (R83). Branches when two registers differ. -/
  | bne (rs1 : Reg) (rs2 : Reg) (off : Imm14)
  /-- BNE_EXT (R83). Branch if not equal with a 32-bit offset in ext0. -/
  | bneExt (rs1 : Reg) (rs2 : Reg) (e0 : BitVec 32)
  /-- BLT (R83). Branches when rs1 is less than rs2, signed. -/
  | blt (rs1 : Reg) (rs2 : Reg) (off : Imm14)
  /-- BLT_EXT (R83). Signed less-than branch with a 32-bit offset. -/
  | bltExt (rs1 : Reg) (rs2 : Reg) (e0 : BitVec 32)
  /-- BGE (R83). Branches when rs1 is greater or equal to rs2, signed. -/
  | bge (rs1 : Reg) (rs2 : Reg) (off : Imm14)
  /-- BGE_EXT (R83). Signed greater-or-equal branch with a 32-bit offset. -/
  | bgeExt (rs1 : Reg) (rs2 : Reg) (e0 : BitVec 32)
  /-- BLTU (R83). Branches when rs1 is less than rs2, unsigned. -/
  | bltu (rs1 : Reg) (rs2 : Reg) (off : Imm14)
  /-- BLTU_EXT (R83). Unsigned less-than branch with a 32-bit offset. -/
  | bltuExt (rs1 : Reg) (rs2 : Reg) (e0 : BitVec 32)
  /-- BGEU (R83). Branches when rs1 is greater or equal to rs2, unsigned. -/
  | bgeu (rs1 : Reg) (rs2 : Reg) (off : Imm14)
  /-- BGEU_EXT (R83). Unsigned greater-or-equal branch with a 32-bit offset. -/
  | bgeuExt (rs1 : Reg) (rs2 : Reg) (e0 : BitVec 32)
  /-- J (R84). Jumps by a 24-bit word offset. -/
  | jmp (off : BitVec 24)
  /-- JAL (R84). Jumps by a 24-bit word offset and writes pc + 4 to g1. -/
  | jal (off : BitVec 24)
  /-- JALR (R84). Jumps to a register plus immediate and writes the link to rd. -/
  | jalr (rd : Reg) (rs1 : Reg) (imm : Imm14)
  /-- JALR_EXT (R84). JALR with a 32-bit immediate in ext0. -/
  | jalrExt (rd : Reg) (rs1 : Reg) (e0 : BitVec 32)
  /-- RPT (R86). Repeats the next 1-16 instructions a count read once from a register. -/
  | rpt (rs1 : Reg) (n : BitVec 4)
  /-- RPT_IMM (R86). Repeats the next 1-16 instructions an immediate count from ext0. -/
  | rptImm (n : BitVec 4) (e0 : BitVec 32)
  /-- WHEN (R87). Executes or skips the next 1-16 instructions by a test of a register. -/
  | when (c : Cond) (rs1 : Reg) (n : BitVec 4)
  /-- LDB (R169). Loads a sign-extended byte. -/
  | ldb (rd : Reg) (rs1 : Reg) (imm : Imm14)
  /-- LDB_EXT (R169). LDB with an offset from extension words. -/
  | ldbExt (rd : Reg) (rs1 : Reg) (e : Ext)
  /-- LDBU (R169). Loads a zero-extended byte. -/
  | ldbu (rd : Reg) (rs1 : Reg) (imm : Imm14)
  /-- LDBU_EXT (R169). LDBU with an offset from extension words. -/
  | ldbuExt (rd : Reg) (rs1 : Reg) (e : Ext)
  /-- LDH (R169). Loads a sign-extended half-word. -/
  | ldh (rd : Reg) (rs1 : Reg) (imm : Imm14)
  /-- LDH_EXT (R169). LDH with an offset from extension words. -/
  | ldhExt (rd : Reg) (rs1 : Reg) (e : Ext)
  /-- LDHU (R169). Loads a zero-extended half-word. -/
  | ldhu (rd : Reg) (rs1 : Reg) (imm : Imm14)
  /-- LDHU_EXT (R169). LDHU with an offset from extension words. -/
  | ldhuExt (rd : Reg) (rs1 : Reg) (e : Ext)
  /-- LDW (R169). Loads a sign-extended word. -/
  | ldw (rd : Reg) (rs1 : Reg) (imm : Imm14)
  /-- LDW_EXT (R169). LDW with an offset from extension words. -/
  | ldwExt (rd : Reg) (rs1 : Reg) (e : Ext)
  /-- LDWU (R169). Loads a zero-extended word. -/
  | ldwu (rd : Reg) (rs1 : Reg) (imm : Imm14)
  /-- LDWU_EXT (R169). LDWU with an offset from extension words. -/
  | ldwuExt (rd : Reg) (rs1 : Reg) (e : Ext)
  /-- LDD (R169). Loads a double-word. -/
  | ldd (rd : Reg) (rs1 : Reg) (imm : Imm14)
  /-- LDD_EXT (R169). LDD with an offset from extension words. -/
  | lddExt (rd : Reg) (rs1 : Reg) (e : Ext)
  /-- LDQ (R171). Loads 16 aligned bytes into an even register pair, atomic per element. -/
  | ldq (rd : Reg) (rs1 : Reg) (off : BitVec 13) (es : Bool)
  /-- LDQ_EXT (R171). LDQ with a byte offset from extension words. -/
  | ldqExt (rd : Reg) (rs1 : Reg) (es : Bool) (e : Ext)
  /-- STB (R170). Stores a byte. -/
  | stb (rs : Reg) (rb : Reg) (imm : Imm14)
  /-- STB_EXT (R170). STB with an offset from extension words. -/
  | stbExt (rs : Reg) (rb : Reg) (e : Ext)
  /-- STH (R170). Stores a half-word. -/
  | sth (rs : Reg) (rb : Reg) (imm : Imm14)
  /-- STH_EXT (R170). STH with an offset from extension words. -/
  | sthExt (rs : Reg) (rb : Reg) (e : Ext)
  /-- STW (R170). Stores a word. -/
  | stw (rs : Reg) (rb : Reg) (imm : Imm14)
  /-- STW_EXT (R170). STW with an offset from extension words. -/
  | stwExt (rs : Reg) (rb : Reg) (e : Ext)
  /-- STD (R170). Stores a double-word. -/
  | std (rs : Reg) (rb : Reg) (imm : Imm14)
  /-- STD_EXT (R170). STD with an offset from extension words. -/
  | stdExt (rs : Reg) (rb : Reg) (e : Ext)
  /-- STQ (R171). Stores an even register pair as 16 aligned bytes, atomic per element. -/
  | stq (rs : Reg) (rb : Reg) (off : BitVec 13) (es : Bool)
  /-- STQ_EXT (R171). STQ with a byte offset from extension words. -/
  | stqExt (rs : Reg) (rb : Reg) (es : Bool) (e : Ext)
  /-- TLD (R172). Loads 1-8 bytes from a READY tile handle at a register offset. -/
  | tld (rd : Reg) (ro : Reg) (h : BitVec 8) (sz : AccSize)
  /-- TLD_EXT (R172). TLD with an added offset from ext0. -/
  | tldExt (rd : Reg) (ro : Reg) (h : BitVec 8) (sz : AccSize) (e0 : BitVec 32)
  /-- TST (R172). Stores 1-8 bytes into a READY tile handle at a register offset. -/
  | tst (rd : Reg) (ro : Reg) (h : BitVec 8) (sz : AccSize)
  /-- TST_EXT (R172). TST with an added offset from ext0. -/
  | tstExt (rd : Reg) (ro : Reg) (h : BitVec 8) (sz : AccSize) (e0 : BitVec 32)
  /-- AMOADD (R173). Atomically adds at the home of an address. -/
  | amoAdd (rd : Reg) (rs1 : Reg) (rs2 : Reg) (ret : Bool) (dw : Bool) (ord : AmoOrder)
  /-- AMOAND (R173). Atomically ANDs at the home of an address. -/
  | amoAnd (rd : Reg) (rs1 : Reg) (rs2 : Reg) (ret : Bool) (dw : Bool) (ord : AmoOrder)
  /-- AMOOR (R173). Atomically ORs at the home of an address. -/
  | amoOr (rd : Reg) (rs1 : Reg) (rs2 : Reg) (ret : Bool) (dw : Bool) (ord : AmoOrder)
  /-- AMOXOR (R173). Atomically XORs at the home of an address. -/
  | amoXor (rd : Reg) (rs1 : Reg) (rs2 : Reg) (ret : Bool) (dw : Bool) (ord : AmoOrder)
  /-- AMOMIN (R173). Atomic signed minimum. -/
  | amoMin (rd : Reg) (rs1 : Reg) (rs2 : Reg) (ret : Bool) (dw : Bool) (ord : AmoOrder)
  /-- AMOMAX (R173). Atomic signed maximum. -/
  | amoMax (rd : Reg) (rs1 : Reg) (rs2 : Reg) (ret : Bool) (dw : Bool) (ord : AmoOrder)
  /-- AMOMINU (R173). Atomic unsigned minimum. -/
  | amoMinu (rd : Reg) (rs1 : Reg) (rs2 : Reg) (ret : Bool) (dw : Bool) (ord : AmoOrder)
  /-- AMOMAXU (R173). Atomic unsigned maximum. -/
  | amoMaxu (rd : Reg) (rs1 : Reg) (rs2 : Reg) (ret : Bool) (dw : Bool) (ord : AmoOrder)
  /-- AMOSWAP (R173). Atomically swaps a value into memory. -/
  | amoSwap (rd : Reg) (rs1 : Reg) (rs2 : Reg) (ret : Bool) (dw : Bool) (ord : AmoOrder)
  /-- AMOCAS (R173). Atomic compare-and-swap returning the old value in rd. -/
  | amoCas (rd : Reg) (rs1 : Reg) (rs2 : Reg) (dw : Bool) (ord : AmoOrder)
  /-- AMOFADD (R173). Atomic floating add, or buffered contribution in reproducible mode. -/
  | amoFadd (rs1 : Reg) (rs2 : Reg) (dw : Bool) (ord : AmoOrder)
  /-- FENCE (R177). Orders or waits for earlier accesses or commands by scope and kind. -/
  | fence (sc : Scope) (k : FenceKind)
  /-- CSRR (R79). Reads a system register into rd. -/
  | csrr (rd : Reg) (n : BitVec 11)
  /-- CSRW (R79). Writes a system register and returns its old value. -/
  | csrw (rd : Reg) (rs1 : Reg) (n : BitVec 11)
  /-- CSRS (R79). Sets bits of a system register and returns its old value. -/
  | csrs (rd : Reg) (rs1 : Reg) (n : BitVec 11)
  /-- CSRC (R79). Clears bits of a system register and returns its old value. -/
  | csrc (rd : Reg) (rs1 : Reg) (n : BitVec 11)
  /-- TRAP (R341). Traps to the supervisor with a register value in EINFO. -/
  | trap (rs1 : Reg)
  /-- TRAP_IMM (R341). Traps to the supervisor with an immediate from ext0 in EINFO. -/
  | trapImm (e0 : BitVec 32)
  /-- ERET (R343). Returns from a handler, restoring privilege and clause state. -/
  | eret
  /-- WAIT (R93). Waits while an 8-byte location holds an expected value, up to a cycle limit. -/
  | waitLoc (rd : Reg) (rs1 : Reg) (rs2 : Reg)
  /-- BRK (R342). Takes a BREAK trap at its own address. -/
  | brk
  /-- EXIT (R94). Puts the context in ENDING to drain and end the thread. -/
  | exitThread
  /-- NOP (R95). Takes one issue slot and does nothing else. -/
  | nop
  /-- ICINV (R344). Releases earlier stores and discards overlapping cached instructions within a scope. -/
  | icinv (rd : Reg) (rs1 : Reg) (rs2 : Reg) (sc : IcScope)
  /-- TLBINV (R255). Posts invalidation of a VA range for one ASID to every holder. -/
  | tlbinv (rd : Reg) (rs1 : Reg) (rs2 : Reg)
  /-- TLBINVA (R255). Posts invalidation of a whole ASID or every ASID of the tenant. -/
  | tlbinva (rd : Reg) (rs1 : Reg)
  /-- TLBSYNC (R256). Waits until the thread's posted invalidations have taken full effect. -/
  | tlbsync (rd : Reg) (rs1 : Reg)
  /-- JOIN (R89). Joins a membership set, creating it if needed. -/
  | join (rd : Reg) (rs1 : Reg)
  /-- LEAVE (R89). Leaves a set, counting as an arrival when current. -/
  | leave (rd : Reg) (rs1 : Reg)
  /-- SBAR (R89). Arrives at a set barrier and waits for its phase to complete. -/
  | sbar (rd : Reg) (rs1 : Reg)
  /-- SBIND (R147). Binds a stream descriptor to a port as a data-class command. -/
  | sbind (rd : Reg) (rs1 : Reg) (rs2 : Reg)
  /-- SCLOSE (R148). Closes, or with .re reopens, named ports of a plane. -/
  | sclose (rd : Reg) (rs1 : Reg) (re : Bool)
  /-- SMARK (R149). Injects a cut marker into named read ports, beginning a program cut. -/
  | smark (rd : Reg) (rs1 : Reg)
  /-- SWAIT (R150). Waits for a port's stream to end, up to a cycle limit. -/
  | swait (rd : Reg) (rs1 : Reg) (rs2 : Reg)
  /-- CBAR (R146). Waits until every earlier command of the thread has completed. -/
  | cbar
  /-- SCFG (R145). Accepts a load of a configuration image into a plane, which enters LOADING. -/
  | scfg (rd : Reg) (rs1 : Reg) (rs2 : Reg)
  /-- TALLOC (R179). Allocates a tile handle with a shape and level. -/
  | talloc (rd : Reg) (rs1 : Reg) (rs2 : Reg)
  /-- TFREE (R180). Frees a tile handle and queues its granules for zeroing. -/
  | tfree (rd : Reg) (rs1 : Reg)
  /-- TFILL (R181). Accepts a command copying memory into a tile, which becomes FILLING. -/
  | tfill (rd : Reg) (rs1 : Reg) (rs2 : Reg)
  /-- TDRAIN (R182). Accepts a command copying a tile to memory, which becomes DRAINING. -/
  | tdrain (rd : Reg) (rs1 : Reg) (rs2 : Reg)
  /-- TSTAT (R183). Returns the state word of a tile handle. -/
  | tstat (rd : Reg) (rs1 : Reg)
  /-- TWAIT (R184). Waits for a tile handle to become READY, up to a cycle limit. -/
  | twait (rd : Reg) (rs1 : Reg) (rs2 : Reg)
  /-- MLOAD (R208). Accepts a weight-slice load into a lattice slot, which becomes LOADING. -/
  | mload (rd : Reg) (rs1 : Reg) (rs2 : Reg)
  /-- MBIND (R209). Queues a binding of a weight slot, tile and rows on a lattice. -/
  | mbind (rd : Reg) (rs1 : Reg)
  /-- MZERO (R210). Accepts a command clearing accumulator tiles into narrow or wide mode. -/
  | mzero (rd : Reg) (rs1 : Reg)
  /-- MREAD (R211). Accepts a read-out of accumulator rows with one rounding per element. -/
  | mread (rd : Reg) (rs1 : Reg) (rs2 : Reg) (clr : Bool) (e4nan : Bool)
  /-- MNORM (R212). Accepts a renormalisation of narrow rows to a headroom target. -/
  | mnorm (rd : Reg) (rs1 : Reg)
  /-- MHEAD (R213). Returns the head state of one accumulator row. -/
  | mhead (rd : Reg) (rs1 : Reg)
  /-- DDECL (R291). Declares a derived region, reserving row states and beginning its build. -/
  | ddecl (rd : Reg) (rs1 : Reg)
  /-- DRD (R292). Reads derived row values into registers or a tile, waiting or returning STALE with .nb. -/
  | drd (rd : Reg) (rs1 : Reg) (rs2 : Reg) (nb : Bool)
  /-- DSYNC (R293). Waits for the derived updates and result writes of one party's stores. -/
  | dsync (rd : Reg) (rs1 : Reg) (rs2 : Reg)
  /-- DREB (R294). Rebuilds a derived region, clearing drift. -/
  | dreb (rd : Reg) (rs1 : Reg)
  /-- DDROP (R295). Drops a derived region and frees its row states. -/
  | ddrop (rd : Reg) (rs1 : Reg)
  /-- DSTAT (R296). Returns the state word of a derived region and row. -/
  | dstat (rd : Reg) (rs1 : Reg)
  /-- RINIT (R230). Sets up or tears down a ring of tile handles. -/
  | rinit (rd : Reg) (rs1 : Reg) (rs2 : Reg)
  /-- RAWAIT (R231). Waits for a ring slot to be filled, up to a cycle limit. -/
  | rawait (rd : Reg) (rs1 : Reg) (rs2 : Reg)
  /-- RREL (R232). Accepts a signal-class release of the oldest filled ring slot. -/
  | rrel (rd : Reg) (rs1 : Reg)
  /-- RPEEK (R233). Returns the state word of a ring. -/
  | rpeek (rd : Reg) (rs1 : Reg)
  /-- GINIT (R234). Initialises a gate's arrival count and phase. -/
  | ginit (rd : Reg) (rs1 : Reg) (rs2 : Reg)
  /-- GARR (R235). Accepts a signal-class arrival at a gate. -/
  | garr (rd : Reg) (rs1 : Reg)
  /-- GEXP (R236). Adds to a gate's transaction or arrival expectation at acceptance. -/
  | gexp (rd : Reg) (rs1 : Reg) (rs2 : Reg) (arr : Bool)
  /-- GWAIT (R237). Waits until a gate's phase differs from a given value. -/
  | gwait (rd : Reg) (rs1 : Reg) (rs2 : Reg)
  /-- CKICK (R238). Accepts a data-class command starting a copy channel on a chain. -/
  | ckick (rd : Reg) (rs1 : Reg) (rs2 : Reg)
  /-- CSTAT (R239). Returns the state word of a copy channel. -/
  | cstat (rd : Reg) (rs1 : Reg)
  /-- CSTOP (R240). Stops or clears a copy channel and waits for its stores. -/
  | cstop (rd : Reg) (rs1 : Reg)
  /-- LPATCH (R314). Writes one field, or the whole record, of an IDLE launch-record slot. -/
  | lpatch (rd : Reg) (rs1 : Reg) (rs2 : Reg)
  /-- LARM (R315). Submits a launch-record slot to one of the tenant's queues. -/
  | larm (rd : Reg) (rs1 : Reg) (rs2 : Reg)
  /-- LSTAT (R316). Returns the state word of a launch-record slot. -/
  | lstat (rd : Reg) (rs1 : Reg)
  /-- NBDOT (R264). Accepts a near-bank dot-product command on a mailbox. -/
  | nbdot (rd : Reg) (rs1 : Reg) (rs2 : Reg)
  /-- NBWAIT (R267). Waits for a mailbox to be DONE, up to a cycle limit. -/
  | nbwait (rd : Reg) (rs1 : Reg) (rs2 : Reg)
  /-- KSCAN (R317). Reads and clears one word of the kick or watchdog bitmap atomically. -/
  | kscan (rd : Reg) (rs1 : Reg)
  /-- JRNL (R317). Writes a journal record to both SRAM banks with JSEQ, core and CRC. -/
  | jrnl (rd : Reg) (rs1 : Reg)
  /-- DISP (R319). Dispatches a queued launch slot whole or not at all. -/
  | disp (rd : Reg) (rs1 : Reg)
  /-- CHOLD (R317). Sets a hold on one or every completion ring. -/
  | chold (rd : Reg) (rs1 : Reg)
  /-- CREL (R318). Posts held completions in held order and clears the holds. -/
  | crel (rd : Reg) (rs1 : Reg)
  /-- HBEAT (R317). Resets the core's heartbeat age and returns every core's role and age. -/
  | hbeat (rd : Reg)
  /-- SCRUB (R370). Accepts a scrub request, making the named units scrubbing and returning SEQ. -/
  | scrub (rd : Reg) (rs1 : Reg)
  /-- ILLEGAL (R18). A thread reaches a word that decodes to no permitted instruction and traps precisely with ILLEGAL. -/
  | illegal (w : BitVec 32)
  /-- FETCHFAULT (R18). An instruction's first word or an extension word cannot be fetched, and the thread traps with FETCHFAULT. -/
  | fetchfault (faddr : BitVec 64) (info : BitVec 64)
  /-- PICKING_CYCLE (R107). In a picking cycle of a resident plane, the cell's picker fires one ready rule, performing its first beat, and updates the ageing counters. -/
  | pickingCycle (plot : Nat) (plane : Nat) (cell : Nat)
  /-- RULE_BEAT (R103). A later beat of a fired rule, performed when its tokens and output room are present. -/
  | ruleBeat (plot : Nat) (plane : Nat) (cell : Nat)
  /-- RULE_RESULT_LAND (R106). A rule's result reaches its register, predicate or output queue at cycle c + L. -/
  | ruleResultLand (plot : Nat) (plane : Nat) (cell : Nat)
  /-- MARKER_MOVE (R218). An end-of-tile marker at a cell input moves to the matching output queue. -/
  | markerMove (plot : Nat) (plane : Nat) (cell : Nat) (q : Nat)
  /-- PRED_MARKER_REMOVE (R101). An end-of-tile marker at a predicate input is removed. -/
  | predMarkerRemove (plot : Nat) (plane : Nat) (cell : Nat)
  /-- TOKEN_DELIVERY (R129). A token advances one hop of its route when a buffer slot is free. -/
  | tokenDelivery (plot : Nat) (plane : Nat) (ep : Nat)
  /-- ORDERING_ARC_DELIVERY (R133). An ordering arc delivers a token once its carried horizon is performed. -/
  | orderingArcDelivery (plot : Nat) (plane : Nat) (ep : Nat)
  /-- CONFIGURATION_LOAD_END (R145). A plane finishes reading its image and becomes CONFIGURED, UNCONFIGURED or FAULTED. -/
  | configurationLoadEnd (plot : Nat) (plane : Nat)
  /-- STREAM_BEGIN (R139). A bound stream starts once the streams of its AFTER mask have ended. -/
  | streamBegin (plot : Nat) (port : Nat)
  /-- PORT_READ_BEAT (R137). A read port reads a beat and emits it as a token, with scale tokens and end-of-tile markers. -/
  | portReadBeat (plot : Nat) (port : Nat)
  /-- PORT_WRITE_BEAT (R137). A write port dequeues a token and stores its beat. -/
  | portWriteBeat (plot : Nat) (port : Nat)
  /-- ROW_ACKNOWLEDGEMENT (R137). A write port emits a row acknowledgement once the row's stores are performed. -/
  | rowAcknowledgement (plot : Nat) (port : Nat)
  /-- STREAM_END (R139). A stream ends and the port becomes IDLE; a write stream's end releases its stores. -/
  | streamEnd (plot : Nat) (port : Nat)
  /-- STREAM_FATAL (R138). A port's translation ends fatally or a tile beat lies outside the tile; the port becomes FAULTED. -/
  | streamFatal (plot : Nat) (port : Nat)
  /-- SCLOSE_APPLY (R148). The SCLOSE command starts and closes or reopens its ports. -/
  | scloseApply (tid : Nat)
  /-- SMARK_INJECT (R149). The SMARK command starts and injects marker n at its ports and the region's other sources. -/
  | smarkInject (tid : Nat)
  /-- EOT_MARKER_CONSUME (R217). A ring-producer port consumes an end-of-tile marker and delivers its marker for the slot. -/
  | eotMarkerConsume (plot : Nat) (port : Nat)
  /-- RREL_START (R232). RREL starts: the slot's tile becomes EMPTY and waiting producers are freed. -/
  | rrelStart (tid : Nat)
  /-- GARR_START (R235). GARR starts: earlier accesses are performed and ARR is decremented. -/
  | garrStart (tid : Nat)
  /-- CKICK_START (R238). CKICK starts: earlier accesses are performed and the channel becomes RUNNING. -/
  | ckickStart (tid : Nat)
  /-- CHANNEL_RECORD_START (R227). A channel reads and checks a transfer record and begins it once its ring slot is writable. -/
  | channelRecordStart (chan : Nat)
  /-- CHANNEL_RECORD_COMPLETE (R227). A record's stores are performed; OWN clears, the marker and gate decrement follow. -/
  | channelRecordComplete (chan : Nat)
  /-- CSTOP_DONE (R240). A stopped channel's issued stores are performed and it becomes IDLE. -/
  | cstopDone (chan : Nat)
  /-- TFILL_END (R181). A fill finishes, leaving the tile READY or EMPTY with ERR set. -/
  | tfillEnd (plot : Nat) (h : Nat)
  /-- TDRAIN_END (R182). A drain's stores are performed and the tile returns to READY. -/
  | tdrainEnd (plot : Nat) (h : Nat)
  /-- GRANULE_ZERO (R155). The plot zeroes one granule from its zeroing queue. -/
  | granuleZero (plot : Nat)
  /-- SLICE_LOAD_END (R208). A weight-slice body read finishes; the slot becomes VALID or FAILED. -/
  | sliceLoadEnd (plot : Nat) (lat : Nat) (slot : Nat)
  /-- BINDING_START (R209). A queued binding starts, checks its tile mode and decompresses into the shadow plane. -/
  | bindingStart (plot : Nat) (lat : Nat)
  /-- WEIGHT_RELOAD (R192). At a row boundary the complete shadow becomes the active plane and BFMT is latched. -/
  | weightReload (plot : Nat) (lat : Nat)
  /-- ROW_FIRE (R194). A lattice fires an A row and adds its chunks to the tile row. -/
  | rowFire (plot : Nat) (lat : Nat)
  /-- ASSIST_RESUME (R201). The next queued column is presented or the tile resumes. -/
  | assistResume (plot : Nat)
  /-- MZERO_CLEAR (R210). MZERO starts and clears its tiles and counters. -/
  | mzeroClear (plot : Nat) (id : Nat)
  /-- MREAD_READOUT (R211). MREAD starts and rounds rows out to a tile or read-out source. -/
  | mreadReadout (plot : Nat) (id : Nat)
  /-- MNORM_APPLY (R212). MNORM starts and renormalises rows below the target headroom. -/
  | mnormApply (plot : Nat) (id : Nat)
  /-- INVALIDATION_ARRIVE (R255). A posted invalidation reaches a translation holder. -/
  | invalidationArrive (id : Nat) (p : Holder)
  /-- NBDOT_START (R264). A near-bank command starts, releasing the thread's accesses and reading rows. -/
  | nbdotStart (tid : Nat)
  /-- NBDOT_COMPLETE (R264). The result slots are written, the mailbox becomes DONE and the wake gate is signalled. -/
  | nbdotComplete (mbox : Nat)
  /-- DERIVED_UPDATE_APPLY (R283). A derived unit applies a queued update to a row part. -/
  | derivedUpdateApply (region : Nat) (granule : Nat)
  /-- DERIVED_BUILD (R284). A row part is built from the base at one point of its update sequence. -/
  | derivedBuild (region : Nat) (row : Nat) (part : Nat)
  /-- ROW_RESCAN (R284). A stale row part is rescanned. -/
  | rowRescan (region : Nat) (row : Nat) (part : Nat)
  /-- DERIVED_RESULT_WRITE (R285). The derived unit writes a changed row value to the result array. -/
  | derivedResultWrite (region : Nat) (row : Nat)
  /-- COMMAND_START (R141). A command without its own start row leaves its command-queue entry and its unit starts it. -/
  | commandStart (tid : Nat) (signal : Bool)
  /-- CMDQ_STALL (R142). A thread stalled on a full command queue for QSTALLMAX cycles traps. -/
  | cmdqStall (tid : Nat)
  /-- DCACHE_LINE_EXPIRY (R160). A data-cache line is invalidated 4,096 cycles after its fill. -/
  | dcacheLineExpiry (plot : Nat) (line : Nat)
  /-- THREAD_END (R94). An ENDING context finishes draining, its memberships are removed and it becomes FREE. -/
  | threadEnd (tid : Nat)
  /-- COMPLETION_POST (R303). A completion record is posted to its ring when no hold applies and the ring has room. -/
  | completionPost (slot : Nat)
  /-- QUEUE_ENTRY_TAKE (R297). The lodge takes an entry at the head of a hardware queue and submits or refuses it. -/
  | queueEntryTake (q : Nat)
  /-- WATCHDOG_EXPIRY (R308). A launch's watchdog expires and sets its bit in the watchdog bitmap. -/
  | watchdogExpiry (slot : Nat)
  /-- BALANCER_SAMPLE (R307). The stage balancer samples queue occupancies and may start or retire a replica. -/
  | balancerSample (slot : Nat)
  /-- HEARTBEAT_TIMEOUT (R311). An active lodge core's heartbeat age reaches 100 µs and a take-over begins. -/
  | heartbeatTimeout (core : Nat)
  /-- PEEK (R350). Window command reading a slot's state and progress flags. -/
  | winPeek (core : Nat)
  /-- STOP (R350). Window command stopping a launch's contexts, channels and watchdog. -/
  | winStop (core : Nat)
  /-- CUT (R350). Window command closing read ports and running a lodge cut of the region. -/
  | winCut (core : Nat)
  /-- DRAIN (R350). Window command discarding region tokens and unloading its planes. -/
  | winDrain (core : Nat)
  /-- RESET (R350). Window command freeing the launch's contexts, carve-outs and sole-use handles. -/
  | winReset (core : Nat)
  /-- POST (R350). Window command posting the launch's completion with a given status. -/
  | winPost (core : Nat)
  /-- WINDOW_COMMAND_FINISH (R349). A window command finishes and LCST reads BUSY 0 with its result. -/
  | windowCommandFinish (core : Nat)
  /-- FRAME_ENTRY_BOUNDARY (R321). A frame-table entry ends and the next valid entry, or a new table, takes effect. -/
  | frameEntryBoundary (die : Nat)
  /-- CELL_CUT_ALIGN (R324). A cell with marker n at every input snapshots and forwards the marker. -/
  | cellCutAlign (plot : Nat) (plane : Nat) (cell : Nat)
  /-- LATTICE_CUT (R206). A lattice completes rows ahead of the marker, snapshots and forwards it. -/
  | latticeCut (plot : Nat) (lat : Nat)
  /-- CUT_COMPLETE (R326). A cut's markers have left every exit and its image is written; held signals are released. -/
  | cutComplete (region : Nat)
  /-- CUT_ABANDON (R328). A cut's image cannot be written and the cut is abandoned with PREEMPT. -/
  | cutAbandon (region : Nat)
  /-- PERIODIC_CUT (R326). CUTINT elapses for a rollback-safe launch and the lodge starts a cut. -/
  | periodicCut (slot : Nat)
  /-- ROLLBACK (R332). A fault in a region restores it from its last complete cut. -/
  | rollback (region : Nat)
  /-- DOUBLE_RESET (R339). The lodge resets a context in DOUBLE and completes its launch with FAULT. -/
  | doubleReset (tid : Nat)
  /-- SCRUB_REQUEST_START (R362). An accepted scrub request starts clearing its units in acceptance order. -/
  | scrubRequestStart
  /-- SCRUB_CLEAR_COMPLETE (R362). Clearing of a request ends and its units pass to the incoming tenant. -/
  | scrubClearComplete
  /-- TOKEN_WRITE (R366). Signing ends and the token and MARK are written, with TOKSEQ and the interrupt. -/
  | tokenWrite
  /-- MAILBOX_COMMAND_DONE (R372). A mailbox command finishes, writing its response and clearing BUSY. -/
  | mailboxCommandDone (fn : Nat)
  /-- FUNCTION_LEVEL_RESET (R373). A VF reset aborts its launches and deletes its queues, rings and IRQ words. -/
  | functionLevelReset (vf : Nat)
  /-- PLOT_RETIREMENT (R377). The lodge cuts, freezes and copies a worn plot to a spare and resumes it. -/
  | plotRetirement (plot : Nat)
  /-- PLOT_PAIRING (R379). A worn plot with no spare left is paired with a partner plot. -/
  | plotPairing (plot : Nat)
  /-- COLUMN_RETIREMENT (R378). A worn lattice column is replaced by a spare between bindings. -/
  | columnRetirement (plot : Nat) (lat : Nat) (col : Nat)
  /-- WAY_RETIREMENT (R378). A worn home-slice way is written back and replaced by the spare. -/
  | wayRetirement (slice : Nat) (way : Nat)
  /-- HBM_ROW_REPAIR (R378). A worn HBM row is read, repaired and written back. -/
  | hbmRowRepair (row : Nat)
  /-- LANE_REPLACEMENT (R387). A worn Solrus lane is replaced at an agreed flit boundary. -/
  | laneReplacement (port : Nat) (lane : Nat)
  /-- REMOTE_ACCESS_TIMEOUT (R386). A remote access not delivered within 1 ms fails with UNCORR or a fatal unit outcome. -/
  | remoteAccessTimeout (id : Nat)
  /-- ACCESS_PERFORMED (R162). A home slice performs an issued load, store or AMO in its line's order, making it performed and passing stores to its derived unit. -/
  | accessPerformed (id : Nat)
  /-- PREEMPTION (R331). Firmware pre-empts a launch: stops its threads, closes its ports, runs a pre-emption cut that saves thread state, unloads its planes and records PREEMPT. -/
  | preemption (slot : Nat)
  /-- CELL_NOP (R113). Rule operation occupying N beats with no effect. -/
  | cellNop (r : RuleAt)
  /-- CELL_MOV (R113). Rule operation moving A to the destination. -/
  | cellMov (r : RuleAt)
  /-- CELL_SEL (R113). Rule operation selecting A or B by p0. -/
  | cellSel (r : RuleAt)
  /-- CELL_ADD (R114). Integer lane addition, wrapping or saturating. -/
  | cellAdd (r : RuleAt)
  /-- CELL_SUB (R114). Integer lane subtraction. -/
  | cellSub (r : RuleAt)
  /-- CELL_MUL (R114). Integer lane multiplication. -/
  | cellMul (r : RuleAt)
  /-- CELL_AND (R114). Bitwise AND over the beat. -/
  | cellAnd (r : RuleAt)
  /-- CELL_OR (R114). Bitwise OR over the beat. -/
  | cellOr (r : RuleAt)
  /-- CELL_XOR (R114). Bitwise XOR over the beat. -/
  | cellXor (r : RuleAt)
  /-- CELL_SHL (R114). Integer lane shift left. -/
  | cellShl (r : RuleAt)
  /-- CELL_SHR (R114). Integer lane logical shift right. -/
  | cellShr (r : RuleAt)
  /-- CELL_SAR (R114). Integer lane arithmetic shift right. -/
  | cellSar (r : RuleAt)
  /-- CELL_MIN (R114). Integer lane minimum. -/
  | cellMin (r : RuleAt)
  /-- CELL_MAX (R114). Integer lane maximum. -/
  | cellMax (r : RuleAt)
  /-- CELL_ABS (R114). Integer lane absolute value. -/
  | cellAbs (r : RuleAt)
  /-- CELL_NEG (R114). Integer lane negation. -/
  | cellNeg (r : RuleAt)
  /-- CELL_CMPEQ (R115). Sets a predicate when every lane is equal. -/
  | cellCmpeq (r : RuleAt)
  /-- CELL_CMPLT (R115). Sets a predicate when every lane is less, signed. -/
  | cellCmplt (r : RuleAt)
  /-- CELL_CMPLE (R115). Sets a predicate when every lane is less or equal, signed. -/
  | cellCmple (r : RuleAt)
  /-- CELL_FADD (R116). Floating lane addition rounded in RM. -/
  | cellFadd (r : RuleAt)
  /-- CELL_FSUB (R116). Floating lane subtraction. -/
  | cellFsub (r : RuleAt)
  /-- CELL_FMUL (R116). Floating lane multiplication. -/
  | cellFmul (r : RuleAt)
  /-- CELL_FMA (R116). Fused multiply-add accumulating into the destination register. -/
  | cellFma (r : RuleAt)
  /-- CELL_FMIN (R116). Floating lane minimum. -/
  | cellFmin (r : RuleAt)
  /-- CELL_FMAX (R116). Floating lane maximum. -/
  | cellFmax (r : RuleAt)
  /-- CELL_FCMPEQ (R116). Sets a predicate when every floating lane is equal. -/
  | cellFcmpeq (r : RuleAt)
  /-- CELL_FCMPLT (R116). Sets a predicate when every floating lane is less. -/
  | cellFcmplt (r : RuleAt)
  /-- CELL_FABS (R116). Clears the sign of each floating lane. -/
  | cellFabs (r : RuleAt)
  /-- CELL_FNEG (R116). Inverts the sign of each floating lane. -/
  | cellFneg (r : RuleAt)
  /-- CELL_CVT (R117). Converts lanes between element formats. -/
  | cellCvt (r : RuleAt)
  /-- CELL_QBFP (R118). Quantises values into BFP blocks with a scale word each. -/
  | cellQbfp (r : RuleAt)
  /-- CELL_DQBFP (R119). Dequantises BFP mantissa tokens by their scale words. -/
  | cellDqbfp (r : RuleAt)
  /-- CELL_EXP2 (R120). Correctly rounded base-2 exponential per lane. -/
  | cellExp2 (r : RuleAt)
  /-- CELL_LOG2 (R120). Correctly rounded base-2 logarithm per lane. -/
  | cellLog2 (r : RuleAt)
  /-- CELL_RCP (R120). Correctly rounded reciprocal per lane. -/
  | cellRcp (r : RuleAt)
  /-- CELL_RSQRT (R120). Correctly rounded reciprocal square root per lane. -/
  | cellRsqrt (r : RuleAt)
  /-- CELL_SQRT (R120). Correctly rounded square root per lane. -/
  | cellSqrt (r : RuleAt)
  /-- CELL_TANH (R120). Correctly rounded tanh per lane. -/
  | cellTanh (r : RuleAt)
  /-- CELL_SIGM (R120). Correctly rounded logistic sigmoid per lane. -/
  | cellSigm (r : RuleAt)
  /-- CELL_GACT (R120). Gate times activation with one RNE rounding per lane. -/
  | cellGact (r : RuleAt)
  /-- CELL_RSUM (R121). Reduces N tokens by sum in arrival order. -/
  | cellRsum (r : RuleAt)
  /-- CELL_RMAX (R121). Reduces N tokens by maximum. -/
  | cellRmax (r : RuleAt)
  /-- CELL_PSET (R122). Sets a predicate to a constant. -/
  | cellPset (r : RuleAt)
  /-- CELL_PAND (R122). ANDs two predicates. -/
  | cellPand (r : RuleAt)
  /-- CELL_POR (R122). ORs two predicates. -/
  | cellPor (r : RuleAt)
  /-- CELL_PNOT (R122). Inverts a predicate. -/
  | cellPnot (r : RuleAt)
  /-- CELL_STEER (R123). Routes a data token by a predicate token to one of two outputs. -/
  | cellSteer (r : RuleAt)
  /-- CELL_MERGE (R123). Moves the head of A or B chosen by a predicate token. -/
  | cellMerge (r : RuleAt)
  /-- CELL_PSEND (R122). Writes a predicate as a one-bit token or register value. -/
  | cellPsend (r : RuleAt)
  /-- CELL_PRECV (R122). Dequeues a predicate token into a predicate. -/
  | cellPrecv (r : RuleAt)
  /-- CELL_TAGSET (R124). Copies tokens to the destination with a set tag. -/
  | cellTagset (r : RuleAt)
  /-- CELL_DROP (R124). Dequeues tokens or frees a register and does nothing else. -/
  | cellDrop (r : RuleAt)
  /-- RULE_PROMOTION (R107). A rule's ageing counter reaches AGELIM and the rule is promoted. -/
  | rulePromotion (plot : Nat) (plane : Nat) (cell : Nat) (slot : Nat)
  /-- CELL_FAULT (R110). A cell raises FABRIC for an empty E source, dead read or predicate mismatch and stops firing on the plane. -/
  | cellFault (plot : Nat) (plane : Nat) (cell : Nat)
  /-- ASSISTRES_WRITE (R201). Firmware writes the assist result into the element and ASSISTCNT advances. -/
  | assistresWrite (plot : Nat) (v : BitVec 64)
  /-- PAGE_WALK (R244). A walker translates a VA through the page tables to an SPA, a request or a fatal outcome. -/
  | pageWalk (p : Holder) (va : BitVec 64) (k : AccKind)
  /-- PRQRESP_WRITE (R252). System software answers a page-request entry of its thread's tenant with RETRY or FATAL. -/
  | prqrespWrite (tid : Nat) (v : BitVec 64)
  /-- HBM_REFRESH_DUE (R266). A refresh falls due during a lock-step near-bank command and is postponed or run. -/
  | hbmRefreshDue (mbox : Nat)
  /-- WAIT_WAKE (R93). A store visible to a waiting WAIT makes it recompare. -/
  | waitWake (tid : Nat)
  /-- WAIT_LIMIT_EXPIRY (R93). The cycle limit of a waiting instruction expires and it returns BUSY. -/
  | waitLimitExpiry (tid : Nat)
  /-- SWAIT_RETURN (R150). SWAIT returns once the port's stream has ended or faulted. -/
  | swaitReturn (tid : Nat)
  /-- TWAIT_RETURN (R184). TWAIT returns once the handle is READY or ERR is set. -/
  | twaitReturn (tid : Nat)
  /-- RAWAIT_RETURN (R231). RAWAIT returns once the slot has filled or the ring left ACTIVE. -/
  | rawaitReturn (tid : Nat)
  /-- GWAIT_RETURN (R237). GWAIT returns after the gate's phase has changed. -/
  | gwaitReturn (tid : Nat)
  /-- SBAR_RETURN (R92). A member waiting in SBAR returns after its phase completes. -/
  | sbarReturn (tid : Nat)
  /-- TLBSYNC_RETURN (R256). TLBSYNC returns once its invalidations have taken full effect. -/
  | tlbsyncReturn (tid : Nat)
  /-- DSYNC_RETURN (R293). DSYNC returns once the updates and result writes are performed. -/
  | dsyncReturn (tid : Nat)
  /-- DRD_RETURN (R292). A blocked DRD returns once its updates are applied and rows are ready. -/
  | drdReturn (tid : Nat)
  /-- NBWAIT_RETURN (R267). NBWAIT returns the mailbox status once it is DONE. -/
  | nbwaitReturn (tid : Nat)
  /-- CBAR_RETURN (R146). CBAR returns once the thread's earlier commands have completed. -/
  | cbarReturn (tid : Nat)
  /-- ICINV_RETURN (R344). ICINV returns once every core in scope has discarded the lines. -/
  | icinvReturn (tid : Nat)
  /-- INSTRUCTION_MEMORY_ERROR (R311). An uncorrectable error in an active core's instruction memory starts a take-over. -/
  | instructionMemoryError (core : Nat) (addr : Nat)
  /-- DBGCTL_HALT (R347). A DBGCTL write with HALT stops the target's threads and units. -/
  | dbgctlHalt (tenant : Nat) (v : BitVec 64)
  /-- DBGCTL_RUN (R347). A DBGCTL write with RUN releases everything the halt stopped. -/
  | dbgctlRun (tenant : Nat) (v : BitVec 64)
  /-- FQTAKE_WRITE (R357). System software acknowledges fault-queue records up to a SEQ. -/
  | fqtakeWrite (tenant : Nat) (v : BitVec 64)
  /-- KICK (R298). A host write to KICK sets a pending-kick bit for a queue. -/
  | kick (vf : Nat) (n : Nat)
  /-- QDESC_WRITE (R373). A host write creates, deletes or leaves a hardware queue descriptor. -/
  | qdescWrite (vf : Nat) (n : Nat) (w0 : BitVec 64) (w8 : BitVec 32) (w12 : BitVec 32)
  /-- RDESC_WRITE (R373). A host write creates or deletes a completion ring or advances its TAKE. -/
  | rdescWrite (vf : Nat) (n : Nat) (w0 : BitVec 64) (w8 : BitVec 32) (w12 : BitVec 32)
  /-- REGISTER_WRITE (R373). A write to a register with no row of its own stores its value. -/
  | registerWrite (target : RegTarget) (v : BitVec 64)
  /-- SETWIN (R372). Administrative command setting a tenant's memory window. -/
  | setwin (vf : Nat) (pbase : BitVec 64) (plimit : BitVec 64)
  /-- SETKEY (R372). Administrative command loading a tenant's AES-XTS-256 key pair. -/
  | setkey (vf : Nat) (dk : BitVec 256) (tk : BitVec 256)
  /-- SETQUOTA (R372). Administrative command setting a tenant's quotas and LMAX values. -/
  | setquota (vf : Nat) (sets : Nat) (regions : Nat) (pins : Nat) (lmax : List Nat)
  /-- SETRANGE (R372). Administrative command setting a tenant's launch-record range. -/
  | setrange (vf : Nat) (first : Nat) (count : Nat)
  /-- PLACE (R372). Administrative command issuing a scrub request through the lodge. -/
  | place (outvf : Nat) (invf : Nat) (ds : List (BitVec 64))
  /-- SETPERM (R372). Administrative command writing a row-granule permission entry. -/
  | setperm (granule : Nat) (v : BitVec 64)
  /-- SETWEIGHT (R372). Administrative command setting a tenant's PWEIGHT. -/
  | setweight (vf : Nat) (weight : Nat)
  /-- ATTEST (R371). Mailbox command returning a signed attestation report. -/
  | attest (fn : Nat) (vf : Nat) (nonce : BitVec 256)
  /-- GETKEY (R374). Administrative command returning the ML-DSA-44 public key. -/
  | getkey
  /-- REPAIRLOG (R372). Administrative command returning repair records from a SEQ. -/
  | repairlog (first : Nat)
  /-- DBGREG (R372). Administrative command reading or writing a halted thread's register. -/
  | dbgreg (tid : Nat) (reg : Nat) (write : Bool) (v : BitVec 64)
  /-- FWSTAGE (R389). Administrative command copying and verifying a firmware image for the next reset. -/
  | fwstage (addr : BitVec 64) (len : Nat)
  /-- PWRCAP (R390). Administrative command setting the package power cap. -/
  | pwrcap (watts : Nat)
  /-- SHARE (R372). Administrative command marking a second-tier granule host-shared or not. -/
  | share (granule : Nat) (on : Bool)
  /-- PACKAGE_RESET (R361). Package reset brings every unit to its reset state. -/
  | packageReset
  /-- WEAR_SAMPLE (R376). A wear monitor samples a unit's margin and may mark it worn. -/
  | wearSample (u : WearUnit) (low : Bool)
  /-- CORRECTED_ERROR (R376). A unit logs a corrected error, becoming worn past 16 in an hour. -/
  | correctedError (u : WearUnit)
  /-- SOLRUS_FLIT_RECEIVE (R385). A Solrus port receives a flit carrying a remote access, acknowledgement, halt or ICINV. -/
  | solrusFlitReceive (f : Flit)
  /-- HOST_SHARED_ACCESS (R260). The host accesses a host-shared second-tier line through CXL.mem. -/
  | hostSharedAccess (addr : BitVec 64) (data : Option (BitVec 64))
  /-- MCTP_REQUEST (R388). A management request over SMBus or I3C is answered. -/
  | mctpRequest (q : MctpReq)
  /-- PREEMPTION_RESUME (R331). Firmware reloads a pre-empted launch's images, restores its cut image, places its threads back in their contexts and reopens its ports. -/
  | preemptionResume (slot : Nat)
  /-- UNCORRECTABLE_ERROR (R376). An uncorrectable error arises in a unit's own logic, making it worn at once, or in a derived row state, making the row part stale. -/
  | uncorrectableError (u : ErrUnit)
  /-- CYCLE_WITHHELD (R390). The power governor withholds an issue, picking and row-firing cycle on a plot to keep package power under PWRCAP, counting it in THROTTLE. -/
  | cycleWithheld (plot : Nat)
  deriving DecidableEq, Repr

end Sys2Proof
end

