-- ==== Sys2Proof/WellFormed.lean ====
section
/-! DEFINITION. Which terms of `Instr` are encodable: the field rules of 02_words that the constructors' types do not
already enforce (R21, R24, R26, R290, R370). Events name units by number; their ranges are those of Table 1.1. -/

namespace Sys2Proof

/-- A register number that may name a pair (R24). -/
def Reg.even (r : Reg) : Bool := r.toNat % 2 == 0

/-- RET = 0 goes with rd = 0 (R26). -/
def amoOk (rd : Reg) (ret : Bool) : Bool := ret || rd == 0

/-- A plot number (R9). -/
def plotOk (p : Nat) : Bool := decide (p < 640)

/-- A plane of a plot. -/
def planeOk (p k : Nat) : Bool := plotOk p && decide (k < 4)

/-- A cell of a plane. -/
def cellOk (p k c : Nat) : Bool := planeOk p k && decide (c < 16)

/-- A port of a plot. -/
def portOk (p n : Nat) : Bool := plotOk p && decide (n < 16)

/-- A thread id (R70). -/
def tidOk (t : Nat) : Bool := decide (t < 5120)

/-- A rule slot. -/
def RuleAt.ok (r : RuleAt) : Bool := cellOk r.plot r.plane r.cell && decide (r.slot < 32)

/-- A virtual function. -/
def vfOk (v : Nat) : Bool := decide (v < 64)

/-- A launch-record slot. -/
def slotOk (i : Nat) : Bool := decide (i < 16384)

/-- Well-formed instructions: a control instruction that some words encode, or an event of units that exist. -/
def Instr.wf : Instr → Bool
  | .ldq rd _ _ _ | .ldqExt rd _ _ _ => rd.even
  | .stq rs _ _ _ | .stqExt rs _ _ _ => rs.even
  | .ddecl rd _ | .drd rd _ _ _ | .scrub rd _ => rd.even
  | .amoAdd rd _ _ r _ _ | .amoAnd rd _ _ r _ _ | .amoOr rd _ _ r _ _ | .amoXor rd _ _ r _ _
  | .amoMin rd _ _ r _ _ | .amoMax rd _ _ r _ _ | .amoMinu rd _ _ r _ _ | .amoMaxu rd _ _ r _ _
  | .amoSwap rd _ _ r _ _ => amoOk rd r
  | .cellNop r | .cellMov r | .cellSel r | .cellAdd r | .cellSub r | .cellMul r | .cellAnd r | .cellOr r
  | .cellXor r | .cellShl r | .cellShr r | .cellSar r | .cellMin r | .cellMax r | .cellAbs r | .cellNeg r
  | .cellCmpeq r | .cellCmplt r | .cellCmple r | .cellFadd r | .cellFsub r | .cellFmul r | .cellFma r
  | .cellFmin r | .cellFmax r | .cellFcmpeq r | .cellFcmplt r | .cellFabs r | .cellFneg r | .cellCvt r
  | .cellQbfp r | .cellDqbfp r | .cellExp2 r | .cellLog2 r | .cellRcp r | .cellRsqrt r | .cellSqrt r
  | .cellTanh r | .cellSigm r | .cellGact r | .cellRsum r | .cellRmax r | .cellPset r | .cellPand r
  | .cellPor r | .cellPnot r | .cellSteer r | .cellMerge r | .cellPsend r | .cellPrecv r | .cellTagset r
  | .cellDrop r => r.ok
  | .pickingCycle p k c | .ruleBeat p k c | .ruleResultLand p k c | .cellFault p k c
  | .predMarkerRemove p k c | .cellCutAlign p k c => cellOk p k c
  | .rulePromotion p k c s => cellOk p k c && decide (s < 32)
  | .markerMove p k c q => cellOk p k c && decide (q < 8)
  | .tokenDelivery p k e | .orderingArcDelivery p k e => planeOk p k && decide (e < 176)
  | .configurationLoadEnd p k => planeOk p k
  | .streamBegin p n | .portReadBeat p n | .portWriteBeat p n | .rowAcknowledgement p n | .streamEnd p n
  | .streamFatal p n | .eotMarkerConsume p n => portOk p n
  | .scloseApply t | .smarkInject t | .rrelStart t | .garrStart t | .ckickStart t | .nbdotStart t
  | .waitWake t | .waitLimitExpiry t | .swaitReturn t | .twaitReturn t | .rawaitReturn t | .gwaitReturn t
  | .sbarReturn t | .tlbsyncReturn t | .dsyncReturn t | .drdReturn t | .nbwaitReturn t | .cbarReturn t
  | .icinvReturn t | .prqrespWrite t _ | .commandStart t _ | .cmdqStall t | .threadEnd t | .doubleReset t => tidOk t
  | .channelRecordStart c | .channelRecordComplete c | .cstopDone c => decide (c < 256)
  | .tfillEnd p h | .tdrainEnd p h => plotOk p && decide (h < 256)
  | .granuleZero p | .assistresWrite p _ | .assistResume p | .plotRetirement p | .plotPairing p
  | .cycleWithheld p => plotOk p
  | .sliceLoadEnd p k s => planeOk p k && decide (s < 32)
  | .bindingStart p k | .weightReload p k | .rowFire p k | .latticeCut p k => planeOk p k
  | .mzeroClear p _ | .mreadReadout p _ | .mnormApply p _ => plotOk p
  | .dbgctlHalt v _ | .dbgctlRun v _ | .fqtakeWrite v _ | .functionLevelReset v => vfOk v
  | .nbdotComplete m | .hbmRefreshDue m => decide (m < 256)
  | .derivedUpdateApply r _ | .derivedBuild r _ _ | .rowRescan r _ _ | .derivedResultWrite r _ =>
    decide (r < 4096)
  | .dcacheLineExpiry p _ => plotOk p
  | .completionPost i | .watchdogExpiry i | .balancerSample i | .periodicCut i | .preemption i
  | .preemptionResume i => slotOk i
  | .queueEntryTake q => decide (q < 4096)
  | .heartbeatTimeout c | .instructionMemoryError c _ | .winPeek c | .winStop c | .winCut c | .winDrain c
  | .winReset c | .winPost c | .windowCommandFinish c | .frameEntryBoundary c => decide (c < 4)
  | .kick v n | .qdescWrite v n _ _ _ | .rdescWrite v n _ _ _ => vfOk v && decide (n < 64)
  | .setwin v _ _ | .setkey v _ _ | .setquota v _ _ _ _ | .setrange v _ _ | .setweight v _ => vfOk v
  | .columnRetirement p k c => planeOk p k && decide (c < 128)
  | .wayRetirement s w => decide (s < 128) && decide (w < 16)
  | .attest f _ _ | .mailboxCommandDone f => decide (f < 65)
  | .laneReplacement p l => decide (p < 16) && decide (l < 16)
  | _ => true

end Sys2Proof
end

