-- ==== Sys2Proof/Decode.lean ====
section
/-! DEFINITION. Decoding of control words (02_words R15-R29), of rule words (R31-R34) and of switch words (R35-R37),
and the encoder written from the same tables. `decode` is total: it answers the instruction, or the name of the check
of R18 and R21 that the word fails. Whether a system-register number is assigned (R28) is decided where the register
is read or written, with the same outcome and in the same order (log 10). -/

namespace Sys2Proof

/-- Why a word is not an instruction (R18, R20-R29). -/
inductive DecodeError where
  /-- MAJ is 0x00 or 0x34-0x3F (R18). -/
  | noMajor
  /-- LEN is 3 (R17). -/
  | lenThree
  /-- The group does not accept this LEN (R20). -/
  | lenRefused
  /-- The sub-operation code is not listed (R21). -/
  | noSubop
  /-- A modifier bit that no rule defines is set (R21). -/
  | modifier
  /-- A field that must be zero is not (R17, R21, R25, R27, R28). -/
  | fieldNotZero
  /-- A field holds a reserved value (R22, R27, R29). -/
  | reservedValue
  /-- An odd register names a pair (R24, R290, R370). -/
  | oddPair
  /-- An AMO form that R26 forbids. -/
  | amoForm
  /-- The bytes end before the instruction does. -/
  | truncated
  deriving DecidableEq, Repr

/-- The fields of a first word (R16). -/
def fMaj (w : BitVec 32) : Nat := (w.extractLsb' 26 6).toNat
def fRd (w : BitVec 32) : Reg := w.extractLsb' 21 5
def fRs1 (w : BitVec 32) : Reg := w.extractLsb' 16 5
def fRs2 (w : BitVec 32) : Reg := w.extractLsb' 11 5
def fSub (w : BitVec 32) : Nat := (w.extractLsb' 6 5).toNat
def fMods (w : BitVec 32) : BitVec 4 := w.extractLsb' 2 4
def fImm (w : BitVec 32) : Imm14 := w.extractLsb' 2 14
def fLen (w : BitVec 32) : Nat := (w.extractLsb' 0 2).toNat

/-- Whether the word has a length at all (R18, R85): an assigned major opcode and a LEN other than 3. -/
def hasLength (w : BitVec 32) : Bool := fMaj w != 0 && decide (fMaj w < 0x34) && fLen w != 3

/-- The kinds a clause may not govern (R85): branches and jumps, clause headers, TRAP, ERET, WAIT, EXIT and ICINV. -/
def ungovernable (w : BitVec 32) : Bool :=
  (decide (0x08 ≤ fMaj w) && decide (fMaj w ≤ 0x11)) ||
  (fMaj w == 0x27 && (fSub w == 0 || fSub w == 1 || fSub w == 2 || fSub w == 4 || fSub w == 6))

/-- The extension of an instruction of the given LEN. -/
def extOf (n : Nat) (e0 e1 : BitVec 32) : Ext := if n = 1 then .one e0 else .two e0 e1

/-- Succeeds with `i` when the condition holds, otherwise fails with `e`. -/
def check (b : Bool) (e : DecodeError) (i : Except DecodeError Instr) : Except DecodeError Instr :=
  if b then i else .error e

/-- R format with three registers and no modifier. -/
def decR3 (w : BitVec 32) (mk : Reg → Reg → Reg → Instr) : Except DecodeError Instr :=
  check (fLen w == 0) .lenRefused <| check (fMods w == 0) .modifier <| .ok (mk (fRd w) (fRs1 w) (fRs2 w))

/-- R format with rd and rs1 only. -/
def decR2 (w : BitVec 32) (mk : Reg → Reg → Instr) : Except DecodeError Instr :=
  check (fLen w == 0) .lenRefused <| check (fMods w == 0) .modifier <| check (fRs2 w == 0) .fieldNotZero <|
    .ok (mk (fRd w) (fRs1 w))

/-- R format with no operand. -/
def decR0 (w : BitVec 32) (i : Instr) : Except DecodeError Instr :=
  check (fLen w == 0) .lenRefused <| check (fMods w == 0) .modifier <|
    check (fRd w == 0 && fRs1 w == 0 && fRs2 w == 0) .fieldNotZero <| .ok i

/-- The even-pair rule (R24). -/
def decPair (w : BitVec 32) (d : Except DecodeError Instr) : Except DecodeError Instr :=
  match d with
  | .ok i => if (fRd w).even then .ok i else .error .oddPair
  | .error e => .error e

/-- R format with one modifier bit, FN[2]. -/
def decMod1 (w : BitVec 32) (mk : Bool → Except DecodeError Instr) : Except DecodeError Instr :=
  check (fLen w == 0) .lenRefused <| check (w.extractLsb' 3 3 == 0#3) .modifier <| mk (w.getLsbD 2)

/-- Formats I and S: the immediate, or the extension with imm14 zero (R17). -/
def decI (w e0 e1 : BitVec 32) (short : Reg → Reg → Imm14 → Instr) (long : Reg → Reg → Ext → Instr) :
    Except DecodeError Instr :=
  if fLen w = 0 then .ok (short (fRd w) (fRs1 w) (fImm w))
  else check (fImm w == 0) .fieldNotZero <| .ok (long (fRd w) (fRs1 w) (extOf (fLen w) e0 e1))

/-- Format B and JALR: LEN 0 or 1 (R23, R83). -/
def decB (w e0 : BitVec 32) (short : Reg → Reg → Imm14 → Instr) (long : Reg → Reg → BitVec 32 → Instr) :
    Except DecodeError Instr :=
  if fLen w = 0 then .ok (short (fRd w) (fRs1 w) (fImm w))
  else check (fLen w == 1) .lenRefused <| check (fImm w == 0) .fieldNotZero <| .ok (long (fRd w) (fRs1 w) e0)

/-- Format Q (R24). -/
def decQ (w e0 e1 : BitVec 32) (short : Reg → Reg → BitVec 13 → Bool → Instr)
    (long : Reg → Reg → Bool → Ext → Instr) : Except DecodeError Instr :=
  decPair w <|
    if fLen w = 0 then .ok (short (fRd w) (fRs1 w) (w.extractLsb' 3 13) (w.getLsbD 2))
    else check (w.extractLsb' 3 13 == 0#13) .fieldNotZero <|
      .ok (long (fRd w) (fRs1 w) (w.getLsbD 2) (extOf (fLen w) e0 e1))

/-- The tile access size of bits [7:6] (R25). -/
def accSizeOf (b : BitVec 2) : AccSize :=
  if b = 0 then .b else if b = 1 then .h else if b = 2 then .w else .d

/-- Format T (R25). -/
def decT (w e0 : BitVec 32) (short : Reg → Reg → BitVec 8 → AccSize → Instr)
    (long : Reg → Reg → BitVec 8 → AccSize → BitVec 32 → Instr) : Except DecodeError Instr :=
  check (fLen w == 0 || fLen w == 1) .lenRefused <| check (fMods w == 0) .fieldNotZero <|
    if fLen w = 0 then .ok (short (fRd w) (fRs1 w) (w.extractLsb' 8 8) (accSizeOf (w.extractLsb' 6 2)))
    else .ok (long (fRd w) (fRs1 w) (w.extractLsb' 8 8) (accSizeOf (w.extractLsb' 6 2)) e0)

/-- The AMO order of bits [3:2] (R26). -/
def amoOrderOf (b : BitVec 2) : AmoOrder :=
  if b = 0 then .rlx else if b = 1 then .acq else if b = 2 then .rel else .acqrel

/-- An AMO other than CAS and FADD (R26). -/
def decAmo (w : BitVec 32) (mk : Reg → Reg → Reg → Bool → Bool → AmoOrder → Instr) : Except DecodeError Instr :=
  check (amoOk (fRd w) (w.getLsbD 5)) .amoForm <|
    .ok (mk (fRd w) (fRs1 w) (fRs2 w) (w.getLsbD 5) (w.getLsbD 4) (amoOrderOf (w.extractLsb' 2 2)))

/-- The ALU group (R21, Table 2.4). -/
def decAlu (w : BitVec 32) : Except DecodeError Instr :=
  match fSub w with
  | 0 => decR3 w .aluAdd
  | 1 => decR3 w .aluSub
  | 2 => decR3 w .aluAnd
  | 3 => decR3 w .aluOr
  | 4 => decR3 w .aluXor
  | 5 => decR3 w .aluSll
  | 6 => decR3 w .aluSrl
  | 7 => decR3 w .aluSra
  | 8 => decR3 w .aluSlt
  | 9 => decR3 w .aluSltu
  | 10 => decR3 w .aluMin
  | 11 => decR3 w .aluMax
  | 12 => decR3 w .aluMinu
  | 13 => decR3 w .aluMaxu
  | 14 => decR3 w .aluMul
  | 15 => decR3 w .aluMulh
  | 16 => decR3 w .aluMulhu
  | 17 => decR3 w .aluDiv
  | 18 => decR3 w .aluDivu
  | 19 => decR3 w .aluRem
  | 20 => decR3 w .aluRemu
  | 21 => decR2 w .clz
  | 22 => decR2 w .ctz
  | 23 => decR2 w .popc
  | _ => .error .noSubop

/-- Shifts by an immediate (R22). -/
def decShi (w : BitVec 32) : Except DecodeError Instr :=
  check (fLen w == 0) .lenRefused <| check (w.extractLsb' 8 6 == 0#6) .fieldNotZero <|
    match (w.extractLsb' 14 2).toNat with
    | 0 => .ok (.slli (fRd w) (fRs1 w) (w.extractLsb' 2 6))
    | 1 => .ok (.srli (fRd w) (fRs1 w) (w.extractLsb' 2 6))
    | 2 => .ok (.srai (fRd w) (fRs1 w) (w.extractLsb' 2 6))
    | _ => .error .reservedValue

/-- The CLAUSE group (R29). -/
def decClause (w e0 : BitVec 32) : Except DecodeError Instr :=
  match fSub w with
  | 0 =>
    check (fRd w == 0 && fRs2 w == 0) .fieldNotZero <|
      if fLen w = 0 then .ok (.rpt (fRs1 w) (fMods w))
      else check (fLen w == 1) .lenRefused <| check (fRs1 w == 0) .fieldNotZero <| .ok (.rptImm (fMods w) e0)
  | 1 =>
    check (fLen w == 0) .lenRefused <| check (fRs2 w == 0) .fieldNotZero <|
      match (fRd w).toNat with
      | 0 => .ok (.when .z (fRs1 w) (fMods w))
      | 1 => .ok (.when .nz (fRs1 w) (fMods w))
      | 2 => .ok (.when .ltz (fRs1 w) (fMods w))
      | 3 => .ok (.when .gez (fRs1 w) (fMods w))
      | _ => .error .reservedValue
  | _ => .error .noSubop

/-- The AMO group (R26). -/
def decAmoGroup (w : BitVec 32) : Except DecodeError Instr :=
  check (fLen w == 0) .lenRefused <|
    match fSub w with
    | 0 => decAmo w .amoAdd
    | 1 => decAmo w .amoAnd
    | 2 => decAmo w .amoOr
    | 3 => decAmo w .amoXor
    | 4 => decAmo w .amoMin
    | 5 => decAmo w .amoMax
    | 6 => decAmo w .amoMinu
    | 7 => decAmo w .amoMaxu
    | 8 => decAmo w .amoSwap
    | 9 => check (w.getLsbD 5) .amoForm <|
        .ok (.amoCas (fRd w) (fRs1 w) (fRs2 w) (w.getLsbD 4) (amoOrderOf (w.extractLsb' 2 2)))
    | 10 => check (!w.getLsbD 5 && fRd w == 0) .amoForm <|
        .ok (.amoFadd (fRs1 w) (fRs2 w) (w.getLsbD 4) (amoOrderOf (w.extractLsb' 2 2)))
    | _ => .error .noSubop

/-- The scope of a FENCE (R27). -/
def scopeOf? (n : Nat) : Option Scope :=
  match n with
  | 0 => some .plot | 1 => some .die | 2 => some .pkg | 3 => some .dom | 4 => some .sys | _ => none

/-- The kind of a FENCE (R27). -/
def fenceKindOf? (n : Nat) : Option FenceKind :=
  match n with
  | 0 => some .full | 1 => some .acq | 2 => some .rel | 3 => some .ss | 4 => some .drv | 5 => some .cmd | _ => none

/-- FENCE (R27). -/
def decFence (w : BitVec 32) : Except DecodeError Instr :=
  check (fLen w == 0) .lenRefused <|
    check (fRd w == 0 && fRs1 w == 0 && w.extractLsb' 2 8 == 0#8) .fieldNotZero <|
      match scopeOf? (w.extractLsb' 13 3).toNat, fenceKindOf? (w.extractLsb' 10 3).toNat with
      | some s, some k => .ok (.fence s k)
      | _, _ => .error .reservedValue

/-- System-register access (R28): imm14[13:11] zero; CSRR has rs1 = 0. -/
def decCsr (w : BitVec 32) (i : Instr) : Except DecodeError Instr :=
  check (fLen w == 0) .lenRefused <| check (w.extractLsb' 13 3 == 0#3) .fieldNotZero <| .ok i

/-- The scope of ICINV (R340). -/
def icScopeOf (b : BitVec 2) : IcScope :=
  if b = 0 then .plot else if b = 1 then .die else if b = 2 then .pkg else .dom

/-- The SYS group (R340, R93-R95). -/
def decSys (w e0 : BitVec 32) : Except DecodeError Instr :=
  match fSub w with
  | 0 =>
    check (fMods w == 0) .modifier <| check (fRd w == 0 && fRs2 w == 0) .fieldNotZero <|
      if fLen w = 0 then .ok (.trap (fRs1 w))
      else check (fLen w == 1) .lenRefused <| check (fRs1 w == 0) .fieldNotZero <| .ok (.trapImm e0)
  | 1 => decR0 w .eret
  | 2 => decR3 w .waitLoc
  | 3 => decR0 w .brk
  | 4 => decR0 w .exitThread
  | 5 => decR0 w .nop
  | 6 => check (fLen w == 0) .lenRefused <| check (w.extractLsb' 4 2 == 0#2) .modifier <|
      .ok (.icinv (fRd w) (fRs1 w) (fRs2 w) (icScopeOf (w.extractLsb' 2 2)))
  | _ => .error .noSubop

/-- The TLB group (R21, Table 2.4). -/
def decTlb (w : BitVec 32) : Except DecodeError Instr :=
  match fSub w with
  | 0 => decR3 w .tlbinv
  | 1 => decR2 w .tlbinva
  | 2 => decR2 w .tlbsync
  | _ => .error .noSubop

/-- The SET group (R21, Table 2.4). -/
def decSet (w : BitVec 32) : Except DecodeError Instr :=
  match fSub w with
  | 0 => decR2 w .join
  | 1 => decR2 w .leave
  | 2 => decR2 w .sbar
  | _ => .error .noSubop

/-- The STREAM group (R21, Table 2.4). -/
def decStream (w : BitVec 32) : Except DecodeError Instr :=
  match fSub w with
  | 0 => decR3 w .sbind
  | 1 => decMod1 w fun m => check (fRs2 w == 0) .fieldNotZero <| .ok (.sclose (fRd w) (fRs1 w) m)
  | 2 => decR2 w .smark
  | 3 => decR3 w .swait
  | 4 => decR0 w .cbar
  | 5 => decR3 w .scfg
  | _ => .error .noSubop

/-- The TILE group (R21, Table 2.4). -/
def decTile (w : BitVec 32) : Except DecodeError Instr :=
  match fSub w with
  | 0 => decR3 w .talloc
  | 1 => decR2 w .tfree
  | 2 => decR3 w .tfill
  | 3 => decR3 w .tdrain
  | 4 => decR2 w .tstat
  | 5 => decR3 w .twait
  | _ => .error .noSubop

/-- The MATRIX group (R21, Table 2.4). -/
def decMatrix (w : BitVec 32) : Except DecodeError Instr :=
  match fSub w with
  | 0 => decR3 w .mload
  | 1 => decR2 w .mbind
  | 2 => decR2 w .mzero
  | 3 => check (fLen w == 0) .lenRefused <| check (w.extractLsb' 4 2 == 0#2) .modifier <|
      .ok (.mread (fRd w) (fRs1 w) (fRs2 w) (w.getLsbD 3) (w.getLsbD 2))
  | 4 => decR2 w .mnorm
  | 5 => decR2 w .mhead
  | _ => .error .noSubop

/-- The DERIVED group (R21, Table 2.4). -/
def decDerived (w : BitVec 32) : Except DecodeError Instr :=
  match fSub w with
  | 0 => decPair w <| decR2 w .ddecl
  | 1 => decPair w <| decMod1 w fun m => .ok (.drd (fRd w) (fRs1 w) (fRs2 w) m)
  | 2 => decR3 w .dsync
  | 3 => decR2 w .dreb
  | 4 => decR2 w .ddrop
  | 5 => decR2 w .dstat
  | _ => .error .noSubop

/-- The RING group (R21, Table 2.4). -/
def decRing (w : BitVec 32) : Except DecodeError Instr :=
  match fSub w with
  | 0 => decR3 w .rinit
  | 1 => decR3 w .rawait
  | 2 => decR2 w .rrel
  | 3 => decR2 w .rpeek
  | _ => .error .noSubop

/-- The GATE group (R21, Table 2.4). -/
def decGate (w : BitVec 32) : Except DecodeError Instr :=
  match fSub w with
  | 0 => decR3 w .ginit
  | 1 => decR2 w .garr
  | 2 => decMod1 w fun m => .ok (.gexp (fRd w) (fRs1 w) (fRs2 w) m)
  | 3 => decR3 w .gwait
  | _ => .error .noSubop

/-- The COPY group (R21, Table 2.4). -/
def decCopy (w : BitVec 32) : Except DecodeError Instr :=
  match fSub w with
  | 0 => decR3 w .ckick
  | 1 => decR2 w .cstat
  | 2 => decR2 w .cstop
  | _ => .error .noSubop

/-- The LAUNCH group (R21, Table 2.4). -/
def decLaunch (w : BitVec 32) : Except DecodeError Instr :=
  match fSub w with
  | 0 => decR3 w .lpatch
  | 1 => decR3 w .larm
  | 2 => decR2 w .lstat
  | _ => .error .noSubop

/-- The NEAR group (R21, Table 2.4). -/
def decNear (w : BitVec 32) : Except DecodeError Instr :=
  match fSub w with
  | 0 => decR3 w .nbdot
  | 1 => decR3 w .nbwait
  | _ => .error .noSubop

/-- The LODGE group (R21, Table 2.4). -/
def decLodge (w : BitVec 32) : Except DecodeError Instr :=
  match fSub w with
  | 0 => decR2 w .kscan
  | 1 => decR2 w .jrnl
  | 2 => decR2 w .disp
  | 3 => decR2 w .chold
  | 4 => decR2 w .crel
  | 5 => check (fRs1 w == 0) .fieldNotZero <| decR2 w fun d _ => .hbeat d
  | 6 => decPair w <| decR2 w .scrub
  | _ => .error .noSubop

/-- The instruction of a first word and the extension words that follow it, or why there is none (R18). -/
def decode (w e0 e1 : BitVec 32) : Except DecodeError Instr :=
  if fMaj w = 0 ∨ 0x34 ≤ fMaj w then .error .noMajor
  else if fLen w = 3 then .error .lenThree
  else
    match fMaj w with
    | 0x01 => decAlu w
    | 0x2 => decI w e0 e1 .addi .addiExt
    | 0x3 => decI w e0 e1 .andi .andiExt
    | 0x4 => decI w e0 e1 .ori .oriExt
    | 0x5 => decI w e0 e1 .xori .xoriExt
    | 0x06 => decShi w
    | 0x07 => decI w e0 e1 .slti .sltiExt
    | 0x8 => decB w e0 .beq .beqExt
    | 0x9 => decB w e0 .bne .bneExt
    | 0xa => decB w e0 .blt .bltExt
    | 0xb => decB w e0 .bge .bgeExt
    | 0xc => decB w e0 .bltu .bltuExt
    | 0xd => decB w e0 .bgeu .bgeuExt
    | 0x0e => check (fLen w == 0) .lenRefused <| .ok (.jmp (w.extractLsb' 2 24))
    | 0x0f => check (fLen w == 0) .lenRefused <| .ok (.jal (w.extractLsb' 2 24))
    | 0x10 => decB w e0 .jalr .jalrExt
    | 0x11 => decClause w e0
    | 0x12 => decI w e0 e1 .ldb .ldbExt
    | 0x13 => decI w e0 e1 .ldbu .ldbuExt
    | 0x14 => decI w e0 e1 .ldh .ldhExt
    | 0x15 => decI w e0 e1 .ldhu .ldhuExt
    | 0x16 => decI w e0 e1 .ldw .ldwExt
    | 0x17 => decI w e0 e1 .ldwu .ldwuExt
    | 0x18 => decI w e0 e1 .ldd .lddExt
    | 0x19 => decQ w e0 e1 .ldq .ldqExt
    | 0x1a => decI w e0 e1 .stb .stbExt
    | 0x1b => decI w e0 e1 .sth .sthExt
    | 0x1c => decI w e0 e1 .stw .stwExt
    | 0x1d => decI w e0 e1 .std .stdExt
    | 0x1e => decQ w e0 e1 .stq .stqExt
    | 0x1f => decT w e0 .tld .tldExt
    | 0x20 => decT w e0 .tst .tstExt
    | 0x21 => decAmoGroup w
    | 0x22 => decFence w
    | 0x23 => check (fRs1 w == 0) .fieldNotZero <| decCsr w (.csrr (fRd w) (w.extractLsb' 2 11))
    | 0x24 => decCsr w (.csrw (fRd w) (fRs1 w) (w.extractLsb' 2 11))
    | 0x25 => decCsr w (.csrs (fRd w) (fRs1 w) (w.extractLsb' 2 11))
    | 0x26 => decCsr w (.csrc (fRd w) (fRs1 w) (w.extractLsb' 2 11))
    | 0x27 => decSys w e0
    | 0x28 => decTlb w
    | 0x29 => decSet w
    | 0x2a => decStream w
    | 0x2b => decTile w
    | 0x2c => decMatrix w
    | 0x2d => decDerived w
    | 0x2e => decRing w
    | 0x2f => decGate w
    | 0x30 => decCopy w
    | 0x31 => decLaunch w
    | 0x32 => decNear w
    | 0x33 => decLodge w
    | _ => .error .noMajor

/-- A 32-bit word from its four bytes, least significant first (R2). -/
def word4 (a b c d : Byte) : BitVec 32 := d ++ c ++ b ++ a

/-- The bytes of a word, least significant first (R2). -/
def bytes4 (w : BitVec 32) : List Byte :=
  [w.extractLsb' 0 8, w.extractLsb' 8 8, w.extractLsb' 16 8, w.extractLsb' 24 8]

/-- Decoding of a byte sequence: the instruction at its head and the bytes after it (R15, R17). -/
def decodeBytes : List Byte → Except DecodeError (Instr × List Byte)
  | a :: b :: c :: d :: rest =>
    let w := word4 a b c d
    if hasLength w then
      match fLen w, rest with
      | 0, r => (decode w 0 0).map fun i => (i, r)
      | 1, a1 :: b1 :: c1 :: d1 :: r => (decode w (word4 a1 b1 c1 d1) 0).map fun i => (i, r)
      | 2, a1 :: b1 :: c1 :: d1 :: a2 :: b2 :: c2 :: d2 :: r =>
        (decode w (word4 a1 b1 c1 d1) (word4 a2 b2 c2 d2)).map fun i => (i, r)
      | _, _ => .error .truncated
    else match decode w 0 0 with
      | .ok _ => .error .noMajor
      | .error e => .error e
  | _ => .error .truncated

/-- The bytes of an instruction given by its bits, bit 0 the least significant bit of the first word: twelve bytes,
the bits above `nbits` zero. -/
def tableBytes (nbits w : Nat) : List Byte :=
  let v := BitVec.ofNat 96 (w % 2 ^ nbits)
  bytes4 (v.extractLsb' 0 32) ++ bytes4 (v.extractLsb' 32 32) ++ bytes4 (v.extractLsb' 64 32)

/-- The instruction the decoder reads from the first `nbits` bits `w`. -/
def decodeTableWord (nbits w : Nat) : Option Instr :=
  match decodeBytes (tableBytes nbits w) with
  | .ok (i, _) => some i
  | .error _ => none

/-! The encoder. -/

/-- A word in R format (R16). -/
def encR (maj : BitVec 6) (rd rs1 rs2 : Reg) (sub : BitVec 5) (mods : BitVec 4) (len : BitVec 2) : BitVec 32 :=
  maj ++ rd ++ rs1 ++ rs2 ++ sub ++ mods ++ len

/-- A word in formats I, S and B (R16). -/
def encI (maj : BitVec 6) (rd rs1 : Reg) (imm : Imm14) (len : BitVec 2) : BitVec 32 :=
  maj ++ rd ++ rs1 ++ imm ++ len

/-- A word in format J (R16). -/
def encJ (maj : BitVec 6) (off : BitVec 24) (len : BitVec 2) : BitVec 32 := maj ++ off ++ len

/-- A word in format Q (R16). -/
def encQ (maj : BitVec 6) (rd rs1 : Reg) (off : BitVec 13) (es : Bool) (len : BitVec 2) : BitVec 32 :=
  maj ++ rd ++ rs1 ++ off ++ BitVec.ofBool es ++ len

/-- A word in format T (R16). -/
def encT (maj : BitVec 6) (rd ro : Reg) (h : BitVec 8) (sz : AccSize) (len : BitVec 2) : BitVec 32 :=
  maj ++ rd ++ ro ++ h ++ (match sz with | .b => 0#2 | .h => 1#2 | .w => 2#2 | .d => 3#2) ++ 0#4 ++ len

/-- The extension words. -/
def Ext.words : Ext → List (BitVec 32)
  | .one e0 => [e0]
  | .two e0 e1 => [e0, e1]

/-- The LEN field of an extension. -/
def Ext.lenField : Ext → BitVec 2
  | .one _ => 1
  | .two _ _ => 2

/-- Format I or S with an extension. -/
def encIExt (maj : BitVec 6) (rd rs1 : Reg) (e : Ext) : List (BitVec 32) :=
  encI maj rd rs1 0 e.lenField :: e.words

/-- The AMO modifiers (R26). -/
def encAmo (sub : BitVec 5) (rd rs1 rs2 : Reg) (ret dw : Bool) (o : AmoOrder) : BitVec 32 :=
  encR 0x21 rd rs1 rs2 sub
    (BitVec.ofBool ret ++ BitVec.ofBool dw ++
      (match o with | .rlx => 0#2 | .acq => 1#2 | .rel => 2#2 | .acqrel => 3#2)) 0

/-- The scope field of a FENCE (R27). -/
def Scope.code : Scope → BitVec 3
  | .plot => 0 | .die => 1 | .pkg => 2 | .dom => 3 | .sys => 4

/-- The kind field of a FENCE (R27). -/
def FenceKind.code : FenceKind → BitVec 3
  | .full => 0 | .acq => 1 | .rel => 2 | .ss => 3 | .drv => 4 | .cmd => 5

/-- The scope field of ICINV (R340). -/
def IcScope.code : IcScope → BitVec 2
  | .plot => 0 | .die => 1 | .pkg => 2 | .dom => 3

/-- The condition field of WHEN (R29). -/
def Cond.code : Cond → BitVec 5
  | .z => 0 | .nz => 1 | .ltz => 2 | .gez => 3

/-- The words of a control instruction (R15-R29), first word first; an event has none. -/
def encode : Instr → List (BitVec 32)
  | .aluAdd d a b => [encR 0x01 d a b 0 0 0]
  | .aluSub d a b => [encR 0x01 d a b 1 0 0]
  | .aluAnd d a b => [encR 0x01 d a b 2 0 0]
  | .aluOr d a b => [encR 0x01 d a b 3 0 0]
  | .aluXor d a b => [encR 0x01 d a b 4 0 0]
  | .aluSll d a b => [encR 0x01 d a b 5 0 0]
  | .aluSrl d a b => [encR 0x01 d a b 6 0 0]
  | .aluSra d a b => [encR 0x01 d a b 7 0 0]
  | .aluSlt d a b => [encR 0x01 d a b 8 0 0]
  | .aluSltu d a b => [encR 0x01 d a b 9 0 0]
  | .aluMin d a b => [encR 0x01 d a b 10 0 0]
  | .aluMax d a b => [encR 0x01 d a b 11 0 0]
  | .aluMinu d a b => [encR 0x01 d a b 12 0 0]
  | .aluMaxu d a b => [encR 0x01 d a b 13 0 0]
  | .aluMul d a b => [encR 0x01 d a b 14 0 0]
  | .aluMulh d a b => [encR 0x01 d a b 15 0 0]
  | .aluMulhu d a b => [encR 0x01 d a b 16 0 0]
  | .aluDiv d a b => [encR 0x01 d a b 17 0 0]
  | .aluDivu d a b => [encR 0x01 d a b 18 0 0]
  | .aluRem d a b => [encR 0x01 d a b 19 0 0]
  | .aluRemu d a b => [encR 0x01 d a b 20 0 0]
  | .clz d a => [encR 0x01 d a 0 21 0 0]
  | .ctz d a => [encR 0x01 d a 0 22 0 0]
  | .popc d a => [encR 0x01 d a 0 23 0 0]
  | .addi d a i => [encI 0x2 d a i 0]
  | .addiExt d a e => encIExt 0x2 d a e
  | .andi d a i => [encI 0x3 d a i 0]
  | .andiExt d a e => encIExt 0x3 d a e
  | .ori d a i => [encI 0x4 d a i 0]
  | .oriExt d a e => encIExt 0x4 d a e
  | .xori d a i => [encI 0x5 d a i 0]
  | .xoriExt d a e => encIExt 0x5 d a e
  | .slti d a i => [encI 0x7 d a i 0]
  | .sltiExt d a e => encIExt 0x7 d a e
  | .slli d a s => [encI 0x06 d a (0#2 ++ 0#6 ++ s) 0]
  | .srli d a s => [encI 0x06 d a (1#2 ++ 0#6 ++ s) 0]
  | .srai d a s => [encI 0x06 d a (2#2 ++ 0#6 ++ s) 0]
  | .beq a b o => [encI 0x8 a b o 0]
  | .beqExt a b e => [encI 0x8 a b 0 1, e]
  | .bne a b o => [encI 0x9 a b o 0]
  | .bneExt a b e => [encI 0x9 a b 0 1, e]
  | .blt a b o => [encI 0xa a b o 0]
  | .bltExt a b e => [encI 0xa a b 0 1, e]
  | .bge a b o => [encI 0xb a b o 0]
  | .bgeExt a b e => [encI 0xb a b 0 1, e]
  | .bltu a b o => [encI 0xc a b o 0]
  | .bltuExt a b e => [encI 0xc a b 0 1, e]
  | .bgeu a b o => [encI 0xd a b o 0]
  | .bgeuExt a b e => [encI 0xd a b 0 1, e]
  | .jmp o => [encJ 0x0e o 0]
  | .jal o => [encJ 0x0f o 0]
  | .jalr d a i => [encI 0x10 d a i 0]
  | .jalrExt d a e => [encI 0x10 d a 0 1, e]
  | .rpt a n => [encR 0x11 0 a 0 0 n 0]
  | .rptImm n e => [encR 0x11 0 0 0 0 n 1, e]
  | .when c a n => [encR 0x11 c.code a 0 1 n 0]
  | .ldb d a i => [encI 0x12 d a i 0]
  | .ldbExt d a e => encIExt 0x12 d a e
  | .ldbu d a i => [encI 0x13 d a i 0]
  | .ldbuExt d a e => encIExt 0x13 d a e
  | .ldh d a i => [encI 0x14 d a i 0]
  | .ldhExt d a e => encIExt 0x14 d a e
  | .ldhu d a i => [encI 0x15 d a i 0]
  | .ldhuExt d a e => encIExt 0x15 d a e
  | .ldw d a i => [encI 0x16 d a i 0]
  | .ldwExt d a e => encIExt 0x16 d a e
  | .ldwu d a i => [encI 0x17 d a i 0]
  | .ldwuExt d a e => encIExt 0x17 d a e
  | .ldd d a i => [encI 0x18 d a i 0]
  | .lddExt d a e => encIExt 0x18 d a e
  | .ldq d a o s => [encQ 0x19 d a o s 0]
  | .ldqExt d a s e => encQ 0x19 d a 0 s e.lenField :: e.words
  | .stb d a i => [encI 0x1a d a i 0]
  | .stbExt d a e => encIExt 0x1a d a e
  | .sth d a i => [encI 0x1b d a i 0]
  | .sthExt d a e => encIExt 0x1b d a e
  | .stw d a i => [encI 0x1c d a i 0]
  | .stwExt d a e => encIExt 0x1c d a e
  | .std d a i => [encI 0x1d d a i 0]
  | .stdExt d a e => encIExt 0x1d d a e
  | .stq d a o s => [encQ 0x1e d a o s 0]
  | .stqExt d a s e => encQ 0x1e d a 0 s e.lenField :: e.words
  | .tld d o h s => [encT 0x1f d o h s 0]
  | .tldExt d o h s e => [encT 0x1f d o h s 1, e]
  | .tst d o h s => [encT 0x20 d o h s 0]
  | .tstExt d o h s e => [encT 0x20 d o h s 1, e]
  | .amoAdd d a b r w o => [encAmo 0 d a b r w o]
  | .amoAnd d a b r w o => [encAmo 1 d a b r w o]
  | .amoOr d a b r w o => [encAmo 2 d a b r w o]
  | .amoXor d a b r w o => [encAmo 3 d a b r w o]
  | .amoMin d a b r w o => [encAmo 4 d a b r w o]
  | .amoMax d a b r w o => [encAmo 5 d a b r w o]
  | .amoMinu d a b r w o => [encAmo 6 d a b r w o]
  | .amoMaxu d a b r w o => [encAmo 7 d a b r w o]
  | .amoSwap d a b r w o => [encAmo 8 d a b r w o]
  | .amoCas d a b w o => [encAmo 9 d a b true w o]
  | .amoFadd a b w o => [encAmo 10 0 a b false w o]
  | .fence s k => [encI 0x22 0 0 (s.code ++ k.code ++ 0#8) 0]
  | .csrr d n => [encI 0x23 d 0 (0#3 ++ n) 0]
  | .csrw d a n => [encI 0x24 d a (0#3 ++ n) 0]
  | .csrs d a n => [encI 0x25 d a (0#3 ++ n) 0]
  | .csrc d a n => [encI 0x26 d a (0#3 ++ n) 0]
  | .trap a => [encR 0x27 0 a 0 0 0 0]
  | .trapImm e => [encR 0x27 0 0 0 0 0 1, e]
  | .eret => [encR 0x27 0 0 0 1 0 0]
  | .waitLoc d a b => [encR 0x27 d a b 2 0 0]
  | .brk => [encR 0x27 0 0 0 3 0 0]
  | .exitThread => [encR 0x27 0 0 0 4 0 0]
  | .nop => [encR 0x27 0 0 0 5 0 0]
  | .icinv d a b s => [encR 0x27 d a b 6 (0#2 ++ s.code) 0]
  | .tlbinv d a b => [encR 0x28 d a b 0 0 0]
  | .tlbinva d a => [encR 0x28 d a 0 1 0 0]
  | .tlbsync d a => [encR 0x28 d a 0 2 0 0]
  | .join d a => [encR 0x29 d a 0 0 0 0]
  | .leave d a => [encR 0x29 d a 0 1 0 0]
  | .sbar d a => [encR 0x29 d a 0 2 0 0]
  | .sbind d a b => [encR 0x2a d a b 0 0 0]
  | .sclose d a m => [encR 0x2a d a 0 1 (0#3 ++ BitVec.ofBool m) 0]
  | .smark d a => [encR 0x2a d a 0 2 0 0]
  | .swait d a b => [encR 0x2a d a b 3 0 0]
  | .cbar => [encR 0x2a 0 0 0 4 0 0]
  | .scfg d a b => [encR 0x2a d a b 5 0 0]
  | .talloc d a b => [encR 0x2b d a b 0 0 0]
  | .tfree d a => [encR 0x2b d a 0 1 0 0]
  | .tfill d a b => [encR 0x2b d a b 2 0 0]
  | .tdrain d a b => [encR 0x2b d a b 3 0 0]
  | .tstat d a => [encR 0x2b d a 0 4 0 0]
  | .twait d a b => [encR 0x2b d a b 5 0 0]
  | .mload d a b => [encR 0x2c d a b 0 0 0]
  | .mbind d a => [encR 0x2c d a 0 1 0 0]
  | .mzero d a => [encR 0x2c d a 0 2 0 0]
  | .mread d a b c m => [encR 0x2c d a b 3 (0#2 ++ BitVec.ofBool c ++ BitVec.ofBool m) 0]
  | .mnorm d a => [encR 0x2c d a 0 4 0 0]
  | .mhead d a => [encR 0x2c d a 0 5 0 0]
  | .ddecl d a => [encR 0x2d d a 0 0 0 0]
  | .drd d a b m => [encR 0x2d d a b 1 (0#3 ++ BitVec.ofBool m) 0]
  | .dsync d a b => [encR 0x2d d a b 2 0 0]
  | .dreb d a => [encR 0x2d d a 0 3 0 0]
  | .ddrop d a => [encR 0x2d d a 0 4 0 0]
  | .dstat d a => [encR 0x2d d a 0 5 0 0]
  | .rinit d a b => [encR 0x2e d a b 0 0 0]
  | .rawait d a b => [encR 0x2e d a b 1 0 0]
  | .rrel d a => [encR 0x2e d a 0 2 0 0]
  | .rpeek d a => [encR 0x2e d a 0 3 0 0]
  | .ginit d a b => [encR 0x2f d a b 0 0 0]
  | .garr d a => [encR 0x2f d a 0 1 0 0]
  | .gexp d a b m => [encR 0x2f d a b 2 (0#3 ++ BitVec.ofBool m) 0]
  | .gwait d a b => [encR 0x2f d a b 3 0 0]
  | .ckick d a b => [encR 0x30 d a b 0 0 0]
  | .cstat d a => [encR 0x30 d a 0 1 0 0]
  | .cstop d a => [encR 0x30 d a 0 2 0 0]
  | .lpatch d a b => [encR 0x31 d a b 0 0 0]
  | .larm d a b => [encR 0x31 d a b 1 0 0]
  | .lstat d a => [encR 0x31 d a 0 2 0 0]
  | .nbdot d a b => [encR 0x32 d a b 0 0 0]
  | .nbwait d a b => [encR 0x32 d a b 1 0 0]
  | .kscan d a => [encR 0x33 d a 0 0 0 0]
  | .jrnl d a => [encR 0x33 d a 0 1 0 0]
  | .disp d a => [encR 0x33 d a 0 2 0 0]
  | .chold d a => [encR 0x33 d a 0 3 0 0]
  | .crel d a => [encR 0x33 d a 0 4 0 0]
  | .hbeat d => [encR 0x33 d 0 0 5 0 0]
  | .scrub d a => [encR 0x33 d a 0 6 0 0]
  | _ => []

/-- Decoding of a list of words. -/
def decodeWords : List (BitVec 32) → Except DecodeError Instr
  | [w] => if fLen w = 0 then decode w 0 0 else .error .truncated
  | [w, e0] => if fLen w = 1 then decode w e0 0 else .error .truncated
  | [w, e0, e1] => if fLen w = 2 then decode w e0 e1 else .error .truncated
  | _ => .error .truncated

/-- Control instructions: those that words encode. -/
def Instr.isControl (i : Instr) : Bool := !(encode i).isEmpty

/-- The first word of an instruction's encoding. -/
def firstWord (i : Instr) : BitVec 32 := (encode i).headD 0

/-! Rule words. -/

/-- The trigger word's fields (R31). -/
def decTrigger (w : BitVec 32) : Trigger :=
  { v := w.getLsbD 31, role := (w.extractLsb' 29 2).toNat, pm := w.extractLsb' 25 4, pv := w.extractLsb' 21 4,
    qe := w.getLsbD 20, iq := (w.extractLsb' 17 3).toNat, nm1 := (w.extractLsb' 12 5).toNat,
    tag := (w.extractLsb' 9 3).toNat, oe := w.getLsbD 8, oq := (w.extractLsb' 5 3).toNat, q2e := w.getLsbD 4,
    iq2 := (w.extractLsb' 1 3).toNat, pt := w.getLsbD 0 }

/-- The operation of a code (R33). -/
def cellOpOf? (c : Nat) : Option CellOp :=
  match c with
  | 0x0 => some .nop
  | 0x1 => some .mov
  | 0x2 => some .add
  | 0x3 => some .sub
  | 0x4 => some .mul
  | 0x5 => some .and
  | 0x6 => some .or
  | 0x7 => some .xor
  | 0x8 => some .shl
  | 0x9 => some .shr
  | 0xa => some .sar
  | 0xb => some .min
  | 0xc => some .max
  | 0xd => some .abs
  | 0xe => some .neg
  | 0xf => some .sel
  | 0x10 => some .cmpeq
  | 0x11 => some .cmplt
  | 0x12 => some .cmple
  | 0x20 => some .fadd
  | 0x21 => some .fsub
  | 0x22 => some .fmul
  | 0x23 => some .fma
  | 0x24 => some .fmin
  | 0x25 => some .fmax
  | 0x26 => some .fcmpeq
  | 0x27 => some .fcmplt
  | 0x28 => some .fabs
  | 0x29 => some .fneg
  | 0x2a => some .cvt
  | 0x2b => some .qbfp
  | 0x2c => some .dqbfp
  | 0x30 => some .exp2
  | 0x31 => some .log2
  | 0x32 => some .rcp
  | 0x33 => some .rsqrt
  | 0x34 => some .sqrt
  | 0x35 => some .tanh
  | 0x36 => some .sigm
  | 0x37 => some .gact
  | 0x38 => some .rsum
  | 0x39 => some .rmax
  | 0x40 => some .pset
  | 0x41 => some .pand
  | 0x42 => some .por
  | 0x43 => some .pnot
  | 0x44 => some .steer
  | 0x45 => some .merge
  | 0x46 => some .psend
  | 0x47 => some .precv
  | 0x48 => some .tagset
  | 0x49 => some .drop
  | _ => none

/-- The operation word's fields, when its OP is assigned (R32, R33). -/
def decOpWord (w : BitVec 32) : Option OpWord :=
  (cellOpOf? (w.extractLsb' 25 7).toNat).map fun op =>
    { op := op, dst := (w.extractLsb' 20 5).toNat, sa := (w.extractLsb' 15 5).toNat,
      sb := (w.extractLsb' 10 5).toNat, ea := w.getLsbD 9, ka := w.getLsbD 8, eb := w.getLsbD 7, kb := w.getLsbD 6,
      fmt := (w.extractLsb' 3 3).toNat, peek := w.getLsbD 2, rm := (w.extractLsb' 0 2).toNat }

/-- What the source field SA of an operation means. -/
inductive SrcUse where
  | unused
  | operand
  | pred
  | imm
  deriving DecidableEq, Repr

/-- The use of SA by each operation (R113-R124). -/
def CellOp.useA : CellOp → SrcUse
  | .nop | .precv => .unused
  | .pand | .por | .pnot | .psend => .pred
  | .pset => .imm
  | _ => .operand

/-- The use of SB by each operation (R113-R124). -/
def CellOp.useB : CellOp → SrcUse
  | .add | .sub | .mul | .and | .or | .xor | .shl | .shr | .sar | .min | .max | .sel | .cmpeq | .cmplt | .cmple
  | .fadd | .fsub | .fmul | .fma | .fmin | .fmax | .fcmpeq | .fcmplt | .dqbfp | .gact | .merge => .operand
  | .pand | .por => .pred
  | .cvt | .qbfp | .tagset => .imm
  | _ => .unused

/-- The formats each operation accepts (R112, Table 5.9). -/
def CellOp.fmtOk (op : CellOp) (f : Nat) : Bool :=
  match op with
  | .nop | .mov | .and | .or | .xor | .sel | .pset | .pand | .por | .pnot | .steer | .merge | .psend | .precv
  | .tagset | .drop => f == 0
  | .add | .sub | .mul | .shl | .shr | .sar | .min | .max | .abs | .neg | .cmpeq | .cmplt | .cmple => decide (f ≤ 1)
  | .cvt | .rsum | .rmax => true
  | _ => decide (2 ≤ f)

/-- Whether a used source of the operation names a queue. -/
def OpWord.queueSource (o : OpWord) : Bool :=
  (o.op.useA == .operand && decide (24 ≤ o.sa)) || (o.op.useB == .operand && decide (24 ≤ o.sb))

/-- Operations that write a predicate through DST[1:0] as compares do (R34). -/
def CellOp.isCompare : CellOp → Bool
  | .cmpeq | .cmplt | .cmple | .fcmpeq | .fcmplt => true
  | _ => false

/-- A rule with V = 1 that R34 refuses. RM 0b10 and 0b11 are refused with the integer formats 0 and 1 of operations
that take a format; operations with FMT 0 only take no format (R112, log 11). GACT's RM selects the activation. -/
def ruleIllegal (tw ow : BitVec 32) : Bool :=
  let t := decTrigger tw
  t.v &&
  match decOpWord ow with
  | none => true
  | some o =>
    (!t.qe && (t.nm1 != 0 || t.iq != 0 || t.tag != 7)) ||
    (!t.oe && t.oq != 0) || (!t.q2e && t.iq2 != 0) ||
    (t.pv &&& ~~~t.pm != 0#4) ||
    (o.op.isCompare && decide (4 ≤ o.dst)) ||
    (o.op == .cvt && decide (8 ≤ o.sb)) || (o.op == .qbfp && decide (4 ≤ o.sb)) ||
    (o.op == .tagset && decide (8 ≤ o.sb)) || (o.op == .pset && decide (2 ≤ o.sa)) ||
    (o.op == .drop && o.dst != 0) || (o.op == .nop && o.dst != 0) ||
    (o.op == .fma && decide (24 ≤ o.dst)) ||
    (decide (2 ≤ o.rm) && decide (o.fmt ≤ 1)) ||
    (o.op.useA == .unused && o.sa != 0) || (o.op.useB == .unused && o.sb != 0) ||
    (o.op.useA != .operand && (o.ea || o.ka)) || (o.op.useB != .operand && (o.eb || o.kb)) ||
    (o.op.useA == .pred && decide (4 ≤ o.sa)) || (o.op.useB == .pred && decide (4 ≤ o.sb)) ||
    (o.peek && !o.queueSource) || (o.peek && decide (8 ≤ t.nm1)) ||
    !o.op.fmtOk o.fmt

/-! Switch words. -/

/-- The source of a switch word by SRCKIND, SRCUNIT and SRCQ (R36); reserved values name none (R37). -/
def sourceOf (k u q : Nat) : Source :=
  match k with
  | 0 => .cell u q
  | 1 => if q < 2 then .port u (q == 1) else .none
  | 2 => if u < 4 then .mesh u q else .none
  | _ => if u < 4 ∧ q < 2 then .lattice u (q == 1) else .none

/-- The route at endpoint index `ep` that word `w` gives (R35-R37). -/
def routeOf (ep : Nat) (w : BitVec 16) : Route :=
  let src := sourceOf (w.extractLsb' 14 2).toNat (w.extractLsb' 10 4).toNat (w.extractLsb' 7 3).toNat
  let pred := w.getLsbD 4
  let isCell := match src with | .cell _ _ => true | _ => false
  let bad := (decide (156 ≤ ep) && decide (ep < 160)) || (pred && decide (ep < 160)) ||
    (!pred && decide (160 ≤ ep)) || (pred && !isCell)
  { src := if bad then .none else src, vc := (w.extractLsb' 5 2).toNat, pred := pred, ord := w.getLsbD 3 }

end Sys2Proof
end

