-- ==== Sys2Proof/Config.lean ====
section
/-! DEFINITION. What the manual leaves open: constants with no body, so that no proof can see a value. A claim about
them holds whatever they are. The log entries that name each stand in its docstring. -/

namespace Sys2Proof.Config

/-- Free 64-bit values, applied to the counter `State.free` (log 7). -/
opaque freeWord : Nat → BitVec 64

/-- The skew of a plot's CYCLE against `State.cycle`, reduced to 0-16 (R78, log 12). -/
opaque cycleSkew : Nat → Nat

/-- The skew of a plot's TIME, reduced to 0-20 (R78, log 12). -/
opaque timeSkew : Nat → Nat

/-- The part's 1,312-byte ML-DSA-44 public key (R374, log 13). -/
opaque publicKey : Nat → Byte

/-- An ML-DSA-44 signature of a digest made with the hedge value given: 2,420 bytes (R364, log 13). -/
opaque signature : List Byte → Nat → Nat → Byte

/-- Bytes 64 on of a save image, and its tags (R329, log 14). -/
opaque imageByte : Nat → Nat → Byte

/-- Which of the 16 entries of a C64 group translates an access (R245, log 15). -/
opaque c64Choice : Nat → Nat → Nat

/-- The bytes of the expander at a second-tier port of a package, as firmware mapped them (R259, log 19). -/
opaque expanderBytes : Nat → Nat → Nat

/-- Whether a die's walker caches serve the walk of a 4 KiB page at a moment (R246, log 85). -/
opaque walkerServes : Nat → Nat → Bool

/-- Which words of an instruction-cache line are read with the one asked for (R19, log 62). -/
opaque fetchAhead : Nat → BitVec 16

/-- Whether a word of an instruction that is not cached takes longer than a cycle to be read (R19, log 62). -/
opaque fetchPauses : Nat → Bool

/-- Whether the firmware image at an address with a length verifies (R389, log 16). -/
opaque fwVerifies : List Byte → Bool

/-- Refreshes the HBM standard lets one stack postpone (R266, log 17). -/
opaque refreshAllowance : Nat

/-- Readings of the management channel: temperatures and power (R388, log 18). -/
opaque telemetry : Nat → BitVec 64

/-- The digest of the firmware image that the part left manufacture with (R371, log 13). -/
opaque firmwareDigest : Nat → Byte

/-- A row sum that INT64 does not hold, as published in INT64 (R281, log 23). -/
opaque int64Over : Int → BitVec 64

/-- What a register that describes a unit or a tenant reads as on a context that holds none (log 21). -/
opaque noUnit : Nat → BitVec 64

/-- Whether every router input of the package has slots for the tags of a placement of tenants on plots that joins more
than 16 tenants (R359, log 39). -/
opaque tagsFit : List (Nat × Nat) → Bool

/-- A cipher of 64-byte lines: what encrypts one and what decrypts one, each the other's inverse. -/
structure Cipher where
  enc : BitVec 512 → BitVec 512 := id
  dec : BitVec 512 → BitVec 512 := id
  dec_enc : ∀ x, dec (enc x) = x := by intro x; rfl
  enc_dec : ∀ x, enc (dec x) = x := by intro x; rfl
  deriving Inhabited

/-- AES-XTS-256 under a data key and a tweak key, with the line's number as its tweak (R354, log 89). -/
opaque xts : BitVec 256 → BitVec 256 → Nat → Cipher

/-- The firmware-defined detail of a repair record (R381, log 40). -/
opaque repairDetail : Nat → BitVec 64

/-- Whether an HBM row can still be repaired after the rows given (R378, log 41). -/
opaque rowRepairable : Nat → List Nat → Bool

/-- Whether this package lies in a load-store domain of more than 16 packages (R347, log 36). -/
opaque bigDomain : Bool

/-- Whether a staged firmware image passes its own checks at package reset (R389, log 16). -/
opaque fwBoots : List Byte → Bool

/-- What a firmware image puts into a lodge core's instruction memory at package reset, by address (R389, R393, log 16). -/
opaque fwCode : List Byte → Nat → Byte

end Sys2Proof.Config
end

