-- ==== Sys2Proof/Machine/Tbl.lean ====
section
/-! DEFINITION. Sparse tables: lists of (key, value) pairs with rising keys, in which an unlisted key stands at the
value its reader names. Everything the package holds many of (threads, planes, cells, tiles, queues) is one of these,
so that a state is plain data whose size is what has been touched. -/

namespace Sys2Proof

/-- A sparse table. -/
abbrev Tbl (α : Type) := List (Nat × α)

namespace Tbl

variable {α : Type}

/-- The entry at key `k`, if listed. -/
def get? : Tbl α → Nat → Option α
  | [], _ => none
  | (k', v) :: t, k => if k' = k then some v else get? t k

/-- The entry at key `k`, or the default. -/
def getD (t : Tbl α) (k : Nat) (d : α) : α := (get? t k).getD d

/-- The table with key `k` at `v`; keys stay rising. -/
def set : Tbl α → Nat → α → Tbl α
  | [], k, v => [(k, v)]
  | (k', v') :: t, k, v =>
    if k' = k then (k, v) :: t
    else if k < k' then (k, v) :: (k', v') :: t
    else (k', v') :: set t k v

/-- The table without key `k`. -/
def del (t : Tbl α) (k : Nat) : Tbl α := t.filter fun e => e.1 != k

/-- The listed keys. -/
def keys (t : Tbl α) : List Nat := t.map Prod.fst

/-- Every listed entry changed by `f`. -/
def mapVals (f : Nat → α → α) (t : Tbl α) : Tbl α := t.map fun e => (e.1, f e.1 e.2)

/-- Only the listed entries that satisfy `p`. -/
def keep (p : Nat → α → Bool) (t : Tbl α) : Tbl α := t.filter fun e => p e.1 e.2

end Tbl

end Sys2Proof
end

