-- ==== Sys2Proof/Machine/State.lean ====
section
/-! DEFINITION. The state of one package: everything the manual gives the machine, as plain data. Tables hold what the
package holds many of; an entry that is not listed stands at the unit's reset value (R361), which is the default value
of its structure below. Keys: plane `plot*4+k`; cell `plane*16+c`; port, ring-set and accumulator `plot*16+n`; lattice
`plot*4+k`; tile `plot*256+h`; gate `plot*32+g`. -/

namespace Sys2Proof.Machine

/-- Why the machine stops with a fault. -/
inductive Fault where
  /-- A lodge core or an assist context accesses a system address that maps no memory (R242, R309): raised by the data
  accesses of such a context. Safe: the manual gives that access no effect. -/
  | noMemory (addr : Nat)
  deriving DecidableEq, Repr

/-- Why the machine refuses an instruction. -/
inductive Refusal where
  /-- No meaning is given to the instruction. Raised by `exec` for rows that are not modelled. Safe. -/
  | notModelled (mnemonic : String)
  deriving DecidableEq, Repr

/-- The context that issues (R70, R309, R201). -/
inductive Agent where
  | thread (tid : Nat)
  | lodge (core : Nat)
  | assist (plot : Nat)
  deriving DecidableEq, Repr

/-- Context states (R74, Table 4.2). -/
inductive CtxState where
  | free | running | waiting | stopped | double | ending
  deriving DecidableEq, Repr

/-- Privilege levels (R77). -/
inductive Priv where
  | u | s | l
  deriving DecidableEq, Repr

/-- Kinds of the clause in progress (R335 CLAUSE): RPT, WHEN executing, WHEN skipping. -/
inductive ClauseKind where
  | none | rpt | whenExec | whenSkip
  deriving DecidableEq, Repr

/-- The clause a context runs (R86, R87, R338): header address, position of the next governed instruction, RPT
iterations left counting the current one (0 in a checking pass), and the header's first word. -/
structure Clause where
  kind : ClauseKind := .none
  hdr  : Word := 0
  pos  : Nat := 0
  rem  : Word := 0
  hdrw : BitVec 32 := 0
  deriving DecidableEq, Repr

/-- A waiting instruction: what it is, the cycle its limit counts from, and a mark it took when it began (the phase of
an SBAR, the last store of a DSYNC, the last invalidation of a TLBSYNC). -/
structure Waiting where
  instr : Instr
  start : Nat
  mark  : Nat
  deriving DecidableEq, Repr

/-- A buffered FADD contribution (R176): address, size in bytes, value, whether it was made at privilege U, the ASID it was
issued under (R158), its place among the thread's stores (R287). -/
structure FaddEntry where
  addr : Word
  size : Nat
  v    : Word
  u    : Bool := true
  asid : Nat := 0
  num  : Nat := 0
  deriving DecidableEq, Repr

/-- One control context: a thread, a lodge core or an assist context (R73, R78, R158, R335). `entered` is RETIRED as it stood at
the last trap: while RETIRED stands so at the vector, the handler's first instruction is yet to be fetched (R339). -/
structure Ctx where
  st       : CtxState := .free
  regs     : Vector Word 32 := Vector.replicate 32 0
  pc       : Word := 0
  priv     : Priv := .u
  pp       : Priv := .u
  cl       : Clause := {}
  epc      : Word := 0
  ecause   : Word := 0
  faddr    : Word := 0
  fbyte    : Word := 0
  clause   : Word := 0
  escratch : Word := 0
  einfo    : Word := 0
  clrem    : Word := 0
  clhdr    : Word := 0
  uscratch : Word := 0
  retired  : Word := 0
  setcnt   : Nat := 0
  lidx     : Nat := 0
  nthr     : Nat := 0
  lnch     : Nat := 0
  privbase : Word := 0
  carve    : Nat := 0
  ovfptr   : Word := 0
  asid     : Nat := 0
  tenant   : Option Nat := none
  stageid  : Word := 0
  gatesel  : Word := 0
  nbsel    : Word := 0
  qcsel    : Word := 0
  tlbpend  : Bool := false
  fadd     : List FaddEntry := []
  wait     : Option Waiting := none
  stall    : Option Nat := none
  halted   : Bool := false
  entered  : Option Word := none
  carveMem : List Host.Cell := []
  deriving DecidableEq, Repr

/-- Who moves next (log 1): a plot's control core, a lodge core, one event, a context that waits in an instruction, the core of
the issuing context, which stood as `c`, if that context has not issued (R75), or the making of the next round of turns. -/
inductive Turn where
  | plot (p : Nat)
  | lodge (c : Nat)
  | event (i : Instr)
  | retry (a : Agent)
  | slot (a : Agent) (c : Ctx)
  | round
  deriving DecidableEq, Repr

/-- Roles of lodge cores (R309, R311). -/
inductive Role where
  | standby | active | failed
  deriving DecidableEq, Repr

/-- A lodge core (R309, R312, R348): its context, role, the cycle of its last HBEAT, LFRSEL, its TVEC, and its control
window: the command taken, BUSY, whether its cut has begun, whether it has been performed, RESULT, RECIDX, DATA. -/
structure Lodge where
  ctx    : Ctx := {}
  role   : Role := .standby
  beat   : Nat := 0
  lfrsel : Nat := 0
  tvec   : Word := 0
  cmd    : Word := 0
  busy   : Bool := false
  begun  : Bool := false
  done   : Bool := false
  result : Nat := 0
  recidx : Nat := 0
  data   : Nat := 0
  deriving DecidableEq, Repr

/-- Tokens (R97): data with its tag, predicate, cut marker with its number, end-of-tile marker. -/
inductive TokKind where
  | data (v : Word) (tag : Nat)
  | pred (b : Bool)
  | cut (n : Nat)
  | eot
  deriving DecidableEq, Repr

/-- A token in a buffer: what it carries, the endpoints it has still to reach, the accesses of its horizon (R133). -/
structure Tok where
  k    : TokKind
  todo : List Nat := []
  hor  : List Nat := []
  deriving DecidableEq, Repr

/-- Commands (R141), each with its operands as accepted. -/
inductive CmdKind where
  | scfg (plane : Nat) (addr : Word) (hdr : List Byte)
  | sbind (port plane after : Nat) (desc : List Byte)
  | sclose (mask plane : Nat) (re : Bool)
  | smark (mask plane n : Nat)
  | rrel (ring : Nat)
  | garr (gate : Nat)
  | gexp (gate : Nat)
  | tfill (h : Nat) (va : Word)
  | tdrain (h : Nat) (va : Word)
  | mload (lat slot : Nat) (src : Word) (tile : Bool)
  | mbind (b : Word)
  | mzero (sel : Word)
  | mread (sel dst : Word) (clr e4nan : Bool)
  | mnorm (sel : Word)
  | ckick (chan : Nat) (head : Word)
  | nbdot (mbox : Nat) (desc : List Byte)
  deriving DecidableEq, Repr

/-- An accepted command (R141): its number in acceptance order, issuing thread, ASID and launch, the accumulator
tiles an MZERO has cleared (R210), and the number under which it started. -/
structure Cmd where
  id     : Nat
  tid    : Nat
  asid   : Nat
  tenant : Nat
  lnch   : Nat
  k      : CmdKind
  cleared : List Nat := []
  begun  : Nat := 0
  deriving DecidableEq, Repr

/-- A line of a plot's data cache: its address, cycle of filling and bytes (R160). -/
structure DLine where
  line  : Nat
  fill  : Nat
  bytes : List Byte
  deriving DecidableEq, Repr

/-- A line of a plot's instruction cache, by ASID and virtual line (R344): the system line it was filled from and which of
its sixteen words have been read (R19). -/
structure ILine where
  tenant : Nat
  asid   : Nat
  line   : Nat
  sline  : Nat
  bytes  : List Byte
  words  : BitVec 16 := 0xFFFF
  deriving DecidableEq, Repr

/-- A column waiting for the assist (R201): tile, row, column and the operands, the cycle its row stopped, and whether its
lattice's claim has ended since (R187). -/
structure AssistReq where
  lat  : Nat
  tile : Nat
  row  : Nat
  col  : Nat
  acc  : Word
  a    : Word
  b    : Word
  at_  : Nat := 0
  dead : Bool := false
  deriving DecidableEq, Repr

/-- A logical plot (R9, R141, R155, R201, R391); `gzero` and `gzero1` count the granules of each level to be zeroed; `withheld` are the cycles the power governor has withheld of the last
eight (R390), `phys`, `partner` and `resident` say where it runs (R377, R379) (log 5), `failed` that its assist context's DOUBLE has
been reported (R339). -/
structure Plot where
  owner    : Option Nat := none
  scrubbing : Bool := false
  lastCtx  : Nat := 7
  gfree    : Nat := 1536
  gzero    : Nat := 0
  gzero1   : Nat := 0
  cmds     : List Cmd := []
  inflight : List Cmd := []
  mops     : List Cmd := []
  dcache   : List DLine := []
  icache   : List ILine := []
  assist   : Ctx := { priv := .l }
  avec     : Word := 0
  acnt     : Word := 0
  apend    : List AssistReq := []
  await    : Bool := false
  throttle : Word := 0
  phys     : Option Nat := none
  partner  : Option Nat := none
  resident : Bool := true
  failed   : Bool := false
  withheld : List Nat := []
  deriving DecidableEq, Repr

/-- Tile states (R152, Table 7.1). -/
inductive TileSt where
  | free | empty | filling | ready | draining
  deriving DecidableEq, Repr

/-- A tile handle (R151, R179, R183). -/
structure Tile where
  st    : TileSt := .free
  level : Nat := 0
  esz   : Nat := 0
  rows  : Nat := 0
  cols  : Nat := 0
  err   : Bool := false
  bytes : List Host.Cell := []
  deriving DecidableEq, Repr

/-- Producers of a ring (R217). -/
inductive Producer where
  | port (n : Nat)
  | chan (c : Nat)
  deriving DecidableEq, Repr

/-- A ring (R216). `w` counts fills, so WIDX = w mod NS; `rc` counts releases, so RIDX = rc mod NS. -/
structure Ring where
  active : Bool := false
  plane  : Nat := 0
  h0     : Nat := 0
  ns     : Nat := 1
  fan    : Nat := 1
  pmask  : Nat := 0
  w      : Nat := 0
  rc     : Nat := 0
  filled : Nat := 0
  marks  : List Producer := []
  idx    : List (Producer × Nat) := []
  deriving DecidableEq, Repr

/-- A gate (R220), with the threads whose FADD buffers this phase's arrivals bring (R221) and the launches whose
next cut its phase advance waits for (R334). -/
structure Gate where
  arrinit : Nat := 0
  arr     : Nat := 0
  txn     : Int := 0
  phase   : BitVec 32 := 0
  overrun : Bool := false
  arrivers : List Nat := []
  deferBy : List Nat := []
  deriving DecidableEq, Repr

/-- Plane states (R125). -/
inductive PlaneSt where
  | unconfigured | loading | configured | faulted
  deriving DecidableEq, Repr

/-- A configuration plane (R125-R128, R109, R140); `lnch` is the running launch it belongs to, `region` the key of its
region once that launch has completed, `entryCuts` the cut markers injected at mesh entries that have no room for them
yet, `opts_` the OPTIONS of the image that was loaded last (R98). -/
structure Plane where
  st       : PlaneSt := .unconfigured
  owner    : Option (Option Nat) := none
  scrubbing : Bool := false
  agelim   : Nat := 256
  deadtrap : Bool := false
  e4nan    : Bool := false
  nextOpt  : List (Nat × Nat × Bool) := []
  portmask : Nat := 0
  latmask  : Nat := 0
  farexit  : List (Option Nat) := [none, none, none, none]
  routes   : List (BitVec 16) := []
  fires    : Word := 0
  promo    : Word := 0
  cfault   : Word := 0
  src      : Tbl (List Tok) := []
  ep       : Tbl (List Tok) := []
  lnch     : Option Nat := none
  region   : Option Nat := none
  image    : Word := 0
  asid     : Nat := 0
  entryCuts : List (Nat × Nat) := []
  opts_    : Nat := 256
  deriving DecidableEq, Repr

/-- Register states (R99); a register freed and then restored from a cut reads 0 (R100). -/
inductive RegSt where
  | full | empty | dead
  deriving DecidableEq, Repr

/-- A cell register. -/
structure CReg where
  v  : Word := 0
  st : RegSt := .full
  deriving DecidableEq, Repr

/-- Where a result goes (R106): a register, a register that a STEER discarding every token leaves as it was, a predicate,
an output queue with a tag. -/
inductive ResDst where
  | reg (r : Nat)
  | back (r : Nat) (st : RegSt)
  | pred (p : Nat)
  | out (q tag : Nat)
  deriving DecidableEq, Repr

/-- A result on its way: the cycle from which rules may read it, where it goes, the value, whether it is a predicate
token, and whether its rule set a predicate's pending bit (R101). -/
structure Landing where
  at_  : Nat
  dst  : ResDst
  v    : Word
  isPred : Bool := false
  long : Bool := false
  deriving DecidableEq, Repr

/-- A fired rule (R103-R105): its slot, the next beat, the cycle of its next beat, the value its destination register
will take and whether a beat gave one, what the register was, the values gathered by RSUM, RMAX or QBFP, tokens read so
far from peeked queues, tokens still to be written, whether only its occupancy is left (log 28), and DEADTRAP as it stood when the
rule was picked (R109). -/
structure Running where
  slot   : Nat
  beat   : Nat := 0
  due    : Nat := 0
  cur    : Word := 0
  wrote  : Bool := false
  old    : RegSt := .full
  pv     : Option Bool := none
  accum  : List Word := []
  pk     : Tbl Nat := []
  outq   : List (Nat × Word) := []
  spent  : Bool := false
  trap   : Bool := false
  deriving DecidableEq, Repr

/-- One cell of one plane (R96): registers, predicates with their pending bits, rules, ageing counters, promoted slots in
order, the fired rule, results on their way, the blocks DQBFP is in by mantissa source (R119), whether a fault stopped
it, the cycle it last began a beat, an injected marker, the last cut it aligned, its order horizon. -/
structure Cell where
  regs   : Vector CReg 24 := Vector.replicate 24 {}
  preds  : Vector (Bool × Bool) 4 := Vector.replicate 4 (false, false)
  rules  : Tbl (BitVec 32 × BitVec 32) := []
  ages   : Tbl Nat := []
  promoted : List Nat := []
  run    : Option Running := none
  land_  : List Landing := []
  dq     : Tbl (Word × Word × Nat) := []
  halted : Bool := false
  last   : Option Nat := none
  inject : Option Nat := none
  cutDone : Option Nat := none
  hor    : List Nat := []
  deriving DecidableEq, Repr

/-- Port states (R140). -/
inductive PortSt where
  | idle | bound | closed | faulted
  deriving DecidableEq, Repr

/-- A stream port (R134-R140): the plane, descriptor, whether the stream has begun, the streams its AFTER mask recorded,
the next beat in visit order, beats completed, the row trigger taken, an end-of-tile marker still to be emitted, rows acknowledged, stores by row, the cut marker pending, translation stall, fatal outcome, whether its end is
held (R334), the binding thread, order horizon (R133), acknowledgements of an ended stream still to be emitted, and the number of
the first store after its cut marker (R287). -/
structure Port where
  st     : PortSt := .idle
  plane  : Nat := 0
  desc   : List Byte := []
  begun  : Bool := false
  after  : List (Nat × Nat) := []
  serial : Nat := 0
  pos    : Nat := 0
  count  : BitVec 32 := 0
  trig   : Bool := false
  eotDue : Bool := false
  acked  : Nat := 0
  stores : List (Nat × Nat) := []
  marker : Option Nat := none
  cutSeen : Option Nat := none
  stalled : Bool := false
  fatal  : Option Word := none
  ended  : Bool := false
  tid    : Nat := 0
  asid   : Nat := 0
  lnch   : Nat := 0
  hor    : List Nat := []
  ackq   : List (Word × Nat × List Nat) := []
  cutAt  : Nat := 0
  deriving DecidableEq, Repr

/-- Weight slots (R189). -/
inductive SlotSt where
  | empty | loading | valid | failed
  deriving DecidableEq, Repr

/-- A weight slot: header fields, body bytes, and the source its MLOAD named (R190, R206, R208). -/
structure WSlot where
  st    : SlotSt := .empty
  bfmt  : Nat := 0
  dense : Bool := false
  kb    : Nat := 0
  lines : Nat := 0
  body  : List Byte := []
  blen  : Nat := 0
  src   : Word := 0
  tile  : Bool := false
  asid  : Nat := 0
  tid   : Nat := 0
  cmd   : Nat := 0
  deriving DecidableEq, Repr

/-- A binding (R209): command id, word, rows left, whether it has started and its slice is active; for a split pair its
ordinal (R199). -/
structure Binding where
  cmd    : Nat
  word   : Word
  left   : Nat
  started : Bool := false
  active : Bool := false
  chunk  : Nat := 0
  ord    : Nat := 0
  deriving DecidableEq, Repr

/-- A row in the course of being added, when the assist or a split partner holds it (R199, R201): its data and scale
tokens, and the next step of a wide row. -/
structure RowWork where
  a    : List Word
  scale : List Word
  k    : Nat
  deriving DecidableEq, Repr

/-- A lattice (R186-R194, R202); `span` is how many cycles the row fired last occupies it, `readPos` counts the tokens the
read-out in progress has emitted (R211), `ending` says that its claim has ended while it finishes a row (R187). -/
structure Lat where
  faulted : Bool := false
  slots   : Tbl WSlot := []
  free    : Nat := 6144
  binds   : List Binding := []
  splitCnt : Nat := 0
  actSlot : Nat := 0
  actFmt  : Option Nat := none
  actBody : Option WSlot := none
  shadow  : Option WSlot := none
  rows    : Word := 0
  work    : Option RowWork := none
  lastFire : Option Nat := none
  span    : Nat := 0
  readPos : Nat := 0
  cutSeen : Option Nat := none
  hor     : List Nat := []
  ending  : Bool := false
  deriving DecidableEq, Repr

/-- A row of a narrow accumulator tile (R197). -/
structure AccRow where
  empty : Bool := true
  x     : Int := 0
  m     : List Int := []
  spc   : List Nat := []
  h     : Nat := 39
  deriving DecidableEq, Repr

/-- An accumulator tile (R197, R200). -/
structure Acc where
  wide   : Bool := false
  rows   : Tbl AccRow := []
  elts   : Tbl (List Word) := []
  renorm : Nat := 0
  maxshift : Nat := 0
  trunc  : Nat := 0
  ovf    : Bool := false
  assist : Bool := false
  deriving DecidableEq, Repr

/-- A copy channel (R223, R239): state, current record, the flags of CSTAT, the record in progress, how many of its beats are
copied and the handle of its ring slot (R226), whether it waits for that slot, whether that ring has left ACTIVE (R225), whether
its stores and its control word are done (`held`), its marker delivered, its decrement made, and a CSTOP under way. -/
structure Chan where
  owner   : Option Nat := none
  scrubbing : Bool := false
  st      : Nat := 0
  cur     : Word := 0
  unowned : Bool := false
  invalid : Bool := false
  stalled : Bool := false
  record  : List Byte := []
  recRun  : Bool := false
  waitSlot : Bool := false
  counted : Bool := false
  marked  : Bool := false
  stopping : Bool := false
  held    : Bool := false
  pos     : Nat := 0
  slot    : Nat := 0
  lost    : Bool := false
  asid    : Nat := 0
  tid     : Nat := 0
  lnch    : Nat := 16384
  deriving DecidableEq, Repr

/-- A near-bank mailbox (R261, R257); `owed` are the wakes of completed commands that their gates hold back: NBWAKE as it stood,
the tenant and the launch. -/
structure Mbox where
  owner : Option Nat := none
  scrubbing : Bool := false
  st    : Nat := 0
  status : Nat := 0
  rows  : Nat := 0
  slots : Tbl (BitVec 32) := []
  wake  : Word := 0
  cmd   : Option Cmd := none
  owed  : List (Word × Nat × Nat) := []
  postponed : Nat := 0
  deriving DecidableEq, Repr

/-- A membership of a set (R89): current or pending, arrived, and the phase its arrival belongs to. -/
structure Member where
  tid     : Nat
  current : Bool
  arrived : Bool
  deriving DecidableEq, Repr

/-- A set (R88, R89); `arrivers` are the threads whose FADD buffers its phase merges (R176). -/
structure MSet where
  tenant : Nat
  key    : Nat
  phase  : Nat := 0
  cur    : Nat := 0
  arr    : Nat := 0
  left   : Nat := 0
  nxt    : Nat := 0
  nxtarr : Nat := 0
  mem    : List Member := []
  arrivers : List Nat := []
  nextArr : List Nat := []
  deriving DecidableEq, Repr

/-- A store issued in cycle `at_` and not yet performed (R162), with the page it was bound under (R253). -/
structure Pend where
  id     : Nat
  party  : Holder
  tenant : Nat
  asid   : Nat
  va     : Word
  spa    : Nat
  bytes  : List Byte
  lnch   : Option Nat := none
  at_    : Nat := 0
  page   : Nat := 0
  psize  : Nat := 0
  deriving DecidableEq, Repr

/-- A load or AMO of a party to bytes homed in another package, sent at cycle `since` (R385): waiting for its data, answered, or
failed (R386). -/
inductive RemoteSt where
  | sent | answered | failed
  deriving DecidableEq, Repr

/-- An AMO sent to another package: operation, width, operand and comparand (Table 7.9). -/
structure AmoReq where
  op : Nat
  dw : Bool
  v  : Word
  c  : Word
  deriving DecidableEq, Repr

/-- One such access; of an AMO, what it does there, the old value answered, and the virtual bytes it is bound under (R256). -/
structure Remote where
  id    : Nat
  party : Holder
  spa   : Nat
  n     : Nat
  since : Nat
  st    : RemoteSt := .sent
  amo   : Option AmoReq := none
  got   : List Byte := []
  tenant : Nat := 64
  asid  : Nat := 0
  va    : Nat := 0
  deriving DecidableEq, Repr

/-- A cached translation (R246, R253): of a stream or channel, the role it serves (R138); `len` is how many bytes of its page
lie below PLIMIT (R1). -/
structure Xlat where
  holder : Holder
  tenant : Nat
  asid   : Nat
  page   : Nat
  size   : Nat
  spa    : Nat
  w      : Bool
  x      : Bool
  u      : Bool
  role   : Nat := 0
  len    : Nat := size
  deriving DecidableEq, Repr

/-- A table entry in a die's walker caches (R246, R253): the table of level `lvl` that serves the virtual range of `size`
bytes at `page` lies at partition-relative address `pra`. -/
structure Tab where
  die    : Nat
  tenant : Nat
  asid   : Nat
  lvl    : Nat
  page   : Nat
  size   : Nat
  pra    : Nat
  deriving DecidableEq, Repr

/-- A posted invalidation (R255) and the holders it has still to reach. -/
structure Inval where
  id     : Nat
  tid    : Nat
  tenant : Nat
  asid   : Option Nat
  va     : Nat
  len    : Nat
  todo   : List Holder
  bound  : List Nat
  deriving DecidableEq, Repr

/-- A page-request entry (R250, R251). -/
structure Prq where
  tenant : Nat
  asid   : Nat
  page   : Nat
  kind   : AccKind
  level  : Nat
  reqs   : List Holder
  deriving DecidableEq, Repr

/-- A NOTPRESENT outcome that waits for a page-request entry (R250 step 3). -/
structure PrqWait where
  req    : Holder
  tenant : Nat
  asid   : Nat
  level  : Nat
  va     : Word
  kind   : AccKind
  deriving DecidableEq, Repr

/-- A row part of a derived region (R273-R280). -/
structure Part where
  built  : Bool := false
  stale  : Bool := false
  n      : Int := 0
  x      : Int := 0
  ext    : Option (Nat × BitVec 32) := none
  nans   : Nat := 0
  pinf   : Nat := 0
  ninf   : Nat := 0
  bins   : List Nat := []
  blocks : List (Nat × Nat) := []
  deriving DecidableEq, Repr

/-- One update of a row part (R283): the elements that one store touches in it, each with its column, old and new bits; the
store's number, party and granule, the cycles it was issued and performed, whether it is the store's first update, and for a held update
its sort key (R287) and whether a cut that applies no batch has saved it (R382). -/
structure DUpd where
  row  : Nat
  part : Nat
  elts : List (Nat × BitVec 32 × BitVec 32)
  pend : Nat
  party : Holder
  gran : Nat
  held : Option (Nat × Nat) := none
  lnch : Option Nat := none
  at_  : Nat := 0
  issued : Nat := 0
  lead : Bool := true
  kept : Bool := false
  deriving DecidableEq, Repr

/-- A derived region (R271, R272); `dirty` rows are to be written to the result array, `reflects` says whose updates those
writes will show (R293); `older` holds the parts as they stood before each batch, with the cycle it was applied in (R287), and
`redo` the bits, by row and column, that elements had before stores a rollback takes back (R383). -/
structure Region where
  tenant : Nat
  building : Bool := true
  base   : Word
  cols   : Nat
  rows   : Nat
  pitch  : Nat
  result : Word
  rpitch : Nat
  kind   : Nat
  bfmt   : Nat
  rfmt   : Nat
  nbins  : Nat
  hlo    : Word
  hwidth : Word
  bmap   : List (Nat × Nat)
  rmap   : List (Nat × Nat)
  parts  : Tbl Part := []
  drift  : Tbl Nat := []
  queue  : List DUpd := []
  held   : List DUpd := []
  dirty  : List Nat := []
  reflects : List (Nat × Holder × Nat) := []
  rescans : Nat := 0
  older  : List (Nat × Tbl Part) := []
  redo   : List (Nat × Nat × BitVec 32) := []
  deriving DecidableEq, Repr

/-- A tenant: its registers, quotas, ranges and host bindings (R352-R357, R335, R257, R369, R373). -/
structure Tenant where
  pbase  : Nat := 0
  plimit : Nat := 0
  asidtab : Nat := 0
  prqlog : Word := 0
  prqseq : Nat := 0
  tvec   : Word := 0
  qstallmax : Nat := 1048576
  savecfg : Word := 0
  cutint : Nat := 1000
  dbg    : Word := 0
  tokbuf : Word := 0
  nonce  : Vector Word 4 := Vector.replicate 4 0
  tokseq : Word := 0
  fqbase : Word := 0
  fqtake : Word := 0
  fqlost : Nat := 0
  fqcount : Nat := 0
  fqacked : Nat := 0
  setq   : Nat := 256
  regq   : Nat := 256
  pinq   : Nat := 16
  lmax   : Tbl Nat := []
  recFirst : Nat := 0
  recCount : Nat := 0
  dkey   : BitVec 256 := 0
  tkey   : BitVec 256 := 0
  pweight : Nat := 1
  irq    : Tbl (BitVec 64) := []
  raised : List Nat := []
  flr    : Bool := false
  deriving DecidableEq, Repr

/-- A hardware queue (R297, R373): the submissions not yet dispatched, oldest first, and all since creation still
incomplete. -/
structure HQueue where
  qbase : Nat := 0
  qlog  : Nat := 4
  en    : Bool := false
  err   : Bool := false
  wd    : Nat := 0
  subs  : List Nat := []
  live  : List Nat := []
  deriving DecidableEq, Repr

/-- A completion ring (R303, R373). -/
structure CRing where
  base  : Nat := 0
  elog  : Nat := 4
  en    : Bool := false
  take  : Nat := 0
  posted : Nat := 0
  taken : Nat := 0
  hold  : Bool := false
  deriving DecidableEq, Repr

/-- Launch-record slot states (R300). -/
inductive LSt where
  | idle | queued | running | done
  deriving DecidableEq, Repr

/-- A completion to be posted (R303). -/
structure Completion where
  tenant : Nat
  ring   : Nat
  status : Nat
  cause  : Nat
  slot   : Nat
  queue  : Nat
  tag    : Word
  ns     : Nat
  frees  : Bool
  deriving DecidableEq, Repr

/-- A launch-record slot (R300, R350): the 256-byte record, queue and cause, progress flags, and the running launch's
threads, dispatch cycle, watchdog, FADD contributions of ended threads (R176), replicas by stage in the order they
started, those whose RETIRE waits for a cut, the balancer's runs of samples by queue (R307), pre-emption, a debug halt, the cut
that a function-level reset has begun (R373), the pipeline declaration as its check read it (log 88), how many replicas have
started, and the microsecond of TIME of the balancer's last sample. -/
structure Slot where
  st      : LSt := .idle
  record  : List Byte := []
  queue   : Nat := 0
  host    : Bool := false
  cause   : Nat := 0
  first   : Nat := 0
  stopped : Bool := false
  cutdone : Bool := false
  drained : Bool := false
  reset_  : Bool := false
  threads : List Nat := []
  start   : Nat := 0
  wdLeft  : Option Nat := none
  wdFrom  : Nat := 0
  status  : Nat := 0
  fadds   : List (Nat × FaddEntry) := []
  comp    : Option Completion := none
  replicas : List (Nat × Nat) := []
  retiring : List Nat := []
  highs   : List (Nat × Nat × Nat) := []
  preempting : Bool := false
  preempted : Bool := false
  halted  : Bool := false
  cutting : Bool := false
  decl    : List Byte := []
  started : Nat := 0
  sampled : Nat := 0
  deriving DecidableEq, Repr

/-- A signal held until a cut completes (R334). -/
inductive HeldSig where
  | fill (ring : Nat) (byChan : Bool)
  | phase (gate : Nat)
  | streamEnd (port : Nat)
  deriving DecidableEq, Repr

/-- What a cut saves (R327, Table 16.1): planes with their options and counters, cells, ports, lattices with their
accumulators and the commands under way in them, rings; for a pre-emption cut the threads and their commands not yet
started; commands of its lattices that still stood in a command queue at the cut; and where its image stands:
partition-relative address, pages, and the number of its free bytes; commands are numbered from `upto` on after it. -/
structure Snap where
  num     : Nat := 0
  preempt : Bool := false
  planes  : List (Nat × Plane) := []
  cells   : List (Nat × Cell) := []
  ports   : List (Nat × Port) := []
  lats    : List (Nat × Lat) := []
  accs    : List (Nat × Acc) := []
  rings   : List (Nat × Ring) := []
  ops     : List Cmd := []
  queued  : List Cmd := []
  threads : List (Nat × Ctx) := []
  cmds    : List Cmd := []
  image   : Option (Nat × Nat × Nat) := none
  upto    : Nat := 0
  deriving DecidableEq, Repr

/-- The cuts of a region (R324-R328, R335 CUTST), keyed by the launch's slot, by 16384 + plane key for a plane that no
launch loaded, or by a number given when the launch completed: the cut in progress or last begun, the cycle it began,
how many began since the region's last load, what the last complete one saved, the signals held (R334), the markers of
producers outside the region since then (R332), the ports a pre-emption closed, the planes in which the cut in progress was
injected, whether a fault waits for its rollback, and whether the cut is one of a plot move (R377). -/
structure Cuts where
  num     : Nat := 0
  active  : Bool := false
  begun   : Nat := 0
  count   : Nat := 0
  lastNum : Nat := 0
  exists_ : Bool := false
  rolled  : Bool := false
  buffer  : Nat := 0
  saving  : Snap := {}
  last    : Snap := {}
  held    : List HeldSig := []
  marked  : List Nat := []
  lodge   : Bool := false
  preempt : Bool := false
  abandoned : Bool := false
  replay  : List (Nat × Nat) := []
  shut    : List Nat := []
  parts   : List (Nat × Nat) := []
  pending : Bool := false
  moving  : Bool := false
  deriving DecidableEq, Repr

/-- A scrub request accepted and not yet signed (R362, R370), with TIME as its signing begins. -/
structure Scrub where
  seq    : Nat
  outvf  : Nat
  invf   : Nat
  units  : List Word
  nonce  : List Word
  started : Bool := false
  cleared : Bool := false
  ns      : Nat := 0
  deriving DecidableEq, Repr

/-- A repair record (R381). -/
structure Repair where
  kind  : Nat
  cause : Nat
  die   : Nat
  ns    : Nat
  old   : Nat
  new   : Nat
  deriving DecidableEq, Repr

/-- Wear of one unit (R376): low samples running, the cycles of its corrected errors, worn and by which cause, and the regions
whose lodge cuts its retirement began (R377). -/
structure Wear where
  unit_ : WearUnit
  low   : Nat := 0
  errs  : List Nat := []
  worn  : Option Nat := none
  cuts  : Option (List Nat) := none
  deriving DecidableEq, Repr

/-- A mailbox of the host port (R372): BUSY, status, tag, and the command buffer. -/
structure AdminBox where
  busy   : Bool := false
  done   : Bool := false
  status : Nat := 0
  tag    : BitVec 32 := 0
  buf    : List Host.Cell := []
  deriving DecidableEq, Repr

/-- The position of a die's frame table (R321): the entry in force, the cycle it began, and the table in force. -/
structure Frame where
  entry : Nat := 0
  since : Nat := 0
  table : Tbl (BitVec 64) := []
  deriving DecidableEq, Repr

/-- The package. -/
structure State where
  cur     : Agent
  agenda  : List Turn
  cycle   : Nat
  free    : Nat
  mem     : List Host.Cell
  badMem  : List Nat
  sram    : List Host.Cell
  sramBad : List Nat
  imem    : List Host.Cell
  threads : Tbl Ctx
  lodges  : Tbl Lodge
  plots   : Tbl Plot
  planes  : Tbl Plane
  cells   : Tbl Cell
  ports   : Tbl Port
  lats    : Tbl Lat
  latOwner : Tbl (Option Nat)
  accs    : Tbl Acc
  tiles   : Tbl Tile
  rings   : Tbl Ring
  gates   : Tbl Gate
  chans   : Tbl Chan
  mboxes  : Tbl Mbox
  sets    : List MSet
  tenants : Tbl Tenant
  pend    : List Pend
  seen    : List (Nat × Nat)
  knows   : Tbl Nat
  remotes : List Remote
  nextId  : Nat
  xlats   : List Xlat
  tabs    : List Tab
  invals  : List Inval
  prqs    : Tbl Prq
  prqWait : List PrqWait
  fatals  : List (Holder × Nat × AccKind × Nat)
  regions : Tbl Region
  slots   : Tbl Slot
  queues  : Tbl HQueue
  crings  : Tbl CRing
  held    : List Completion
  kicks   : Tbl Word
  wdogs   : Tbl Word
  jnext   : Nat
  takevec : Word
  lfault  : Word
  fatal   : Bool
  frames  : Tbl (BitVec 64)
  frame   : Tbl Frame
  cuts    : Tbl Cuts
  scrubs  : List Scrub
  scrubSeq : Nat
  scrubLast : Nat
  tokenBars : List Word
  ways    : Tbl Nat
  waySpares : Tbl Nat
  waysLost : List Nat
  spares  : Tbl Nat
  colSpares : Tbl Nat
  rowRepairs : List Nat
  repairs : List Repair
  wear    : List Wear
  lanes   : Tbl Nat
  admin   : AdminBox
  vfbox   : Tbl AdminBox
  pftoken : List Host.Cell
  perms   : Tbl (BitVec 64)
  tierEnc : Tbl Nat
  shared  : List Nat
  hostHeld : List Nat
  pwrcap  : Nat
  locid   : Nat
  staged  : Option (List Byte)
  running : Option (List Byte)
  vec0    : Bool
  mctp    : List Byte
  flits   : List Flit
  deriving DecidableEq, Repr

/-- The machine right after reset (R361, R309, R393): lodge cores 0 and 1 ACTIVE at their reset entry, every plot
free, memory with nothing listed. The values the manual does not state are named in log 2 to 7 (log 6). -/
def State.reset : State :=
  { cur := .lodge 0, agenda := [], cycle := 0, free := 0, mem := [], badMem := [], sram := [], sramBad := [],
    imem := [], threads := [],
    lodges := [(0, { ctx := { st := .running, priv := .l }, role := .active }),
               (1, { ctx := { st := .running, priv := .l }, role := .active })],
    plots := [], planes := [], cells := [], ports := [], lats := [], latOwner := [], accs := [], tiles := [],
    rings := [], gates := [], chans := [], mboxes := [], sets := [], tenants := [], pend := [], seen := [], knows := [], remotes := [], nextId := 1,
    xlats := [], tabs := [], invals := [], prqs := [], prqWait := [], fatals := [], regions := [], slots := [], queues := [], crings := [], held := [],
    kicks := [], wdogs := [], jnext := 1, takevec := 0, lfault := 0, fatal := false, frames := [], frame := [],
    cuts := [], scrubs := [], scrubSeq := 0, scrubLast := 0, tokenBars := [], ways := [],
    waySpares := [], waysLost := [], spares := [], colSpares := [], rowRepairs := [],
    repairs := [], wear := [], lanes := [], admin := {}, vfbox := [], pftoken := [], perms := [], tierEnc := [], shared := [],
    hostHeld := [], pwrcap := 1800, locid := 0, staged := none, running := none, vec0 := false, mctp := [], flits := [] }

end Sys2Proof.Machine
end

