-- ==== Sys2Proof/Machine/Memory.lean ====
section
/-! DEFINITION. Bytes by address: the canonical sparse memory used for global memory, tiles, carve-outs, lodge SRAM and
instruction memory. An unlisted byte reads 0 (log 3, log 4); the list is rising in addresses and lists no zero byte, so
equal memories are equal lists. Multi-byte values are little-endian (R2). -/

namespace Sys2Proof.Machine

/-- What an unlisted byte reads as (log 4). -/
def Mem.unlisted : Byte := 0

/-- The byte at an address. -/
def Mem.get : List Host.Cell → Nat → Byte
  | [], _ => Mem.unlisted
  | (k, v) :: t, a => if k = a then v else Mem.get t a

/-- One byte written; the canonical form is kept. -/
def Mem.set : List Host.Cell → Nat → Byte → List Host.Cell
  | [], a, b => if b = Mem.unlisted then [] else [(a, b)]
  | (k, v) :: t, a, b =>
    if k = a then (if b = Mem.unlisted then t else (a, b) :: t)
    else if a < k then (if b = Mem.unlisted then (k, v) :: t else (a, b) :: (k, v) :: t)
    else (k, v) :: Mem.set t a b

/-- The canonical form: rising addresses, nothing listed that reads as an unlisted byte does. -/
def Mem.wf : List Host.Cell → Bool
  | [] => true
  | [(_, v)] => v != Mem.unlisted
  | (k, v) :: (k', v') :: t => v != Mem.unlisted && decide (k < k') && Mem.wf ((k', v') :: t)

/-- `n` bytes from an address up. -/
def Mem.read (m : List Host.Cell) (a : Nat) : Nat → List Byte
  | 0 => []
  | n + 1 => Mem.get m a :: Mem.read m (a + 1) n

/-- Bytes written from an address up. -/
def Mem.write (m : List Host.Cell) (a : Nat) : List Byte → List Host.Cell
  | [] => m
  | b :: bs => Mem.write (Mem.set m a b) (a + 1) bs

/-- The value of bytes, least significant first (R2). -/
def leNat : List Byte → Nat
  | [] => 0
  | b :: bs => b.toNat + 256 * leNat bs

/-- The `n` low bytes of a value, least significant first (R2). -/
def leBytes : Nat → Nat → List Byte
  | 0, _ => []
  | n + 1, v => BitVec.ofNat 8 v :: leBytes n (v / 256)

/-- A 64-bit word from bytes. -/
def leWord (bs : List Byte) : Word := BitVec.ofNat 64 (leNat bs)

/-- Bytes `off` to `off + n - 1` of a structure read from memory, as a value. -/
def fieldAt (bs : List Byte) (off n : Nat) : Nat := leNat ((bs.drop off).take n)

/-- The bytes of a structure with the field at `off` replaced. -/
def fieldSet (bs : List Byte) (off n v : Nat) : List Byte :=
  bs.take off ++ leBytes n v ++ bs.drop (off + n)

/-- Bits `lo` to `lo + n - 1` of a value. -/
def bitsAt (v lo n : Nat) : Nat := (v >>> lo) % 2 ^ n

/-- One bit of a value. -/
def bitAt (v i : Nat) : Bool := (v >>> i) % 2 == 1

/-- The signed value of an `n`-bit field. -/
def signedOf (n v : Nat) : Int := if v % 2 ^ n < 2 ^ (n - 1) then ((v % 2 ^ n : Nat) : Int) else ((v % 2 ^ n : Nat) : Int) - (2 : Int) ^ n

end Sys2Proof.Machine
end

