-- ==== Sys2Proof/Machine/Base.lean ====
section
/-! DEFINITION. Access to the parts of the state by number, with the reset value of every unit that is not listed, and
the quantities the other files compute from them: time, residency (R321, R322), tenants and holders (R352). -/

namespace Sys2Proof.Machine

/-! Reading units. -/

def State.thread (s : State) (t : Nat) : Ctx := Tbl.getD s.threads t {}
def State.lodge (s : State) (c : Nat) : Lodge := Tbl.getD s.lodges c { ctx := { priv := .l } }
def State.plot (s : State) (p : Nat) : Plot := Tbl.getD s.plots p {}
def State.plane (s : State) (p k : Nat) : Plane := Tbl.getD s.planes (p * 4 + k) {}
def State.cell (s : State) (p k c : Nat) : Cell := Tbl.getD s.cells ((p * 4 + k) * 16 + c) {}
def State.port (s : State) (p n : Nat) : Port := Tbl.getD s.ports (p * 16 + n) {}
def State.lat (s : State) (p k : Nat) : Lat := Tbl.getD s.lats (p * 4 + k) {}
def State.acc (s : State) (p n : Nat) : Acc := Tbl.getD s.accs (p * 16 + n) {}
def State.tile (s : State) (p h : Nat) : Tile := Tbl.getD s.tiles (p * 256 + h) {}
def State.ring (s : State) (p r : Nat) : Ring := Tbl.getD s.rings (p * 16 + r) {}
def State.gate (s : State) (p g : Nat) : Gate := Tbl.getD s.gates (p * 32 + g) {}
def State.chan (s : State) (c : Nat) : Chan := Tbl.getD s.chans c {}
def State.mbox (s : State) (m : Nat) : Mbox := Tbl.getD s.mboxes m {}
def State.tenant (s : State) (v : Nat) : Tenant := Tbl.getD s.tenants v {}
def State.slot (s : State) (i : Nat) : Slot := Tbl.getD s.slots i {}
def State.queue (s : State) (q : Nat) : HQueue := Tbl.getD s.queues q {}
def State.cring (s : State) (v n : Nat) : CRing := Tbl.getD s.crings (v * 64 + n) {}
def State.cutsOf (s : State) (r : Nat) : Cuts := Tbl.getD s.cuts r {}

/-! Writing units. -/

def State.setThread (s : State) (t : Nat) (c : Ctx) : State := { s with threads := Tbl.set s.threads t c }
def State.setLodge (s : State) (c : Nat) (l : Lodge) : State := { s with lodges := Tbl.set s.lodges c l }
def State.setPlot (s : State) (p : Nat) (x : Plot) : State := { s with plots := Tbl.set s.plots p x }
def State.setPlane (s : State) (p k : Nat) (x : Plane) : State := { s with planes := Tbl.set s.planes (p * 4 + k) x }
def State.setCell (s : State) (p k c : Nat) (x : Cell) : State :=
  { s with cells := Tbl.set s.cells ((p * 4 + k) * 16 + c) x }
def State.setPort (s : State) (p n : Nat) (x : Port) : State := { s with ports := Tbl.set s.ports (p * 16 + n) x }
def State.setLat (s : State) (p k : Nat) (x : Lat) : State := { s with lats := Tbl.set s.lats (p * 4 + k) x }
def State.setAcc (s : State) (p n : Nat) (x : Acc) : State := { s with accs := Tbl.set s.accs (p * 16 + n) x }
def State.setTile (s : State) (p h : Nat) (x : Tile) : State := { s with tiles := Tbl.set s.tiles (p * 256 + h) x }
def State.setRing (s : State) (p r : Nat) (x : Ring) : State := { s with rings := Tbl.set s.rings (p * 16 + r) x }
def State.setGate (s : State) (p g : Nat) (x : Gate) : State := { s with gates := Tbl.set s.gates (p * 32 + g) x }
def State.setChan (s : State) (c : Nat) (x : Chan) : State := { s with chans := Tbl.set s.chans c x }
def State.setMbox (s : State) (m : Nat) (x : Mbox) : State := { s with mboxes := Tbl.set s.mboxes m x }
def State.setTenant (s : State) (v : Nat) (x : Tenant) : State := { s with tenants := Tbl.set s.tenants v x }
def State.setSlot (s : State) (i : Nat) (x : Slot) : State := { s with slots := Tbl.set s.slots i x }
def State.setQueue (s : State) (q : Nat) (x : HQueue) : State := { s with queues := Tbl.set s.queues q x }
def State.setCring (s : State) (v n : Nat) (x : CRing) : State := { s with crings := Tbl.set s.crings (v * 64 + n) x }
def State.setCuts (s : State) (r : Nat) (x : Cuts) : State := { s with cuts := Tbl.set s.cuts r x }

/-! The issuing context. -/

/-- The context of an agent. -/
def State.ctxOf (s : State) : Agent → Ctx
  | .thread t => s.thread t
  | .lodge c => (s.lodge c).ctx
  | .assist p => (s.plot p).assist

/-- The state with an agent's context replaced. -/
def State.setCtxOf (s : State) (a : Agent) (c : Ctx) : State :=
  match a with
  | .thread t => s.setThread t c
  | .lodge k => s.setLodge k { s.lodge k with ctx := c }
  | .assist p => s.setPlot p { s.plot p with assist := c }

/-- The issuing context. -/
def State.ctx (s : State) : Ctx := s.ctxOf s.cur

/-- The state with the issuing context replaced. -/
def State.setCtx (s : State) (c : Ctx) : State := s.setCtxOf s.cur c

/-- G[r] (R48): g0 reads 0. -/
def Ctx.get (c : Ctx) (r : Reg) : Word := if r = 0 then 0 else c.regs[r.toNat]'r.isLt

/-- G[r] := v (R48): a write of g0 is discarded. -/
def Ctx.put (c : Ctx) (r : Reg) (v : Word) : Ctx :=
  if r = 0 then c else { c with regs := c.regs.set r.toNat v r.isLt }

/-- G[r] of the issuing context. -/
def State.g (s : State) (r : Reg) : Word := s.ctx.get r

/-- G[r] := v in the issuing context. -/
def State.setG (s : State) (r : Reg) (v : Word) : State := s.setCtx (s.ctx.put r v)

/-- Whether the issuing context runs a thread. -/
def State.isThread (s : State) : Bool := match s.cur with | .thread _ => true | _ => false

/-- The plot of the issuing context; a lodge core has none (R397) and reads as plot 0 here. -/
def State.curPlot (s : State) : Nat :=
  match s.cur with
  | .thread t => t / 8
  | .assist p => p
  | .lodge _ => 0

/-- The issuing thread's id, 0 elsewhere. -/
def State.curTid (s : State) : Nat := match s.cur with | .thread t => t | _ => 0

/-- The issuing context's tenant; a context of no tenant reads as 64, which no tenant is. -/
def State.curTenant (s : State) : Nat := s.ctx.tenant.getD 64

/-- The die of a plot (R9). -/
def dieOf (plot : Nat) : Nat := plot / 160

/-! Time (R5, R78). -/

/-- Nanoseconds of a count of 700 MHz cycles (R5). -/
def nsOf (cycles : Nat) : Nat := cycles * 10 / 7

/-- Cycles of a count of microseconds (R5). -/
def cyclesOfUs (us : Nat) : Nat := us * 700

/-- CYCLE as a plot reads it: the readings of the package differ by at most 16 (R78, log 12). -/
def State.cycleOn (s : State) (plot : Nat) : Nat := s.cycle + Config.cycleSkew plot % 17

/-- TIME as a plot reads it: the readings of the package differ by at most 20 ns (R78, log 12). -/
def State.timeOn (s : State) (plot : Nat) : Nat := nsOf s.cycle + Config.timeSkew plot % 21

/-- A fresh free value (log 7). -/
def State.fresh (s : State) : Word × State := (Config.freeWord s.free, { s with free := s.free + 1 })

/-! Holding (R352, R362). -/

/-- The tenant that holds a plot; a scrubbing plot is held by none. -/
def State.plotOwner (s : State) (p : Nat) : Option Nat :=
  let x := s.plot p
  if x.scrubbing then none else x.owner

/-- The tenant that holds a plane: its own hand-over if it had one, otherwise its plot's (Table 18.1). -/
def State.planeOwner (s : State) (p k : Nat) : Option Nat :=
  let x := s.plane p k
  if x.scrubbing || (s.plot p).scrubbing then none
  else match x.owner with
    | some o => o
    | none => (s.plot p).owner

/-- The tenant that holds a lattice. -/
def State.latHolder (s : State) (p k : Nat) : Option Nat :=
  match Tbl.get? s.latOwner (p * 4 + k) with
  | some o => o
  | none => s.plotOwner p

/-- The plane that claims port `n` of a plot (R127). -/
def State.portPlane (s : State) (p n : Nat) : Option Nat :=
  (List.range 4).find? fun k => let x := s.plane p k; x.st != .unconfigured && bitAt x.portmask n

/-- The plane that claims lattice `l` of a plot (R127, R187). -/
def State.latPlane (s : State) (p l : Nat) : Option Nat :=
  (List.range 4).find? fun k => let x := s.plane p k; x.st != .unconfigured && bitAt x.latmask l

/-- Whether the tenant may use lattice `l` of the plot: claimed by a CONFIGURED plane it holds (R187). -/
def State.latClaimed (s : State) (p l v : Nat) : Bool :=
  match s.latPlane p l with
  | some k => (s.plane p k).st == .configured && s.planeOwner p k == some v && s.latHolder p l == some v
  | none => false

/-- The plots a tenant holds, in increasing number. -/
def State.plotsOf (s : State) (v : Nat) : List Nat :=
  (Tbl.keys s.plots).filter fun p => s.plotOwner p == some v

/-! Frames and residency (R321, R322). -/

/-- The default frame entry (R321). -/
def defaultFrame : BitVec 64 := 0x0AAE601F

/-- DURATION, V and the mask of an entry; an entry with DURATION 0 is not valid (R321). -/
def frameDur (e : BitVec 64) : Nat := (e.extractLsb' 8 24).toNat
def frameMask (e : BitVec 64) : Nat := (e.extractLsb' 0 4).toNat
def frameValid (e : BitVec 64) : Bool := e.getLsbD 4 && frameDur e != 0

/-- The entries a table's frames run through, with their numbers; the default when none is valid (R321). -/
def frameEntries (t : Tbl (BitVec 64)) : List (Nat × BitVec 64) :=
  let v := t.filter fun e => frameValid e.2
  if v.isEmpty then [(0, defaultFrame)] else v

/-- The entry in force on a die (log 77). -/
def State.frameNow (s : State) (die : Nat) : BitVec 64 :=
  let f := Tbl.getD s.frame die {}
  match (frameEntries f.table).find? fun e => e.1 = f.entry with
  | some e => e.2
  | none => ((frameEntries f.table).headD (0, defaultFrame)).2

/-- The planes of the mask that are CONFIGURED, in increasing number (R322). -/
def State.residentSet (s : State) (p : Nat) : List Nat :=
  (List.range 4).filter fun k => bitAt (frameMask (s.frameNow (dieOf p))) k && (s.plane p k).st == .configured

/-- Whether the power governor withholds the current cycle on a plot (R390). -/
def State.withheldNow (s : State) (p : Nat) : Bool := (s.plot p).withheld.contains s.cycle

/-- The resident plane of a plot in the current cycle: round robin among them (R322); none while another plot of a
pair holds the frame (R379) or the cycle is withheld (R390). -/
def State.residentPlane (s : State) (p : Nat) : Option Nat :=
  let set := s.residentSet p
  if set.isEmpty || !(s.plot p).resident || s.withheldNow p then none
  else set[(s.cycle - (Tbl.getD s.frame (dieOf p) {}).since) % set.length]?

end Sys2Proof.Machine
end

