-- ==== Sys2Proof/Machine/Address.lean ====
section
/-! DEFINITION. System addresses (R242): what they map, which slice homes them (R159, R259), lines and their errors. -/

namespace Sys2Proof.Machine

/-- The local part of a system address. -/
def localOf (spa : Nat) : Nat := spa % 2 ^ 46

/-- The domain and package number of a system address, as LOCID packs them. -/
def pkgOf (spa : Nat) : Nat := (spa >>> 46) % 2 ^ 15

/-- Whether a system address is local to this package. -/
def State.isLocal (s : State) (spa : Nat) : Bool := pkgOf spa == s.locid

def isHbm (spa : Nat) : Bool := decide (localOf spa < 0x8000000000)
def isTier2 (spa : Nat) : Bool := decide (0x100000000000 ≤ localOf spa) && decide (localOf spa < 0x200000000000)
def isHostMem (spa : Nat) : Bool := decide (0x200000000000 ≤ localOf spa) && decide (localOf spa < 0x300000000000)

/-- The second-tier port that an offset into the window belongs to, from port `p` on, over `n` ports: the expanders of a package
stand in port order, each with its own capacity (R259, log 19). -/
def portAt (pkg off p : Nat) : Nat → Option Nat
  | 0 => none
  | n + 1 =>
    let c := Config.expanderBytes pkg p
    if off < c then some p else portAt pkg (off - c) (p + 1) n

/-- The port of a second-tier address, none past the last expander. -/
def tier2Port (spa : Nat) : Option Nat := portAt (pkgOf spa) (localOf spa - 0x100000000000) 0 7

/-- Whether a system address maps memory (Table 11.1) (log 84). -/
def mapsMemory (spa : Nat) : Bool :=
  decide (spa < 2 ^ 61) && (isHbm spa || isHostMem spa || (isTier2 spa && (tier2Port spa).isSome))

/-- The 1 GiB granule of the second tier that an address lies in (R260). -/
def tier2Granule (spa : Nat) : Nat := (localOf spa - 0x100000000000) >>> 30

/-- Host-shared second-tier memory or host memory: served by no plot's cache (R160, R260). -/
def State.hostSide (s : State) (spa : Nat) : Bool :=
  isHostMem spa || (isTier2 spa && s.shared.contains (tier2Granule spa))

/-- The home slice of a line, 0-127 (R159): HBM by the die that carries its stack; the second tier by the die that owns
its port (R259); host memory at die 0. -/
def homeSlice (spa : Nat) : Nat :=
  let die :=
    if isHbm spa then localOf spa / 0x2000000000
    else if isTier2 spa then (tier2Port spa).getD 0 / 2
    else 0
  die * 32 + (spa >>> 12) % 32

/-- The 64-byte line of an address. -/
def lineOf (spa : Nat) : Nat := spa / 64

/-- Whether a line holds an uncorrectable error (R336). -/
def State.isBad (s : State) (spa n : Nat) : Bool :=
  s.badMem.contains (lineOf spa) || s.badMem.contains (lineOf (spa + n - 1))

/-- The lines that `n` bytes at an address touch. -/
def touches (spa n line : Nat) : Bool := decide (lineOf spa ≤ line) && decide (line ≤ lineOf (spa + n - 1))

end Sys2Proof.Machine
end

