-- ==== Sys2Proof/Machine/Num.lean ====
section
/-! DEFINITION. Numbers (03_numbers): the floating-point formats, exact values, the rounding of R57 with the overflow
results of R58, exact arithmetic with the zero signs of R59, conversions (R61) and block quantisation (R64). -/

namespace Sys2Proof.Machine

/-- An exact value: NaN, an infinity, or (-1)^neg * m * 2^e; a zero keeps its sign. -/
inductive Val where
  | nan
  | inf (neg : Bool)
  | fin (neg : Bool) (m : Nat) (e : Int)
  deriving DecidableEq, Repr

/-- A floating-point format (Table 3.1): width, exponent bits, fraction bits, and whether it is E4M3. -/
structure FFmt where
  w    : Nat
  eb   : Nat
  f    : Nat
  e4m3 : Bool := false
  deriving DecidableEq, Repr

def fp64 : FFmt := { w := 64, eb := 11, f := 52 }
def fp32 : FFmt := { w := 32, eb := 8, f := 23 }
def fp16 : FFmt := { w := 16, eb := 5, f := 10 }
def bf16 : FFmt := { w := 16, eb := 8, f := 7 }
def fpE4M3 : FFmt := { w := 8, eb := 4, f := 3, e4m3 := true }
def fpE5M2 : FFmt := { w := 8, eb := 5, f := 2 }

/-- The bias. -/
def FFmt.bias (F : FFmt) : Int := 2 ^ (F.eb - 1) - 1
/-- The precision p. -/
def FFmt.p (F : FFmt) : Nat := F.f + 1
/-- The smallest normal exponent. -/
def FFmt.emin (F : FFmt) : Int := 1 - F.bias
/-- The quantum's exponent at the largest finite value. -/
def FFmt.maxQ (F : FFmt) : Int := (if F.e4m3 then 8 else F.bias) - F.f
/-- The significand of the largest finite value. -/
def FFmt.maxM (F : FFmt) : Nat := if F.e4m3 then 14 else 2 ^ F.p - 1
/-- The canonical NaN (R52, Table 3.2). -/
def FFmt.nan (F : FFmt) : Nat := if F.e4m3 then 0x7F else (2 ^ F.eb - 1) * 2 ^ F.f + 2 ^ (F.f - 1)
/-- The sign bit's value. -/
def FFmt.sign (F : FFmt) (neg : Bool) : Nat := if neg then 2 ^ (F.w - 1) else 0
/-- An infinity's bits, in a format that has them. -/
def FFmt.inf (F : FFmt) (neg : Bool) : Nat := F.sign neg + (2 ^ F.eb - 1) * 2 ^ F.f
/-- The largest finite value's bits. -/
def FFmt.maxf (F : FFmt) (neg : Bool) : Nat := F.sign neg + (if F.e4m3 then 0x7E else F.inf false - 1)

/-- The value that bits denote (R51). -/
def FFmt.val (F : FFmt) (b : Nat) : Val :=
  let neg := bitAt b (F.w - 1)
  let ef := bitsAt b F.f F.eb
  let fr := bitsAt b 0 F.f
  if F.e4m3 then
    if ef = 15 ∧ fr = 7 then .nan
    else if ef = 0 then .fin neg fr (1 - F.bias - F.f)
    else .fin neg (2 ^ F.f + fr) ((ef : Int) - F.bias - F.f)
  else if ef = 2 ^ F.eb - 1 then (if fr = 0 then .inf neg else .nan)
  else if ef = 0 then .fin neg fr (1 - F.bias - F.f)
  else .fin neg (2 ^ F.f + fr) ((ef : Int) - F.bias - F.f)

/-- Rounding modes (R57). -/
inductive RMode where
  | rne | zero | up | down
  deriving DecidableEq, Repr

/-- The mode of an RM code. -/
def rmodeOf (n : Nat) : RMode := match n % 4 with | 0 => .rne | 1 => .zero | 2 => .up | _ => .down

/-- The integer that `m * 2^e`, e possibly negative, rounds to in magnitude (R57). -/
def roundNat (rm : RMode) (neg : Bool) (m : Nat) (e : Int) : Nat :=
  match e with
  | .ofNat k => m * 2 ^ k
  | .negSucc k =>
    let d := 2 ^ (k + 1)
    let n := m / d
    let r := m % d
    match rm with
    | .rne => if 2 * r > d ∨ (2 * r = d ∧ n % 2 = 1) then n + 1 else n
    | .zero => n
    | .up => if r ≠ 0 ∧ !neg then n + 1 else n
    | .down => if r ≠ 0 ∧ neg then n + 1 else n

/-- Overflow results (R58, Table 3.3). -/
def FFmt.overflow (F : FFmt) (neg : Bool) (rm : RMode) (e4nan : Bool) : Nat :=
  if F.e4m3 then (if e4nan then 0x7F else F.maxf neg)
  else match rm with
    | .rne => F.inf neg
    | .zero => F.maxf neg
    | .up => if neg then F.maxf true else F.inf false
    | .down => if neg then F.inf true else F.maxf false

/-- Round (R57), as the bits of the result. -/
def FFmt.round (F : FFmt) (rm : RMode) (e4nan : Bool) (v : Val) : Nat :=
  match v with
  | .nan => F.nan
  | .inf neg => if F.e4m3 then F.overflow neg rm e4nan else F.inf neg
  | .fin neg 0 _ => F.sign neg
  | .fin neg m e =>
    let ev := max ((m.log2 : Int) + e) F.emin
    let q := ev - F.f
    let n0 := roundNat rm neg m (e - q)
    let n := if n0 = 2 ^ F.p then 2 ^ F.f else n0
    let q := if n0 = 2 ^ F.p then q + 1 else q
    if F.maxQ < q ∨ (q = F.maxQ ∧ F.maxM < n) then F.overflow neg rm e4nan
    else if n < 2 ^ F.f then F.sign neg + n
    else F.sign neg + (q + F.f + F.bias).toNat * 2 ^ F.f + (n - 2 ^ F.f)

/-! Exact arithmetic. -/

/-- An integer's value. -/
def Val.ofInt (k : Int) : Val := .fin (decide (k < 0)) k.natAbs 0

/-- The opposite value. -/
def Val.neg : Val → Val
  | .nan => .nan
  | .inf s => .inf (!s)
  | .fin s m e => .fin (!s) m e

/-- The magnitude. -/
def Val.abs : Val → Val
  | .nan => .nan
  | .inf _ => .inf false
  | .fin _ m e => .fin false m e

/-- Whether the value is a zero. -/
def Val.isZero : Val → Bool
  | .fin _ 0 _ => true
  | _ => false

/-- A finite value's significand as an integer at exponent `q`, at most its own exponent. -/
def scaled (neg : Bool) (m : Nat) (e q : Int) : Int :=
  let k : Int := m * 2 ^ (e - q).toNat
  if neg then -k else k

/-- The exact sum, with the zero's sign of R59. -/
def Val.add (rm : RMode) (a b : Val) : Val :=
  match a, b with
  | .nan, _ => .nan
  | _, .nan => .nan
  | .inf s, .inf t => if s = t then .inf s else .nan
  | .inf s, _ => .inf s
  | _, .inf t => .inf t
  | .fin s m e, .fin t n f =>
    let q := min e f
    let k := scaled s m e q + scaled t n f q
    if k = 0 then
      if m = 0 ∧ n = 0 ∧ s = t then .fin s 0 0 else .fin (rm == .down) 0 0
    else .fin (decide (k < 0)) k.natAbs q

/-- The exact product. -/
def Val.mul (a b : Val) : Val :=
  match a, b with
  | .nan, _ => .nan
  | _, .nan => .nan
  | .inf s, .inf t => .inf (s != t)
  | .inf s, .fin t n _ => if n = 0 then .nan else .inf (s != t)
  | .fin s m _, .inf t => if m = 0 then .nan else .inf (s != t)
  | .fin s m e, .fin t n f => .fin (s != t) (m * n) (e + f)

/-- Less-than on values; a NaN is never less; the zeros are equal. -/
def Val.lt (a b : Val) : Bool :=
  match a, b with
  | .nan, _ => false
  | _, .nan => false
  | .inf s, .inf t => s && !t
  | .inf s, .fin _ _ _ => s
  | .fin _ _ _, .inf t => !t
  | .fin s m e, .fin t n f => decide (scaled s m e (min e f) < scaled t n f (min e f))

/-- Equality of values; a NaN equals nothing; the zeros are equal. -/
def Val.eq (a b : Val) : Bool :=
  match a, b with
  | .nan, _ => false
  | _, .nan => false
  | .inf s, .inf t => s == t
  | .inf _, .fin _ _ _ => false
  | .fin _ _ _, .inf _ => false
  | .fin s m e, .fin t n f => scaled s m e (min e f) == scaled t n f (min e f)

/-! Conversions (R61, Table 3.4). -/

/-- A finite value rounded to an integer. -/
def roundInt (rm : RMode) (neg : Bool) (m : Nat) (e : Int) : Int :=
  let k : Int := roundNat rm neg m e
  if neg then -k else k

/-- Wrap(v, n) as bits. -/
def wrapBits (n : Nat) (k : Int) : Nat := (k % (2 : Int) ^ n).toNat

/-- Sat(v, n). -/
def satInt (n : Nat) (k : Int) : Int := max (-(2 : Int) ^ (n - 1)) (min ((2 : Int) ^ (n - 1) - 1) k)

/-- Sat(v, n) as bits. -/
def satBits (n : Nat) (k : Int) : Nat := wrapBits n (satInt n k)

/-- Floating to integer of `n` bits: RNE, then wrap or saturate (Table 3.4). -/
def toIntBits (n : Nat) (sat : Bool) (v : Val) : Nat :=
  match v with
  | .nan => 0
  | .inf neg => if sat then (if neg then 2 ^ (n - 1) else 2 ^ (n - 1) - 1) else 0
  | .fin neg m e => (if sat then satBits else wrapBits) n (roundInt .rne neg m e)

/-- RoundShift (R198): divided by 2^d to the nearest integer, ties to even. -/
def roundShift (m : Int) (d : Nat) : Int :=
  let q := m / 2 ^ d
  let r := m % 2 ^ d
  if 2 * r > 2 ^ d ∨ (2 * r = 2 ^ d ∧ q % 2 = 1) then q + 1 else q

/-! Block floating point (R62, R64). -/

/-- The value of a mantissa of `n` bits under a scale (R62). -/
def bfpVal (n scale : Nat) (m : Int) : Val :=
  if scale = 0xFF then .nan else .fin (decide (m < 0)) m.natAbs ((scale : Int) - 127 - ((n : Int) - 2))

/-- The largest magnitude among finite values, as a dyadic number (0 for none). -/
def maxMag : List Val → Nat × Int
  | [] => (0, 0)
  | .fin _ m e :: t =>
    let r := maxMag t
    let q := min e r.2
    if r.1 * 2 ^ (r.2 - q).toNat < m * 2 ^ (e - q).toNat then (m, e) else r
  | _ :: t => maxMag t

/-- The scale of a block (R64). -/
def blockScale (xs : List Val) : Nat :=
  if xs.any fun x => match x with | .fin _ _ _ => false | _ => true then 0xFF
  else
    let a := maxMag xs
    if a.1 = 0 then 0 else (max 0 (min 254 ((a.1.log2 : Int) + a.2 + 127))).toNat

/-- A block quantised to BFPn under a mode: its scale and mantissas (R64). -/
def quantise (n : Nat) (rm : RMode) (xs : List Val) : Nat × List Int :=
  let sc := blockScale xs
  (sc, xs.map fun x =>
    match x with
    | .fin neg m e =>
      if sc = 0xFF then 0 else satInt n (roundInt rm neg m (e - ((sc : Int) - 127 - ((n : Int) - 2))))
    | _ => 0)

/-! Lanes (R55, R32). -/

/-- The floating format of a cell FMT code 2 to 7 (R32). -/
def ffmtOf (c : Nat) : FFmt :=
  match c with
  | 2 => fp64 | 3 => fp32 | 4 => fp16 | 5 => bf16 | 6 => fpE4M3 | _ => fpE5M2

/-- The lane width of a cell FMT code. -/
def laneBits (c : Nat) : Nat :=
  match c with
  | 0 | 2 => 64 | 1 | 3 => 32 | 4 | 5 => 16 | _ => 8

/-- Lane `i` of a beat. -/
def laneOf (w i : Nat) (v : BitVec 64) : Nat := bitsAt v.toNat (w * i) w

/-- A beat from its lanes, lane 0 least significant. -/
def packLanes (w : Nat) (xs : List Nat) : BitVec 64 := BitVec.ofNat 64 (xs.foldr (fun x acc => x % 2 ^ w + acc * 2 ^ w) 0)

/-- The lanes of a beat. -/
def lanesOf (c : Nat) (v : BitVec 64) : List Nat :=
  (List.range (64 / laneBits c)).map fun i => laneOf (laneBits c) i v

end Sys2Proof.Machine
end

