-- ==== Sys2Proof/Machine/Special.lean ====
section
/-! DEFINITION. The special functions of R66 and R67, correctly rounded. An algebraic function is computed exactly
with a remainder bit; a transcendental one is enclosed by integer arithmetic at a precision of `P` fraction bits, and
the two ends of the enclosure are rounded: where they agree that is the correct result, otherwise the precision is
raised. Arguments so small or so large that the result lies next to a known value are answered by that value moved a
hair in the right direction. -/

namespace Sys2Proof.Machine

/-- A value m * 2^e that a remainder makes inexact: moved up by a quarter of its last place. -/
def stickyVal (neg : Bool) (m : Nat) (e : Int) (exact : Bool) : Val :=
  if exact then .fin neg m e else .fin neg (4 * m + 1) (e - 2)

/-- The integer square root, over the bits from 2^k down. -/
def isqrtFrom (n root : Nat) : Nat → Nat
  | 0 => root
  | k + 1 => if (root + 2 ^ k) * (root + 2 ^ k) ≤ n then isqrtFrom n (root + 2 ^ k) k else isqrtFrom n root k

/-- The integer square root. -/
def isqrt (n : Nat) : Nat := isqrtFrom n 0 (n.log2 / 2 + 1)

/-- 1 / (m * 2^e). -/
def recipVal (neg : Bool) (m : Nat) (e : Int) : Val :=
  let k := m.log2 + 140
  stickyVal neg (2 ^ k / m) (-e - k) (2 ^ k % m == 0)

/-- The square root of m * 2^e. -/
def sqrtVal (m : Nat) (e : Int) : Val :=
  let odd := e % 2 = 1
  let m := (if odd then 2 * m else m) * 2 ^ 280
  let e := (if odd then e - 1 else e) - 280
  let r := isqrt m
  stickyVal false r (e / 2) (r * r == m)

/-- 1 / sqrt (m * 2^e). -/
def rsqrtVal (m : Nat) (e : Int) : Val :=
  let odd := e % 2 = 1
  let m := if odd then 2 * m else m
  let e := if odd then e - 1 else e
  let k := m.log2 + 280
  let q := 2 ^ (2 * k) / m
  let r := isqrt q
  stickyVal false r (-(e / 2) - k) (r * r * m == 2 ^ (2 * k))

/-! Enclosures. -/

/-- A dyadic value at `P` fraction bits, rounded down. -/
def fixOf (P : Nat) (neg : Bool) (m : Nat) (e : Int) : Int :=
  let s : Int := if neg then -(m : Int) else m
  let k := e + P
  if 0 ≤ k then s * 2 ^ k.toNat else s / 2 ^ (-k).toNat

/-- The series t/d + t/(9(d+2)) + ... of ln 2. -/
def ln2Sum (t d : Nat) : Nat → Nat
  | 0 => 0
  | n + 1 => t / d + ln2Sum (t / 9) (d + 2) n

/-- ln 2 at `P` fraction bits. -/
def ln2Fix (P : Nat) : Int := 2 * ln2Sum (2 ^ P / 3) 1 (P / 3 + 2)

/-- The Taylor terms of exp from the k-th on. -/
def expTerms (P : Nat) (r t : Int) (k : Nat) : Nat → Int
  | 0 => 0
  | n + 1 => t + expTerms P r (t * r / 2 ^ P / ((k : Int) + 1)) (k + 1) n

/-- exp of a fixed-point argument: a mantissa at `P` fraction bits and a power of two. -/
def expFix (P : Nat) (x : Int) : Int × Int :=
  let l := ln2Fix P
  let k := x / l
  (expTerms P (x - k * l) (2 ^ P) 0 (P / 4 + 20), k)

/-- The terms of 2 artanh z. -/
def artanhTerms (P : Nat) (z2 t : Int) (d : Nat) : Nat → Int
  | 0 => 0
  | n + 1 => t / (d : Int) + artanhTerms P z2 (t * z2 / 2 ^ P) (d + 2) n

/-- The natural logarithm of m / 2^n in [1, 2), at `P` fraction bits. -/
def lnFix (P m n : Nat) : Int :=
  let a : Int := (m : Int) - 2 ^ n
  let b : Int := (m : Int) + 2 ^ n
  let z := a * 2 ^ P / b
  2 * artanhTerms P (z * z / 2 ^ P) z 1 (P / 3 + 5)

/-- An enclosure: a value v * 2^e with an error of at most `err` units of 2^e. -/
structure Approx where
  v   : Int
  e   : Int
  err : Nat
  deriving Repr

/-- An end of an enclosure as a value. -/
def endVal (v e : Int) : Val := .fin (decide (v < 0)) v.natAbs e

/-- The error allowed to the fixed-point functions, in units of the last place. -/
def fixErr : Nat := 2 ^ 40

/-- 1 / (1 + e^-y) for a fixed-point y. -/
def sigmFix (P : Nat) (y : Int) : Approx :=
  let ex := expFix P (if y < 0 then y else -y)
  let v := ex.1
  let k := ex.2
  let d := (2 : Int) ^ P + v / 2 ^ (-k).toNat
  if y < 0 then { v := v * 2 ^ P / d, e := k - P, err := fixErr }
  else { v := 2 ^ (2 * P) / d, e := -(P : Int), err := fixErr }

/-- tanh of a positive fixed-point y. -/
def tanhFix (P : Nat) (y : Int) : Approx :=
  let ex := expFix P (-2 * y)
  let w := ex.1 / 2 ^ (-ex.2).toNat
  { v := (2 ^ P - w) * 2 ^ P / (2 ^ P + w), e := -(P : Int), err := fixErr }

/-- The precisions tried. -/
def precisions : List Nat := [320, 640, 1600]

/-- The rounding on which both ends of an enclosure agree, at the first precision that gives one. -/
def zivRound (F : FFmt) (rm : RMode) (e4nan : Bool) (f : Nat → Approx) : List Nat → Nat
  | [] => F.round rm e4nan (endVal (f 1600).v (f 1600).e)
  | P :: t =>
    let a := f P
    let lo := F.round rm e4nan (endVal (a.v - a.err) a.e)
    let hi := F.round rm e4nan (endVal (a.v + a.err) a.e)
    if lo = hi then lo else zivRound F rm e4nan f t

/-- Whether a finite nonzero magnitude m * 2^e is below 2^k. -/
def below (m : Nat) (e k : Int) : Bool := decide ((m.log2 : Int) + e < k)

/-- A value a hair above or below 2^e. -/
def near (up : Bool) (e : Int) : Val := if up then .fin false (2 ^ 280 + 1) (e - 280) else .fin false (2 ^ 280 - 1) (e - 280)

/-- A positive value below every format's smallest. -/
def tinyVal : Val := .fin false 1 (-6000)

/-- A positive value above every format's largest. -/
def hugeVal : Val := .fin false 1 6000

/-- exp of a dyadic argument, rounded. -/
def expRound (F : FFmt) (rm : RMode) (e4nan : Bool) (neg : Bool) (m : Nat) (e : Int) : Nat :=
  if m = 0 then F.round rm e4nan (.fin false 1 0)
  else if below m e (-140) then F.round rm e4nan (near (!neg) 0)
  else if !below m e 12 then F.round rm e4nan (if neg then tinyVal else hugeVal)
  else zivRound F rm e4nan (fun P => let r := expFix P (fixOf P neg m e); { v := r.1, e := r.2 - P, err := fixErr }) precisions

/-- 2^x for a dyadic x, rounded. -/
def exp2Round (F : FFmt) (rm : RMode) (e4nan : Bool) (neg : Bool) (m : Nat) (e : Int) : Nat :=
  if m = 0 then F.round rm e4nan (.fin false 1 0)
  else if below m e (-140) then F.round rm e4nan (near (!neg) 0)
  else if !below m e 12 then F.round rm e4nan (if neg then tinyVal else hugeVal)
  else
    let q := min e 0
    let x := scaled neg m e q
    let d := (2 : Int) ^ (-q).toNat
    let n := x / d
    let f := x % d
    if f = 0 then F.round rm e4nan (.fin false 1 n)
    else zivRound F rm e4nan (fun P =>
      let r := expFix P (f * ln2Fix P / d)
      { v := r.1, e := r.2 + n - P, err := fixErr }) precisions

/-- log2 of a positive dyadic argument, rounded. -/
def log2Round (F : FFmt) (rm : RMode) (e4nan : Bool) (m : Nat) (e : Int) : Nat :=
  let n := m.log2
  let k := (n : Int) + e
  if m = 2 ^ n then F.round rm e4nan (if k = 0 then .fin false 0 0 else .ofInt k)
  else zivRound F rm e4nan (fun P =>
    { v := k * 2 ^ P + lnFix P m n * 2 ^ P / ln2Fix P, e := -(P : Int), err := fixErr }) precisions

/-- tanh of a nonzero dyadic argument, rounded. -/
def tanhRound (F : FFmt) (rm : RMode) (e4nan : Bool) (neg : Bool) (m : Nat) (e : Int) : Nat :=
  if below m e (-40) then F.round rm e4nan (.fin neg (m * 2 ^ 80 - 1) (e - 80))
  else if !below m e 6 then F.round rm e4nan (if neg then (near false 0).neg else near false 0)
  else zivRound F rm e4nan (fun P =>
    let a := tanhFix P (fixOf P false m e)
    { a with v := if neg then -a.v else a.v }) precisions

/-- The logistic sigmoid of a dyadic argument times an exact factor, rounded (R66, R67). -/
def sigmRound (F : FFmt) (rm : RMode) (e4nan : Bool) (neg : Bool) (m : Nat) (e : Int) (factor : Val) : Nat :=
  let by_ (v : Val) : Nat := F.round rm e4nan (Val.mul factor v)
  if m = 0 then by_ (.fin false 1 (-1))
  else if below m e (-140) then by_ (near (!neg) (-1))
  else if !below m e 12 then by_ (if neg then tinyVal else near false 0)
  else if !neg ∧ !below m e 8 then by_ (near false 0)
  else
    match factor with
    | .fin fs fm fe =>
      if fm = 0 then F.round rm e4nan factor
      else zivRound F rm e4nan (fun P =>
        let a := sigmFix P (fixOf P neg m e)
        let k : Int := if fs then -(fm : Int) else fm
        { v := a.v * k, e := a.e + fe, err := a.err * fm }) precisions
    | v => F.round rm e4nan v

/-- sqrt(2/pi) at `P` fraction bits, from Machin's formula for pi. -/
def arctanInv (P q : Nat) (t : Int) (d : Nat) : Nat → Int
  | 0 => 0
  | n + 1 => t / (d : Int) - arctanInv P q (t / ((q : Int) * q)) (d + 2) n

def piFix (P : Nat) : Int :=
  16 * arctanInv P 5 ((2 : Int) ^ P / 5) 1 (P / 4 + 5) - 4 * arctanInv P 239 ((2 : Int) ^ P / 239) 1 (P / 12 + 5)

def sqrt2OverPi (P : Nat) : Int := isqrt (2 * 2 ^ (3 * P) / (piFix P).toNat)

/-- The argument 2u of the logistic form of GELU, u = sqrt(2/pi) (x + 0.044715 x^3), at `P` fraction bits. -/
def geluArg (P : Nat) (neg : Bool) (m : Nat) (e : Int) : Int :=
  let x := fixOf P neg m e
  let cube := x * x / 2 ^ P * x / 2 ^ P
  2 * (sqrt2OverPi P * (x + 44715 * cube / 1000000) / 2 ^ P)

/-- GELU's act(x) times a factor g, rounded: g x / (1 + e^-2u) (R67). -/
def geluRound (F : FFmt) (e4nan : Bool) (neg : Bool) (m : Nat) (e : Int) (g : Val) : Nat :=
  let factor := Val.mul g (.fin neg m e)
  let by_ (v : Val) : Nat := F.round .rne e4nan (Val.mul factor v)
  if m = 0 then by_ (.fin false 1 (-1))
  else if below m e (-140) then by_ (near (!neg) (-1))
  else if !below m e 6 then by_ (if neg then tinyVal else near false 0)
  else if !neg ∧ !below m e 4 then by_ (near false 0)
  else
    match factor with
    | .fin fs fm fe =>
      if fm = 0 then F.round .rne e4nan factor
      else zivRound F .rne e4nan (fun P =>
        let a := sigmFix P (geluArg P neg m e)
        let k : Int := if fs then -(fm : Int) else fm
        { v := a.v * k, e := a.e + fe, err := a.err * fm }) precisions
    | v => F.round .rne e4nan v

/-! The functions with their special cases (Table 3.8, Table 3.9). -/

/-- The special functions of a rule. -/
inductive SpecFn where
  | exp2 | log2 | rcp | rsqrt | sqrt | tanh | sigm
  deriving DecidableEq, Repr

/-- A special function of a value, rounded into the format (R66). -/
def specRound (fn : SpecFn) (F : FFmt) (rm : RMode) (e4nan : Bool) (x : Val) : Nat :=
  let r := F.round rm e4nan
  match fn, x with
  | _, .nan => F.nan
  | .exp2, .inf neg => r (if neg then .fin false 0 0 else .inf false)
  | .exp2, .fin neg m e => exp2Round F rm e4nan neg m e
  | .log2, .inf neg => r (if neg then .nan else .inf false)
  | .log2, .fin neg m e => if m = 0 then r (.inf true) else if neg then F.nan else log2Round F rm e4nan m e
  | .rcp, .inf neg => r (.fin neg 0 0)
  | .rcp, .fin neg m e => r (if m = 0 then .inf neg else recipVal neg m e)
  | .rsqrt, .inf neg => r (if neg then .nan else .fin false 0 0)
  | .rsqrt, .fin neg m e => r (if m = 0 then .inf neg else if neg then .nan else rsqrtVal m e)
  | .sqrt, .inf neg => r (if neg then .nan else .inf false)
  | .sqrt, .fin neg m e => r (if m = 0 then .fin neg 0 0 else if neg then .nan else sqrtVal m e)
  | .tanh, .inf neg => r (.fin neg 1 0)
  | .tanh, .fin neg m e => if m = 0 then r (.fin neg 0 0) else tanhRound F rm e4nan neg m e
  | .sigm, .inf neg => r (if neg then .fin false 0 0 else .fin false 1 0)
  | .sigm, .fin neg m e => sigmRound F rm e4nan neg m e (.fin false 1 0)

/-- GACT: gate g times the activation of x that RM selects, one RNE rounding (R67). -/
def gactRound (F : FFmt) (act : Nat) (e4nan : Bool) (g x : Val) : Nat :=
  let r := F.round .rne e4nan
  match x with
  | .nan => if act = 2 then r (Val.mul g (.fin false 0 0)) else F.nan
  | .inf neg =>
    let a : Val := match act with
      | 0 | 1 => if neg then .fin true 0 0 else .inf false
      | 2 => if neg then .fin false 0 0 else .inf false
      | _ => if neg then .fin false 0 0 else .fin false 1 0
    r (Val.mul g a)
  | .fin neg m e =>
    match act with
    | 2 => r (Val.mul g (if neg ∨ m = 0 then .fin false 0 0 else x))
    | 3 =>
      match g with
      | .fin _ _ _ => sigmRound F .rne e4nan neg m e g
      | _ => r (Val.mul g (.fin false 1 0))
    | _ =>
      if m = 0 then r (Val.mul g (.fin neg 0 0))
      else
        match g with
        | .fin _ _ _ => if act = 0 then sigmRound F .rne e4nan neg m e (Val.mul g x) else geluRound F e4nan neg m e g
        | _ => r (Val.mul g (.fin neg 1 0))

/-- RoundRNE(exp(d), FP64) for a value d (R279). -/
def exp64 (d : Val) : Val :=
  match d with
  | .nan => .nan
  | .inf neg => if neg then .fin false 0 0 else .inf false
  | .fin neg m e => fp64.val (expRound fp64 .rne false neg m e)

end Sys2Proof.Machine
end

