-- ==== Sys2Proof/Machine/Regions.lean ====
section
/-! DEFINITION. What a derived region keeps per row part by kind (R274-R280), updates, builds and rescans (R283, R284) and
row values (R281). -/

namespace Sys2Proof.Machine

/-- Bytes of a base element by BFMT (R272). -/
def bfmtBytes (f : Nat) : Nat := match f with | 2 | 5 => 4 | 3 | 4 => 1 | _ => 2

/-- Kinds whose value never depends on the order of updates (Table 13.2, R287). -/
def Region.exact (r : Region) : Bool :=
  match r.kind with
  | 0 => r.bfmt == 0 || r.bfmt == 3 || r.bfmt == 4 || r.bfmt == 5
  | 1 => r.bfmt == 3 || r.bfmt == 4
  | 6 => false
  | _ => true

/-- The row and column of the element at byte `rel` of the base, if it is one (R274). -/
def Region.elemAt (r : Region) (rel : Nat) : Option (Nat × Nat) :=
  let row := if r.rows ≤ 1 ∨ r.pitch = 0 then 0 else rel / r.pitch
  let col := (if r.rows ≤ 1 ∨ r.pitch = 0 then rel else rel % r.pitch) / bfmtBytes r.bfmt
  if row < r.rows ∧ col < r.cols then some (row, col) else none

/-- The part of a row that holds a column: parts are numbered by the 4 KiB pages the row spans. -/
def Region.partOf (r : Region) (row col : Nat) : Nat :=
  let start := r.base.toNat + row * r.pitch
  (start + col * bfmtBytes r.bfmt) / 4096 - start / 4096

/-- The key of a row part. -/
def partKey (row part : Nat) : Nat := row * 1048576 + part

/-- The virtual bytes of the base that system address `spa` holds: the base may map a page more than once. -/
def Region.vasOf (r : Region) (spa : Nat) : List Nat :=
  (r.bmap.filter fun e => e.2 = spa / 4096).map fun e => e.1 * 4096 + spa % 4096

/-! Elements (R274). -/

/-- The value of an element's bits by BFMT. -/
def elemVal (bfmt bits : Nat) : Val :=
  match bfmt with
  | 0 => fp16.val bits
  | 1 => bf16.val bits
  | 2 => fp32.val bits
  | 3 => fpE4M3.val bits
  | 4 => .ofInt (signedOf 8 bits)
  | _ => .ofInt (signedOf 32 bits)

/-- The canonical NaN of a base format. -/
def bfmtNan (bfmt : Nat) : Nat :=
  match bfmt with
  | 0 => fp16.nan | 1 => bf16.nan | 2 => fp32.nan | _ => fpE4M3.nan

/-- Whether a value is finite. -/
def Val.finite : Val → Bool
  | .fin _ _ _ => true
  | _ => false

/-- The bytes of a result row (Table 13.2). -/
def resultRowBytes (kind rfmt cols nbins : Nat) : Nat :=
  match kind with
  | 0 | 1 | 6 => (match rfmt with | 0 | 1 => 2 | 2 | 4 => 4 | _ => 8)
  | 2 | 3 => 8
  | 4 => nbins * 4
  | _ => cols / 32

def Region.rowBytes (r : Region) : Nat := resultRowBytes r.kind r.rfmt r.cols r.nbins

/-- Where a row of the base starts. -/
def Region.rowAt (r : Region) (row : Nat) : Nat := r.base.toNat + row * r.pitch

/-- The parts of a row: the 4 KiB pages it spans. -/
def Region.partCount (r : Region) (row : Nat) : Nat :=
  let a := r.rowAt row
  (a + r.cols * bfmtBytes r.bfmt - 1) / 4096 - a / 4096 + 1

/-- The columns of a part: the first, and one past the last. -/
def Region.partCols (r : Region) (row part : Nat) : Nat × Nat :=
  let a := r.rowAt row
  let page := (a / 4096 + part) * 4096
  let eb := bfmtBytes r.bfmt
  ((page - a) / eb, min r.cols ((page + 4096 - a) / eb))

/-- The system address of a virtual byte of a region's base or result, by the pages bound at its declaration. -/
def boundAddr (m : List (Nat × Nat)) (va : Nat) : Nat :=
  match m.find? fun e => e.1 = va / 4096 with
  | some e => e.2 * 4096 + va % 4096
  | none => 0

/-- The bits of an element at the point of the update sequence that a build or a rescan reads, which is behind every applied
update and ahead of every other (R284): the base bytes with what a rollback takes back and the queued and held updates undone
(log 66). -/
def Region.elemBits (r : Region) (s : State) (row col : Nat) : Nat :=
  let before := fun (u : DUpd) => if u.row = row then (u.elts.find? fun e => e.1 = col).map fun e => e.2.1 else none
  let taken := (r.redo.find? fun e => decide (e.1 = row) && decide (e.2.1 = col)).map fun e => e.2.2
  match taken.or ((r.queue ++ r.held).findSome? before) with
  | some b => b.toNat
  | none =>
    leNat (Mem.read s.mem (boundAddr r.bmap (r.rowAt row + col * bfmtBytes r.bfmt)) (bfmtBytes r.bfmt))

/-! Sums (R276, R277). -/

/-- The exponent a sum starts at: the quantum of an exact sum, XINIT of an inexact one. -/
def xInit (kind bfmt : Nat) : Int :=
  match kind, bfmt with
  | 0, 0 => -24 | 0, 1 => -133 | 0, 2 => -149 | 0, 3 => -9
  | 1, 0 => -48 | 1, 1 => -266 | 1, 2 => -298 | 1, 3 => -18
  | 6, _ => -1074
  | _, _ => 0

/-- Align (R198): a finite value in units of 2^x, truncated toward minus infinity, and whether bits were discarded. -/
def alignVal (v : Val) (x : Int) : Int × Bool :=
  match v with
  | .fin neg m e =>
    let k : Int := if neg then -(m : Int) else m
    if x ≤ e then (k * 2 ^ (e - x).toNat, false)
    else (k / 2 ^ (x - e).toNat, k % 2 ^ (x - e).toNat != 0)
  | _ => (0, false)

/-- Whether an integer lies in the range of 64 bits. -/
def in64 (t : Int) : Bool := decide (-(2 ^ 63) ≤ t) && decide (t ≤ 2 ^ 63 - 1)

/-- The least shift from `d` on that makes an update fit, over `fuel` tries. -/
def leastShift (m x : Int) (uo un : Val) (d : Nat) : Nat → Nat
  | 0 => d
  | fuel + 1 =>
    if in64 (roundShift m d - (alignVal uo (x + d)).1 + (alignVal un (x + d)).1) then d
    else leastShift m x uo un (d + 1) fuel

/-- Update (R277): the pair after a contribution is replaced, and the alignments and shifts that discarded bits. -/
def bfpUpdate (m x : Int) (uo un : Val) : (Int × Int) × Nat :=
  let t := m - (alignVal uo x).1 + (alignVal un x).1
  let d := if in64 t then 0 else leastShift m x uo un 1 2400
  let lost := if d = 0 then 0 else if m % 2 ^ d = 0 then 0 else 1
  let m := roundShift m d
  let x := x + d
  let ao := alignVal uo x
  let an := alignVal un x
  ((m - ao.1 + an.1, x), lost + (if ao.2 || an.2 then 1 else 0))

/-! Extremes (R278). -/

/-- Whether a value is beyond another: greater for MAX, less for MIN, the zeros ordered. -/
def beyond (max : Bool) (a b : Val) : Bool :=
  let lt (x y : Val) : Bool := Val.lt x y || (match x, y with
    | .fin true 0 _, .fin false 0 _ => true
    | _, _ => false)
  if max then lt b a else lt a b

/-- The extreme after element `c` goes from old bits to new, and whether it was withdrawn. -/
def extUpdate (max : Bool) (bfmt : Nat) (ext : Option (Nat × BitVec 32)) (c : Nat) (new : BitVec 32) :
    Option (Nat × BitVec 32) × Bool :=
  let v := elemVal bfmt new.toNat
  match ext with
  | none => if v = .nan then (none, false) else (some (c, new), false)
  | some (pos, b) =>
    let e := elemVal bfmt b.toNat
    if v = .nan then (ext, decide (c = pos))
    else if beyond max v e ∨ (!beyond max e v ∧ c < pos) then (some (c, new), false)
    else (ext, decide (c = pos) && beyond max e v)

/-! Histograms and block scales (R280). -/

/-- The bin of a value that is not NaN. -/
def binOf (hlo hwidth : Word) (nbins : Nat) (v : Val) : Nat :=
  match v with
  | .inf neg => if neg then 0 else nbins - 1
  | _ =>
    match Val.add .rne v (fp64.val hlo.toNat).neg, fp64.val hwidth.toNat with
    | .fin neg m e, .fin _ wm we =>
      let k : Int := if neg then -(m : Int) else m
      let q := if we ≤ e then k * 2 ^ (e - we).toNat / (wm : Int) else k / ((wm : Int) * 2 ^ (we - e).toNat)
      (max 0 (min ((nbins : Int) - 1) q)).toNat
    | _, _ => 0

/-- One entry of a list changed. -/
def modAt {α : Type} (l : List α) (i : Nat) (f : α → α) : List α := l.mapIdx fun j x => if j = i then f x else x

/-- The magnitude bits of an element: its bits without the sign. -/
def magBits (bfmt bits : Nat) : Nat := bits % 2 ^ (8 * bfmtBytes bfmt - 1)

/-! One element change (R275-R280). -/

/-- The counts of special elements with one element added or withdrawn. -/
def Part.count (p : Part) (v : Val) (add : Bool) : Part :=
  let f (n : Nat) : Nat := if add then n + 1 else n - 1
  match v with
  | .nan => { p with nans := f p.nans }
  | .inf true => { p with ninf := f p.ninf }
  | .inf false => { p with pinf := f p.pinf }
  | .fin _ _ _ => p

/-- The contribution of an element to a sum kind: none for a special value. -/
def contrib (kind : Nat) (v : Val) : Val :=
  if v.finite then (if kind = 1 then Val.mul v v else v) else .fin false 0 0

/-- e(x) of EXPSUM under a maximum (R279). -/
def expContrib (bfmt : Nat) (ext : Option (Nat × BitVec 32)) (v : Val) : Val :=
  match ext with
  | some (_, b) => if v.finite then exp64 (Val.add .rne v (elemVal bfmt b.toNat).neg) else .fin false 0 0
  | none => .fin false 0 0

/-- M rescaled when the maximum rises: Floor(M * rho), and whether a fraction was discarded. -/
def rescale (m : Int) (rho : Val) : Int × Bool :=
  match rho with
  | .fin _ k e =>
    let t := m * k
    if 0 ≤ e then (t * 2 ^ e.toNat, false) else (t / 2 ^ (-e).toNat, t % 2 ^ (-e).toNat != 0)
  | _ => (0, false)

/-- One element of a part changed from `old` (none while the part is built) to `new`; the second component counts
drift. -/
def Part.change (p : Part) (r : Region) (c0 col : Nat) (old : Option (BitVec 32)) (new : BitVec 32) : Part × Nat :=
  let vn := elemVal r.bfmt new.toNat
  let vo := old.map fun b => elemVal r.bfmt b.toNat
  let p := match vo with | some v => p.count v false | none => p
  let p := p.count vn true
  match r.kind with
  | 0 | 1 =>
    let uo := match vo with | some v => contrib r.kind v | none => .fin false 0 0
    let un := contrib r.kind vn
    if r.exact then ({ p with n := p.n - (alignVal uo p.x).1 + (alignVal un p.x).1 }, 0)
    else
      let u := bfpUpdate p.n p.x uo un
      ({ p with n := u.1.1, x := u.1.2 }, u.2)
  | 2 | 3 =>
    let e := extUpdate (r.kind == 2) r.bfmt p.ext col new
    ({ p with ext := e.1, stale := p.stale || e.2 }, 0)
  | 4 =>
    let bins := match vo with
      | some .nan => p.bins
      | some v => modAt p.bins (binOf r.hlo r.hwidth r.nbins v) fun n => (n + 2 ^ 32 - 1) % 2 ^ 32
      | none => p.bins
    let bins := if vn = .nan then bins else modAt bins (binOf r.hlo r.hwidth r.nbins vn) fun n => (n + 1) % 2 ^ 32
    ({ p with bins := bins }, 0)
  | 5 =>
    let k := (col - c0) / 32
    let b := p.blocks.getD k (0, 0)
    let sp (v : Val) : Nat := if v.finite then 0 else 1
    let specials := b.2 - (match vo with | some v => sp v | none => 0) + sp vn
    let mn := if vn.finite then magBits r.bfmt new.toNat else 0
    let withdrawn := match old, vo with
      | some o, some v => v.finite && magBits r.bfmt o.toNat == b.1 && decide (mn < b.1)
      | _, _ => false
    ({ p with blocks := modAt p.blocks k fun _ => (max b.1 mn, specials), stale := p.stale || withdrawn }, 0)
  | _ =>
    let e := extUpdate true r.bfmt p.ext col new
    if e.2 then ({ p with stale := true }, 0)
    else
      let raised := match p.ext, e.1 with
        | some (_, a), some (_, b) => beyond true (elemVal r.bfmt b.toNat) (elemVal r.bfmt a.toNat)
        | _, _ => false
      let rs : Int × Bool :=
        if raised then
          match p.ext, e.1 with
          | some (_, a), some (_, b) =>
            rescale p.n (exp64 (Val.add .rne (elemVal r.bfmt a.toNat) (elemVal r.bfmt b.toNat).neg))
          | _, _ => (p.n, false)
        else (p.n, false)
      let uo := match vo with | some v => expContrib r.bfmt e.1 v | none => .fin false 0 0
      let u := bfpUpdate rs.1 p.x uo (expContrib r.bfmt e.1 vn)
      ({ p with ext := e.1, n := u.1.1, x := u.1.2 }, u.2 + (if rs.2 then 1 else 0))

/-- A part at the start of a build (R284). -/
def Region.freshPart (r : Region) (row part : Nat) : Part :=
  let c := r.partCols row part
  { built := false, n := 0, x := xInit r.kind r.bfmt,
    bins := if r.kind = 4 then List.replicate r.nbins 0 else [],
    blocks := if r.kind = 5 then List.replicate ((c.2 - c.1) / 32) (0, 0) else [] }

/-- A part read from the base in element order, and the drift it counts (R284). -/
def Region.readPart (r : Region) (s : State) (row part : Nat) : Part × Nat :=
  let c := r.partCols row part
  (List.range (c.2 - c.1)).foldl (fun a i =>
    let col := c.1 + i
    let b := a.1.change r c.1 col none (BitVec.ofNat 32 (r.elemBits s row col))
    (b.1, a.2 + b.2)) ({ r.freshPart row part with built := true }, 0)

/-! Row values (R281). -/

/-- The parts of a row, in increasing element index. -/
def Region.rowParts (r : Region) (row : Nat) : List Part :=
  (List.range (r.partCount row)).map fun k => Tbl.getD r.parts (partKey row k) {}

/-- Whether a row can be read: every part built and not stale. -/
def Region.rowReady (r : Region) (row : Nat) : Bool := (r.rowParts row).all fun p => p.built && !p.stale

/-- The exact sum of terms M * 2^X, as a value; a zero sum is +0. -/
def sumVal (ts : List (Int × Int)) : Val :=
  let q : Int := ts.foldl (fun a t => min a t.2) 0
  let k : Int := ts.foldl (fun a t => a + t.1 * 2 ^ (t.2 - q).toNat) 0
  .fin (decide (k < 0)) k.natAbs q

/-- A value rounded once into a result format. -/
def rfmtBits (rfmt : Nat) (v : Val) : Nat :=
  match rfmt with
  | 0 => fp16.round .rne false v
  | 1 => bf16.round .rne false v
  | 2 => fp32.round .rne false v
  | 3 => fp64.round .rne false v
  | _ =>
    match v with
    | .fin neg m e =>
      let k := roundInt .rne neg m e
      if rfmt = 4 then satBits 32 k else if in64 k then wrapBits 64 k else (Config.int64Over k).toNat
    | _ => 0

/-- The extreme over the parts of a row; ties to the part that comes first. -/
def rowExt (max : Bool) (bfmt : Nat) (ps : List Part) : Option (Nat × BitVec 32) :=
  ps.foldl (fun a p =>
    match a, p.ext with
    | none, e => e
    | some x, none => some x
    | some x, some y => if beyond max (elemVal bfmt y.2.toNat) (elemVal bfmt x.2.toNat) then some y else some x) none

/-- The result row's bytes (R281, Table 13.2). -/
def Region.rowValue (r : Region) (row : Nat) : List Byte :=
  let ps := r.rowParts row
  let nans := (ps.map Part.nans).sum
  let pinf := (ps.map Part.pinf).sum
  let ninf := (ps.map Part.ninf).sum
  let elt (v : Val) : List Byte := leBytes r.rowBytes (rfmtBits r.rfmt v)
  match r.kind with
  | 0 =>
    elt (if nans ≠ 0 ∨ (pinf ≠ 0 ∧ ninf ≠ 0) then .nan else if pinf ≠ 0 then .inf false else if ninf ≠ 0 then .inf true
      else sumVal (ps.map fun p => (p.n, p.x)))
  | 1 =>
    elt (if nans ≠ 0 then .nan else if pinf ≠ 0 ∨ ninf ≠ 0 then .inf false else sumVal (ps.map fun p => (p.n, p.x)))
  | 2 | 3 =>
    match rowExt (r.kind == 2) r.bfmt ps with
    | some (c, b) => leBytes 4 b.toNat ++ leBytes 4 c
    | none => leBytes 4 (bfmtNan r.bfmt) ++ leBytes 4 0xFFFFFFFF
  | 4 => (List.range r.nbins).flatMap fun k => leBytes 4 ((ps.map fun p => p.bins.getD k 0).sum % 2 ^ 32)
  | 5 =>
    ps.flatMap fun p => p.blocks.map fun b =>
      BitVec.ofNat 8 (if b.2 ≠ 0 then 0xFF else blockScale [elemVal r.bfmt b.1])
  | _ =>
    if nans ≠ 0 ∨ pinf ≠ 0 then elt .nan
    else
      match rowExt true r.bfmt ps with
      | none => elt (.fin false 0 0)
      | some (_, mb) =>
        let m := elemVal r.bfmt mb.toNat
        elt (sumVal (ps.map fun p =>
          match p.ext with
          | some (_, b) =>
            match exp64 (Val.add .rne (elemVal r.bfmt b.toNat) m.neg) with
            | .fin _ k e => (p.n * k, p.x + e)
            | _ => (0, 0)
          | none => (0, 0)))

/-! The unit's steps. -/

/-- A region after one part changed: drift counted, and the row's result write due when its value changed. -/
def Region.withPart (r : Region) (row part : Nat) (p : Part) (drift : Nat) : Region :=
  let r' := { r with parts := Tbl.set r.parts (partKey row part) p,
                     drift := if drift = 0 then r.drift else Tbl.set r.drift row (min (Tbl.getD r.drift row 0 + drift) (2 ^ 24 - 1)) }
  if r'.rowReady row ∧ !r.dirty.contains row ∧ (!r.rowReady row ∨ r'.rowValue row ≠ r.rowValue row) then
    { r' with dirty := r.dirty ++ [row] }
  else r'

/-- The parties whose updates await a row's result write, with the cycle of the earliest of each (R293). -/
def Region.await (r : Region) (row : Nat) (h : Holder) (c : Nat) : Region :=
  if (!r.dirty.contains row && r.rowReady row) || r.reflects.any (fun e => decide (e.1 = row) && e.2.1 == h) then r
  else { r with reflects := r.reflects ++ [(row, h, c)] }

/-- One update applied to its row part, its elements in their order (R283). -/
def Region.applyUpd (r : Region) (u : DUpd) : Region :=
  let c := u.elts.foldl (fun a e =>
    let b := a.1.change r (r.partCols u.row u.part).1 e.1 (some e.2.1) e.2.2
    (b.1, a.2 + b.2)) (Tbl.getD r.parts (partKey u.row u.part) {}, 0)
  (r.withPart u.row u.part c.1 c.2).await u.row u.party u.at_

/-- Whether an update's part can take it: built and not stale. -/
def Region.canTake (r : Region) (u : DUpd) : Bool :=
  let p := Tbl.getD r.parts (partKey u.row u.part) {}
  p.built && !p.stale

/-- A part built or rescanned at the point of its update sequence that it has come to: the updates that wait for it are applied
afterward, one by one, so that each that withdraws an extreme or a block's maximum makes it stale anew (R278, R280, R284)
(log 66). -/
def Region.rebuildPart (r : Region) (s : State) (row part : Nat) : Region :=
  let x := r.readPart s row part
  r.withPart row part x.1 x.2

/-- A region becomes ACTIVE once every part is built (R291). -/
def Region.settle (r : Region) : Region :=
  if r.building ∧ r.parts.all (fun e => e.2.built) then { r with building := false } else r

/-- A part that is not ready built, or rescanned, which the region's rescan count takes in (R284, R291). -/
def Region.mend (r : Region) (s : State) (row part : Nat) : Region :=
  if (Tbl.getD r.parts (partKey row part) {}).built then
    { r.rebuildPart s row part with rescans := (r.rescans + 1) % 65536 }
  else (r.rebuildPart s row part).settle

/-- A queued update applied, its part built or rescanned first where it must be. -/
def Region.takeUpd (r : Region) (s : State) (u : DUpd) : Region :=
  let r := if r.canTake u then r else r.mend s u.row u.part
  { r with queue := r.queue.erase u }.applyUpd u

/-- Every queued update applied in order. -/
def Region.takeAll (r : Region) (s : State) : Region := r.queue.foldl (fun r u => r.takeUpd s u) r

end Sys2Proof.Machine
end

