-- ==== Sys2Proof/Machine/Home.lean ====
section
/-! DEFINITION. Homes and caches (R159, R160): where a system address lies (R242), how an issued store waits and is
performed at its home (R162, R164), how a home passes a store to its derived unit (R283), and what a plot's data cache
serves. The model keeps issued stores in `State.pend` (log 8): a store is performed at plot scope when it issues, since
the plot's own loads see it, and at every wider scope when it leaves the list. -/

namespace Sys2Proof.Machine

/-- Whether the reproducible flag of a launch is set (R300 FLAGS[1]). -/
def State.isRepro (s : State) (lnch : Option Nat) : Bool :=
  match lnch with
  | some i => bitAt (fieldAt (s.slot i).record 4 4) 1
  | none => false

/-- Whether the rollback flag of a launch is set (R300 FLAGS[3]). -/
def State.isRollback (s : State) (lnch : Option Nat) : Bool :=
  match lnch with
  | some i => bitAt (fieldAt (s.slot i).record 4 4) 3
  | none => false

/-- The command of a drain of a handle under way, if the party is one (R287). -/
def State.drainCmd (s : State) (h : Holder) : Option Cmd :=
  match h with
  | .fill q t => (s.plot q).inflight.find? fun c => match c.k with | .tdrain t' _ => t' == t | _ => false
  | _ => none

/-- The key that orders the held updates of a party within a batch, and within one thread's drains their order of issue
(R287). -/
def State.holdKey (s : State) (h : Holder) : Nat × Nat :=
  match h with
  | .thread t => (t % 8192, 0)
  | .port q n => (5120 + q * 16 + n, 0)
  | .chan c => (15360 + c, 0)
  | _ => match s.drainCmd h with | some c => (c.tid % 8192, c.id) | none => (0, 0)

/-- The elements of a region that `n` bytes at a system address touch, each with its byte offset from that address, in element
order (R274). -/
def Region.touched (r : Region) (spa n : Nat) : List (Nat × Nat × Int) :=
  let eb := bfmtBytes r.bfmt
  let rels := (r.vasOf spa).filterMap fun va => if r.base.toNat ≤ va then some (va - r.base.toNat) else none
  rels.flatMap fun rel =>
    (List.range n).filterMap fun i =>
      if (rel + i) % eb = 0 ∨ i = 0 then
        let at_ := (rel + i) / eb * eb
        (r.elemAt at_).map fun rc => (rc.1, rc.2, (at_ : Int) - rel)
      else none

/-- An element change added to the updates of one store: to the update of its row part, or as a new one. -/
def addElt (mk : DUpd) (ups : List DUpd) (row part : Nat) (e : Nat × BitVec 32 × BitVec 32) : List DUpd :=
  if ups.any fun u => decide (u.row = row) && decide (u.part = part) then
    ups.map fun u => if u.row = row ∧ u.part = part then { u with elts := u.elts ++ [e] } else u
  else ups ++ [{ mk with row := row, part := part, elts := [e], lead := ups.isEmpty }]

/-- The bits an element had before a store took it from `now`: those before the first store that a rollback takes back (R383). -/
def Region.oldBits (r : Region) (row col : Nat) (now : BitVec 32) : BitVec 32 :=
  match r.redo.find? fun e => decide (e.1 = row) && decide (e.2.1 = col) with
  | some e => e.2.2
  | none => now

/-- Queue the updates that a store of `bytes` over `old` makes to one region: one for each row part it touches (R283). A store
performed as it issues is numbered as the next store would be. -/
def Region.enqueue (r : Region) (s : State) (p : Pend) (old : List Byte) : Region :=
  let eb := bfmtBytes r.bfmt
  let value (bs : List Byte) (d : Int) : BitVec 32 :=
    BitVec.ofNat 32 (leNat ((List.range eb).map fun (j : Nat) =>
      let i : Int := d + (j : Int)
      if 0 ≤ i ∧ i < bs.length then bs.getD i.toNat 0 else Mem.get s.mem ((p.spa : Int) + i).toNat))
  let held := !r.exact && s.isRepro p.lnch
  let mk : DUpd := { row := 0, part := 0, elts := [], pend := if p.id = 0 then s.nextId else p.id, party := p.party,
                     gran := p.spa / 4096, held := if held then some (s.holdKey p.party) else none, lnch := p.lnch, at_ := s.cycle,
                     issued := if p.id = 0 then s.cycle else p.at_ }
  let hit := r.touched p.spa p.bytes.length
  let ups := hit.foldl
    (fun l e => addElt mk l e.1 (r.partOf e.1 e.2.1) (e.2.1, r.oldBits e.1 e.2.1 (value old e.2.2), value p.bytes e.2.2)) []
  let r := { r with redo := r.redo.filter fun e => !hit.any fun h => decide (h.1 = e.1) && decide (h.2.1 = e.2.1) }
  if held then { r with held := r.held ++ ups } else { r with queue := r.queue ++ ups }

/-- Whether the byte at a system address belongs to an element that the region tracks. -/
def Region.tracks (r : Region) (spa : Nat) : Bool :=
  (r.vasOf spa).any fun va => decide (r.base.toNat ≤ va) && (r.elemAt (va - r.base.toNat)).isSome

/-- Updates that the derived unit of a home slice has queued. -/
def State.unitQueue (s : State) (slice : Nat) : Nat :=
  (s.regions.map fun r => (r.2.queue.filter fun u => u.lead && homeSlice (u.gran * 4096) == slice).length).sum

/-- Whether the store's line is tracked and its derived unit has no room: the unit queues 1,024 updates (R283) (log 65). -/
def State.derivedFull (s : State) (p : Pend) : Bool :=
  decide (1024 ≤ s.unitQueue (homeSlice p.spa)) && s.regions.any fun r =>
    decide (r.2.tenant = p.tenant) && (List.range 64).any fun i => r.2.tracks (lineOf p.spa * 64 + i)

/-- The first update of a unit that stands in a region's queue applied, its part built or rescanned first where it must be. -/
def Region.serve (r : Region) (s : State) (slice : Nat) : Region :=
  match r.queue.find? fun u => homeSlice (u.gran * 4096) == slice with
  | none => r
  | some u => r.takeUpd s u

/-- A store that a full derived unit holds back waits until the unit has taken an update of each region it serves (R283)
(log 65). -/
def makeRoom (s : State) (p : Pend) : State :=
  if s.derivedFull p then { s with regions := Tbl.mapVals (fun _ r => r.serve s (homeSlice p.spa)) s.regions } else s

/-- A store performed at its home: its bytes are written and every region of its tenant that tracks them gets its
updates (R159, R283); a line the host holds is taken back first (R260). -/
def performStore (s : State) (p : Pend) : State :=
  let s := makeRoom s p
  let old := Mem.read s.mem p.spa p.bytes.length
  let regions := Tbl.mapVals (fun _ r => if r.tenant = p.tenant then r.enqueue s p old else r) s.regions
  { s with mem := Mem.write s.mem p.spa p.bytes, regions := regions,
           hostHeld := s.hostHeld.filter fun l => !touches p.spa p.bytes.length l }

/-- Whether two byte ranges overlap. -/
def overlaps (a n b m : Nat) : Bool := decide (a < b + m) && decide (b < a + n)

/-- Where a party's translations are cached (R253). -/
def xlatHolder : Holder → Holder
  | .thread t => .core (t / 8)
  | h => h

/-- The page a store of a party is bound under (R253): that of the cached translation it left by, else its own bytes. -/
def State.boundPage (s : State) (party : Holder) (tenant asid va n : Nat) : Nat × Nat :=
  match s.xlats.find? fun x => x.holder == xlatHolder party && x.tenant == tenant && x.asid == asid &&
      decide (x.page ≤ va) && decide (va < x.page + x.size) with
  | some x => (x.page, x.size)
  | none => (va, n)

/-- A flit sent over the links (R385). -/
def sendFlit (s : State) (f : Flit) : State := { s with flits := s.flits ++ [f] }

/-- A store issued (R162): it waits to be performed, and leaves over the links if it is homed in another package (R385). -/
def issueStore (s : State) (party : Holder) (tenant asid : Nat) (va : Word) (spa : Nat) (bytes : List Byte)
    (lnch : Option Nat) : State :=
  let b := s.boundPage party tenant asid va.toNat bytes.length
  let s := if s.isLocal spa then s else sendFlit s (.store s.nextId spa bytes)
  { s with pend := s.pend ++ [{ id := s.nextId, party := party, tenant := tenant, asid := asid, va := va, spa := spa,
                                bytes := bytes, lnch := lnch, at_ := s.cycle, page := b.1, psize := b.2 }],
           nextId := s.nextId + 1 }

/-- Bytes that the device itself stores for a tenant: records, completions, tokens, images. Lines the host holds are taken
back first (R260); bytes homed in another package leave as a store (R242). -/
def putMem (s : State) (spa : Nat) (bytes : List Byte) : State :=
  if s.isLocal spa then
    { s with mem := Mem.write s.mem spa bytes, hostHeld := s.hostHeld.filter fun l => !touches spa bytes.length l }
  else issueStore s (.walkers 3) 64 0 0 spa bytes none

/-- The plot at which a party's stores are performed at plot scope as they issue (R161, R162); a thread that has left its context
is numbered above its own number. -/
def plotOfParty : Holder → Option Nat
  | .thread t => some (t % 8192 / 8)
  | .core p | .port p _ | .fill p _ | .slice p _ _ => some p
  | _ => none

/-- Whether two issued stores are ordered by their plot or their party, so that the later does not pass the earlier
(R164). -/
def Pend.ordered (p q : Pend) : Bool :=
  (p.party == q.party || ((plotOfParty p.party).isSome && plotOfParty p.party == plotOfParty q.party)) &&
  overlaps p.spa p.bytes.length q.spa q.bytes.length

/-- The issued stores that satisfy `f`, with the earlier ones they must follow. -/
def drainSet (l : List Pend) (f : Pend → Bool) : List Pend :=
  l.foldr (fun p acc => if f p || acc.any (fun q => p.ordered q) then p :: acc else acc) []

/-- Every issued store that satisfies `f`, and those they must follow, performed in issue order. -/
def performIf (s : State) (f : Pend → Bool) : State :=
  let set := drainSet s.pend f
  set.foldl performStore { s with pend := s.pend.filter fun p => !set.contains p }

/-- Those of them that are homed here; one homed in another package is performed there, and leaves the list with its
acknowledgement (R385). -/
def drainIf (s : State) (f : Pend → Bool) : State := performIf s fun p => f p && s.isLocal p.spa

/-- Every issued store of a party that is homed here performed. -/
def drainParty (s : State) (h : Holder) : State := drainIf s fun p => p.party == h

/-- One issued store performed, unless an earlier one that it must follow is not (R164 rule 3), or the derived unit of
its home holds it back (R283) (log 65). -/
def performId (s : State) (id : Nat) : State :=
  match s.pend.find? fun p => p.id = id with
  | none => s
  | some p =>
    if (s.pend.any fun q => decide (q.id < id) && q.ordered p) || s.derivedFull p then s else performIf s fun q => q.id = id

/-- Whether the issued store with an id has been performed (R133). -/
def State.performed (s : State) (id : Nat) : Bool := !(s.pend.any fun p => p.id = id)

/-- Whether an issued store was issued within a plot. -/
def Pend.ofPlot (p : Pend) (plot : Nat) : Bool := plotOfParty p.party == some plot

/-- Bytes with those of a later store laid over them. -/
def overlay (spa : Nat) (bs : List Byte) (p : Pend) : List Byte :=
  (List.range bs.length).map fun i =>
    let a := spa + i
    if p.spa ≤ a ∧ a < p.spa + p.bytes.length then p.bytes.getD (a - p.spa) 0 else bs.getD i 0

/-- Memory as a plot's own threads and units see it: the home's bytes under the stores issued within the plot (R164). -/
def State.plotView (s : State) (plot spa n : Nat) : List Byte :=
  (s.pend.filter fun p => p.ofPlot plot).foldl (overlay spa) (Mem.read s.mem spa n)

/-- Memory as a party sees it: under the stores issued within its plot, otherwise under its own. -/
def viewOf (s : State) (h : Holder) (spa n : Nat) : List Byte :=
  match plotOfParty h with
  | some p => s.plotView p spa n
  | none => (s.pend.filter fun p => p.party == h).foldl (overlay spa) (Mem.read s.mem spa n)

/-! The data cache (R160). -/

/-- Lines the cache holds: 32 KiB of 64 bytes (log 60). -/
def dcacheLines : Nat := 512

/-- The plot's cache without one line. -/
def dropLine (s : State) (plot spa : Nat) : State :=
  s.setPlot plot { s.plot plot with dcache := (s.plot plot).dcache.filter fun l => l.line ≠ lineOf spa }

/-- The plot's cache emptied, as an acquire at die scope or wider does. -/
def dropCache (s : State) (plot : Nat) : State := s.setPlot plot { s.plot plot with dcache := [] }

/-- A plain load by a plot's control core: a cached line may serve it; otherwise the line is filled. A line older than
4,096 cycles serves nothing (log 60). -/
def coreLoad (s : State) (plot spa n : Nat) : List Byte × State :=
  if s.hostSide spa then (s.plotView plot spa n, dropLine s plot spa)
  else
    match (s.plot plot).dcache.find? fun l => decide (l.line = lineOf spa) && decide (s.cycle ≤ l.fill + 4096) with
    | some l => ((l.bytes.drop (spa % 64)).take n, s)
    | none =>
      let l : DLine := { line := lineOf spa, fill := s.cycle, bytes := s.plotView plot (lineOf spa * 64) 64 }
      let rest := (s.plot plot).dcache.filter fun x => x.line ≠ lineOf spa
      ((l.bytes.drop (spa % 64)).take n,
       s.setPlot plot { s.plot plot with dcache := (l :: rest).take dcacheLines })

/-- A load that the cache never serves; it invalidates the line it touches. -/
def coreLoadHome (s : State) (plot spa n : Nat) : List Byte × State :=
  (s.plotView plot spa n, dropLine s plot spa)

/-- A plain store by a thread: any cached copy is updated and the store is sent to the home. -/
def coreStore (s : State) (tid spa : Nat) (va : Word) (bytes : List Byte) : State :=
  let plot := tid / 8
  let c := s.thread tid
  let p : Pend := { id := 0, party := .thread tid, tenant := 0, asid := 0, va := va, spa := spa, bytes := bytes }
  let lines := (s.plot plot).dcache.map fun l =>
    if l.line = lineOf spa then { l with bytes := overlay (l.line * 64) l.bytes p } else l
  issueStore (s.setPlot plot { s.plot plot with dcache := lines }) (.thread tid) (c.tenant.getD 64) c.asid va spa bytes
    (some c.lnch)

/-- The stores of other parties of a thread's plot whose bytes one of its loads has returned: they precede that load, and so
what follows the thread's next release (R166). -/
def noteSeen (s : State) (tid spa n : Nat) : State :=
  let new := (s.pend.filter fun p => p.ofPlot (tid / 8) && p.party != .thread tid && overlaps p.spa p.bytes.length spa n &&
    !s.seen.contains (tid, p.id)).map fun p => (tid, p.id)
  if new.isEmpty then s else { s with seen := (s.seen.filter fun e => !s.performed e.2) ++ new }

/-- The stores that a release by a thread performs: its own, and those its loads have returned. -/
def State.precedes (s : State) (tid : Nat) (p : Pend) : Bool := p.party == .thread tid || s.seen.contains (tid, p.id)

/-- A release by a thread: the earlier stores homed here are performed at every scope (R162, R177; log 8). -/
def releaseThread (s : State) (tid : Nat) : State := drainIf s (s.precedes tid)

/-- The party a lodge core or an assist context is to the links and to the homes (log 76). -/
def rawParty : Agent → Holder
  | .lodge k => .walkers (4 + k)
  | .assist p => .walkers (8 + p)
  | .thread t => .thread t

/-- A release by the issuing context. Stores of a lodge core and an assist context to memory homed here are performed as they
issue. -/
def release (s : State) : State :=
  match s.cur with
  | .thread t => releaseThread s t
  | a => drainParty s (rawParty a)

/-- Whether stores that precede a release by the issuing context are still to be acknowledged by other packages, which a fence
or a release at domain or system scope waits for (R385). -/
def State.unacked (s : State) : Bool :=
  s.pend.any fun p => !s.isLocal p.spa && (match s.cur with | .thread t => s.precedes t p | a => p.party == rawParty a)

/-- An acquire by a thread: the batches of derived updates applied, and the updates queued, by then are ordered before what it reads
afterward (R286, R287) (log 91). -/
def noteAcquire (s : State) : State :=
  match s.cur with | .thread t => { s with knows := Tbl.set s.knows t s.cycle } | _ => s

/-- An acquire at die scope or wider by the issuing context (R160, R177). -/
def acquire (s : State) : State := match s.cur with | .thread t => noteAcquire (dropCache s (t / 8)) | _ => s

end Sys2Proof.Machine
end

