-- ==== Sys2Proof/Machine/Records.lean ====
section
/-! DEFINITION. Records the device writes for software: interrupts (R355), the fault queue (R356, R357), completion
rings (R303, R318) and repair records (R381). -/

namespace Sys2Proof.Machine

/-- The SEQ of the i-th record of a sequence, i from 1: 1, 2, ... wrapping past 0xFFFFFFFF to 1 (R251, R303, R356). -/
def seqOf (i : Nat) : Nat := (i - 1) % 4294967295 + 1

/-- A tenant's event source raises its vector, when it is bound to one (R355, Table 19.2): one more interrupt sent to the host,
in the order of the events. -/
def raiseIrq (s : State) (v src : Nat) : State :=
  let t := s.tenant v
  let w := (Tbl.getD t.irq src 0).toNat
  if bitAt w 7 then
    s.setTenant v { t with raised := t.raised ++ [bitsAt w 0 6] }
  else s

/-- Whether `n` bytes at a partition-relative address can be written: below PLIMIT, mapping memory (log 73). -/
def praOk (t : Tenant) (pra n : Nat) : Bool :=
  decide (pra + n ≤ t.plimit) && mapsMemory (t.pbase + pra) && mapsMemory (t.pbase + pra + n - 1)

/-- A record lost (R357): FQLOST increases, saturating, and the interrupt is raised. -/
def loseRecord (s : State) (v : Nat) : State :=
  let t := s.tenant v
  raiseIrq (s.setTenant v { t with fqlost := min (t.fqlost + 1) 4294967295 }) v 64

/-- The cause of a launch's first record (R303), one that its dispatch writes among them. -/
def noteCause (s : State) (recidx cause : Nat) : State :=
  if recidx < 16384 then
    let l := s.slot recidx
    if (l.st = .running ∨ l.st = .queued) ∧ l.first = 0 then s.setSlot recidx { l with first := cause } else s
  else s

/-- A record placed in a tenant's fault queue (R356, R357). -/
def faultRecord (s : State) (v cause src recidx unit_ : Nat) (einfo faddr : Word) : State :=
  let s := noteCause s recidx cause
  if 64 ≤ v then s
  else
    let t := s.tenant v
    let n := 2 ^ (8 + (t.fqbase.toNat % 8))
    let base := bitsAt t.fqbase.toNat 12 36 * 4096
    let i := t.fqcount + 1
    let pra := base + 32 * ((i - 1) % n)
    if t.fqbase = 0 ∨ n ≤ t.fqcount - t.fqacked ∨ !praOk t pra 32 then loseRecord s v
    else
      let bytes := leBytes 4 (seqOf i) ++ leBytes 1 cause ++ leBytes 1 src ++ leBytes 2 recidx ++ leBytes 2 unit_ ++
        leBytes 6 0 ++ leBytes 8 einfo.toNat ++ leBytes 8 faddr.toNat
      raiseIrq (putMem (s.setTenant v { t with fqcount := i }) (t.pbase + pra) bytes) v 64

/-- FQTAKE := SEQ of the last record consumed (R357). -/
def fqTake (s : State) (v : Nat) (w : Word) : State :=
  let t := s.tenant v
  let seq := w.toNat % 4294967296
  let back := (seqOf t.fqcount + 4294967295 - seq) % 4294967295
  let acked := if seq ≠ 0 ∧ back ≤ t.fqcount - t.fqacked then t.fqcount - back else t.fqacked
  s.setTenant v { t with fqtake := BitVec.ofNat 64 seq, fqacked := acked }

/-- A 32-byte completion record (R303, Table 15.3). -/
def completionBytes (c : Completion) (seq : Nat) : List Byte :=
  leBytes 4 seq ++ leBytes 1 c.status ++ leBytes 1 c.cause ++ leBytes 2 c.slot ++ leBytes 2 c.queue ++ leBytes 6 0 ++
    leBytes 8 c.tag.toNat ++ leBytes 8 c.ns

/-- Whether a ring has room for one more record after its TAKE (R303, R373). -/
def CRing.room (r : CRing) : Bool := decide (r.posted - r.taken < 2 ^ r.elog)

/-- The slot of a posted completion: DONE, then IDLE once posted (R300). -/
def freeSlot (s : State) (c : Completion) : State :=
  if c.frees then
    let l := s.slot c.slot
    s.setSlot c.slot { l with st := .idle, comp := none, threads := [], cause := c.cause, wdLeft := none }
  else s

/-- A completion written to its ring, whatever holds there are (R303, R318). A ring that does not exist takes no
record (R297, R301), and no byte beyond PLIMIT is written. -/
def writeCompletion (s : State) (c : Completion) : State :=
  let r := s.cring c.tenant c.ring
  if r.en then
    let i := r.posted + 1
    let t := s.tenant c.tenant
    let pra := r.base + 32 * ((i - 1) % 2 ^ r.elog)
    let s := s.setCring c.tenant c.ring { r with posted := i }
    if praOk t pra 32 then
      raiseIrq (putMem s (t.pbase + pra) (completionBytes c (seqOf i))) c.tenant c.ring
    else s
  else s

/-- Posts a completion if its ring has room and no older one of it waits, or holds it if the ring is held and the buffer
has room; none when it must stay unposted (R303, R318). -/
def tryPost (s : State) (c : Completion) : Option State :=
  let r := s.cring c.tenant c.ring
  if r.hold then
    if s.held.length < 4096 then
      let s := { s with held := s.held ++ [c] }
      let l := s.slot c.slot
      some (if c.frees then s.setSlot c.slot { l with st := .done, comp := none, threads := [], cause := c.cause, wdLeft := none } else s)
    else none
  else if r.en && (!r.room || s.held.any fun d => d.tenant == c.tenant && d.ring == c.ring) then none
  else some (freeSlot (writeCompletion s c) c)

/-- A completion that belongs to no slot's state (R297, R301): posted, held, or lost when the ring has no room. -/
def postLoose (s : State) (c : Completion) : State := (tryPost s { c with frees := false }).getD s

/-- A repair record (R381); the log holds the newest 4,096. -/
def repair (s : State) (kind cause die old new : Nat) : State :=
  { s with repairs := s.repairs ++ [{ kind := kind, cause := cause, die := die, ns := nsOf s.cycle, old := old, new := new }] }

end Sys2Proof.Machine
end

