-- ==== Sys2Proof/Machine/Translate.lean ====
section
/-! DEFINITION. Translation (R241-R249), cached translations (R246, R253) and the page-request queue (R250-R252,
R269, R270). -/

namespace Sys2Proof.Machine

/-! Accesses homed in another package (R242, R385, R386). -/

/-- What a load or AMO of bytes at a system address finds: its bytes at hand, its data still awaited, or a failure. -/
inductive Reach where
  | here | wait | failed
  deriving DecidableEq, Repr

/-- A party's load or AMO of `n` bytes: at once when they are homed here, otherwise once the package they are homed in has
answered. -/
def reach (s : State) (h : Holder) (spa n : Nat) : Reach × State :=
  if s.isLocal spa then (.here, s)
  else
    match s.remotes.find? fun r => r.party == h && r.spa == spa && r.n == n with
    | none =>
      (.wait, sendFlit { s with remotes := s.remotes ++ [{ id := s.nextId, party := h, spa := spa, n := n, since := s.cycle }],
                                nextId := s.nextId + 1 } (.load s.nextId spa n))
    | some r => (match r.st with | .sent => .wait | .answered => .here | .failed => .failed, s)

/-- A party's answered accesses are done with. -/
def endReach (s : State) (h : Holder) : State :=
  { s with remotes := s.remotes.filter fun r => !(r.party == h && r.st != .sent) }

/-- Bytes that the device reads for itself at a system address, once the package they are homed in has answered (R242). -/
def devRead (s : State) (h : Holder) (spa n : Nat) : Reach × List Byte × State :=
  match reach s h spa n with
  | (.here, s) => (.here, Mem.read s.mem spa n, s)
  | (r, s) => (r, [], s)

/-- The parties that the lodge's reads for a queue, and those of a slot's save image, are to the links (log 76). -/
def queueParty (q : Nat) : Holder := .walkers (4096 + q)
def imageParty (i : Nat) : Holder := .walkers (8192 + i)

/-- Reasons of fatal outcomes (R249); `undelivered` is a remote access that failed (R386), for which the manual gives no
code and the model 0 (log 38). -/
inductive Reason where
  | notPresent | bound | write | exec | user | malformed | asid | noMem | vaHigh | undelivered
  deriving DecidableEq, Repr

/-- The REASON code (R249). -/
def Reason.code : Reason → Nat
  | .notPresent => 1 | .bound => 2 | .write => 3 | .exec => 4 | .user => 5 | .malformed => 6 | .asid => 7
  | .noMem => 8 | .vaHigh => 9 | .undelivered => 0

/-- A leaf found by a walk (R244): the address translated, its page, the usable bytes of the page, its permissions. -/
structure Leaf where
  spa  : Nat
  page : Nat
  size : Nat
  pspa : Nat
  len  : Nat
  w    : Bool
  x    : Bool
  u    : Bool
  deriving DecidableEq, Repr

/-- The outcome of a walk (R244): a table read may also await another package's data, or fail to be delivered (R386). -/
inductive Walk where
  | ok (l : Leaf)
  | request (level : Nat)
  | fatal (r : Reason) (level : Nat)
  | uncorr (spa : Nat)
  | wait
  | lost (spa : Nat)
  deriving DecidableEq, Repr

/-- The index of a virtual address at a level (Table 11.2). -/
def vaIndex (va lvl : Nat) : Nat :=
  match lvl with
  | 0 => bitsAt va 39 17
  | 1 => bitsAt va 30 9
  | 2 => bitsAt va 21 9
  | _ => bitsAt va 12 9

/-- The page size of a leaf at a level (Table 11.2). -/
def leafSize (lvl : Nat) (c64 : Bool) : Nat :=
  match lvl with
  | 1 => 2 ^ 30
  | 2 => 2 ^ 21
  | _ => if c64 then 65536 else 4096

/-- What a leaf at level `lvl` answers (R244, R245). Of its page, the bytes below PLIMIT may be cached (R1). -/
def walkLeaf (t : Tenant) (va : Nat) (kind : AccKind) (u : Bool) (lvl e : Nat) : Walk :=
  let c64 := bitAt e 5
  let size := leafSize lvl c64
  let frame := if c64 then bitsAt e 16 32 * 65536 else bitsAt e 12 36 * 4096
  let pra := frame + va % size
  if kind = .write ∧ !bitAt e 2 then .fatal .write lvl
  else if kind = .fetch ∧ !bitAt e 3 then .fatal .exec lvl
  else if u ∧ !bitAt e 4 then .fatal .user lvl
  else if t.plimit ≤ pra then .fatal .bound lvl
  else if !mapsMemory (t.pbase + pra) then .fatal .noMem lvl
  else .ok { spa := t.pbase + pra, page := va / size * size, size := size, pspa := t.pbase + frame,
             len := min size (t.plimit - frame), w := bitAt e 2, x := bitAt e 3, u := bitAt e 4 }

/-- Whether an entry of level `lvl` is malformed (R244). -/
def entryBad (lvl e : Nat) : Bool :=
  let leaf := bitAt e 1
  let c64 := bitAt e 5
  bitsAt e 6 6 != 0 || bitsAt e 48 16 != 0 || (!leaf && bitsAt e 2 4 != 0) || (lvl == 0 && leaf) ||
  (lvl == 3 && !leaf) || (c64 && lvl != 3) ||
  (leaf && !c64 && bitsAt e 12 36 * 4096 % leafSize lvl c64 != 0)

/-- The die a party's walks and requests go to (R247): a channel's and a mailbox's by number. -/
def holderDie : Holder → Nat
  | .thread t => dieOf (t / 8)
  | .core p | .port p _ | .fill p _ | .slice p _ _ => dieOf p
  | .walkers d => d
  | .chan c => c / 64
  | .near m => m / 64

/-- ReadPRA (R244): a table read by a party, as a load of that party sees memory (R247). -/
def readPra (s : State) (h : Holder) (t : Tenant) (p lvl : Nat) : Except Walk Nat × State :=
  if t.plimit ≤ p then (.error (.fatal .bound lvl), s)
  else
    match reach s h (lineOf (t.pbase + p) * 64) 64 with
    | (.wait, s) => (.error .wait, s)
    | (.failed, s) => (.error (.lost (lineOf (t.pbase + p) * 64)), s)
    | (.here, s) =>
      if s.isBad (t.pbase + p) 8 then (.error (.uncorr (lineOf (t.pbase + p) * 64)), s)
      else (.ok (leNat (viewOf s h (t.pbase + p) 8)), s)

/-- The leaf of a C64 group that translates an access is one of the group's 16 entries, which one being open (R245, log 15). -/
def c64Leaf (s : State) (h : Holder) (t : Tenant) (va : Nat) (kind : AccKind) (u : Bool) (lvl table e : Nat) : Walk × State :=
  let i := Config.c64Choice (va / 65536) s.free % 16
  match readPra s h t (table + 8 * (vaIndex va lvl / 16 * 16 + i)) lvl with
  | (.ok e', s) =>
    (if bitAt e' 0 && bitAt e' 5 && !entryBad lvl e' then walkLeaf t va kind u lvl e' else walkLeaf t va kind u lvl e, s)
  | (.error .wait, s) => (.wait, s)
  | (.error _, s) => (walkLeaf t va kind u lvl e, s)

/-- The levels of a walk from `lvl` on, over `fuel` levels left (R244): the outcome and the tables it led through. -/
def walkFrom (s : State) (h : Holder) (t : Tenant) (va : Nat) (kind : AccKind) (u : Bool) (lvl table : Nat)
    (path : List (Nat × Nat)) : Nat → (Walk × List (Nat × Nat)) × State
  | 0 => ((.fatal .malformed 3, path), s)
  | fuel + 1 =>
    match readPra s h t (table + 8 * vaIndex va lvl) lvl with
    | (.error r, s) => ((r, path), s)
    | (.ok e, s) =>
      if !bitAt e 0 then ((.request lvl, path), s)
      else if entryBad lvl e then ((.fatal .malformed lvl, path), s)
      else if bitAt e 1 then
        if bitAt e 5 then let r := c64Leaf s h t va kind u lvl table e; ((r.1, path), r.2)
        else ((walkLeaf t va kind u lvl e, path), s)
      else
        let next := bitsAt e 12 36 * 4096
        walkFrom s h t va kind u (lvl + 1) next ((lvl + 1, next) :: path) fuel

/-- The virtual bytes that a table of a level serves (Table 11.2). -/
def tabSize (lvl : Nat) : Nat :=
  match lvl with
  | 0 => 2 ^ 56
  | 1 => 2 ^ 39
  | 2 => 2 ^ 30
  | _ => 2 ^ 21

/-- The deepest table of a walk that the die's walker caches hold, when they serve it, which the manual leaves open (R246,
log 85). -/
def State.tabFor (s : State) (die v asid va : Nat) : Option Tab :=
  if Config.walkerServes (va / 4096) s.free then
    (s.tabs.filter fun x => decide (x.die = die) && decide (x.tenant = v) && decide (x.asid = asid) &&
      decide (x.page ≤ va) && decide (va < x.page + x.size)).foldl
      (fun b x => match b with
        | some y => if y.lvl < x.lvl then some x else some y
        | none => some x) none
  else none

/-- Translate (R244), from a cached table entry (R246) or from the ASID table (R243). -/
def walk (s : State) (h : Holder) (v asid : Nat) (u : Bool) (va : Nat) (kind : AccKind) :
    (Walk × List (Nat × Nat)) × State :=
  let t := s.tenant v
  if 2 ^ 56 ≤ va then ((.fatal .vaHigh 0, []), s)
  else
    match s.tabFor (holderDie h) v asid va with
    | some x => walkFrom s h t va kind u x.lvl x.pra [] (4 - x.lvl)
    | none =>
      match readPra s h t (t.asidtab + 8 * asid) 0 with
      | (.error r, s) => ((r, []), s)
      | (.ok e, s) =>
        if !bitAt e 0 ∨ bitsAt e 1 19 ≠ 0 ∨ bitsAt e 48 16 ≠ 0 then ((.fatal .asid 0, []), s)
        else
          let root := bitsAt e 20 28 * 1048576
          walkFrom s h t va kind u 0 root [(0, root)] 4

/-- The table entries of a walk that mapped its address are kept in the walker caches of its die (R246). -/
def addTabs (s : State) (die v asid va : Nat) (path : List (Nat × Nat)) : State :=
  let new := path.map fun e =>
    ({ die := die, tenant := v, asid := asid, lvl := e.1, page := va / tabSize e.1 * tabSize e.1, size := tabSize e.1,
       pra := e.2 } : Tab)
  { s with tabs := new ++ s.tabs.filter fun x => !new.any fun y =>
      decide (y.die = x.die) && decide (y.tenant = x.tenant) && decide (y.asid = x.asid) && decide (y.lvl = x.lvl) &&
      decide (y.page = x.page) }

/-- How many translations a holder keeps in a role (R253, R138): a stream one for its data and one for its scales, a channel
one for its source and one for its destination (log 86). -/
def xlatCap : Holder → Nat
  | .core _ => 256
  | .port _ _ | .chan _ => 1
  | _ => 4

/-- The SRC field and plot of a page-request record (Table 11.5). -/
def prqSrc : Holder → Nat × Nat
  | .thread t => (0, t / 8)
  | .core p => (0, p)
  | .port p _ => (1, p)
  | .chan _ => (2, 0xFFFF)
  | .fill p _ => (3, p)
  | .slice p _ _ => (4, p)
  | .near _ => (5, 0xFFFF)
  | .walkers _ => (0, 0xFFFF)

/-- The KIND field of a page-request record. -/
def kindCode : AccKind → Nat
  | .read => 0 | .write => 1 | .fetch => 2

/-- A usable cached translation (R246): same tenant, ASID and role, covering an address below PLIMIT that maps memory,
permitting the access. -/
def Xlat.covers (x : Xlat) (h : Holder) (role v asid : Nat) (u : Bool) (va : Nat) (kind : AccKind) : Bool :=
  x.holder == h && x.role == role && x.tenant == v && x.asid == asid && decide (x.page ≤ va) &&
  decide (va < x.page + x.size) && decide (va < x.page + x.len) && mapsMemory (x.spa + (va - x.page)) &&
  (kind != .write || x.w) && (kind != .fetch || x.x) && (!u || x.u)

/-- A new cached translation, the oldest of the holder's role dropped beyond its capacity. -/
def addXlat (s : State) (x : Xlat) : State :=
  let same := fun (y : Xlat) => y.holder == x.holder && y.role == x.role
  { s with xlats := (x :: s.xlats.filter same).take (xlatCap x.holder) ++ s.xlats.filter fun y => !same y }

/-- Whether an invalidation covers a range of virtual bytes of an ASID. -/
def Inval.covers (i : Inval) (v asid a n : Nat) : Bool :=
  i.tenant == v && (match i.asid with | some x => x == asid | none => true) &&
  (i.asid.isNone || (decide (a < i.va + i.len) && decide (i.va < a + n)))

/-- A translation newly cached while an invalidation that covers it has yet to reach the walkers it came from is one that the
invalidation has to reach too (R255). -/
def joinInvals (s : State) (die : Nat) (x : Xlat) : State :=
  { s with invals := s.invals.map fun i =>
      if i.todo.contains (.walkers die) && i.covers x.tenant x.asid x.page x.size && !i.todo.contains x.holder
      then { i with todo := i.todo ++ [x.holder] } else i }

/-- The translations of a stream, a channel, a fill, a slice load or a near-bank command go when it ends (R253). -/
def endXlats (s : State) (h : Holder) : State := { s with xlats := s.xlats.filter fun x => x.holder != h }

/-- The page-request entries a tenant holds on a die (R250, R269). -/
def prqHeld (s : State) (die v : Nat) : List Nat :=
  (s.prqs.filter fun e => decide (e.1 / 1024 = die) && decide (e.2.tenant = v)).map fun e => e.1 % 1024

/-- The entry a new request of a tenant takes (R250, R269): a reserved one, else a pool entry within the cap. -/
def prqSlot (s : State) (die v : Nat) : Option Nat :=
  let used := fun i => (Tbl.get? s.prqs (die * 1024 + i)).isSome
  match (List.range 4).find? fun j => !used (4 * v + j) with
  | some j => some (4 * v + j)
  | none =>
    if ((prqHeld s die v).filter fun i => decide (256 ≤ i)).length < 384 then
      ((List.range 768).find? fun j => !used (256 + j)).map fun j => 256 + j
    else none

/-- The log record of a new entry (R251, R270). -/
def prqRecord (s : State) (die i v asid level : Nat) (va : Word) (kind : AccKind) (req : Holder) : State :=
  let t := s.tenant v
  let n := 2 ^ (11 + t.prqlog.toNat % 8)
  let j := t.prqseq + 1
  let s := s.setTenant v { t with prqseq := j }
  let pra := bitsAt t.prqlog.toNat 12 36 * 4096 + 32 * ((j - 1) % n)
  if praOk t pra 32 then
    let bytes := leBytes 4 (seqOf j) ++ leBytes 2 (die * 1024 + i) ++ leBytes 1 (kindCode kind) ++
      leBytes 1 (prqSrc req).1 ++ leBytes 8 va.toNat ++ leBytes 2 asid ++ leBytes 2 (prqSrc req).2 ++
      leBytes 1 level ++ leBytes 11 0
    raiseIrq (putMem s (t.pbase + pra) bytes) v 65
  else s

/-- A NOTPRESENT outcome joins an entry of its page or takes a new one (R250 steps 1 and 2); none when there is neither. -/
def grantRequest (s : State) (q : PrqWait) : Option State :=
  let die := holderDie q.req
  let page := q.va.toNat / 4096
  match s.prqs.find? fun e => decide (e.1 / 1024 = die) && decide (e.2.tenant = q.tenant) && decide (e.2.asid = q.asid) &&
      decide (e.2.page = page) && e.2.kind == q.kind with
  | some (k, e) =>
    some (if e.reqs.contains q.req then s else { s with prqs := Tbl.set s.prqs k { e with reqs := e.reqs ++ [q.req] } })
  | none =>
    (prqSlot s die q.tenant).map fun i =>
      let e : Prq := { tenant := q.tenant, asid := q.asid, page := page, kind := q.kind, level := q.level, reqs := [q.req] }
      prqRecord { s with prqs := Tbl.set s.prqs (die * 1024 + i) e } die i q.tenant q.asid q.level q.va q.kind q.req

/-- The requests that wait for entries get them in the order they came (R250 step 3). -/
def grantRequests (s : State) : State :=
  s.prqWait.foldl (fun s q => match grantRequest s q with
    | some s => s
    | none => { s with prqWait := s.prqWait ++ [q] }) { s with prqWait := [] }

/-- A NOTPRESENT outcome (R250). -/
def pageRequest (s : State) (req : Holder) (v asid level : Nat) (va : Word) (kind : AccKind) : State :=
  let q : PrqWait := { req := req, tenant := v, asid := asid, level := level, va := va, kind := kind }
  (grantRequest s q).getD { s with prqWait := s.prqWait ++ [q] }

/-- Whether a party waits on a page request (R248). -/
def State.waitsPage (s : State) (req : Holder) : Bool :=
  s.prqs.any (fun e => e.2.reqs.contains req) || s.prqWait.any fun q => q.req == req

/-- Whether a party waits on a request for a page and a kind of access. -/
def State.waitsFor (s : State) (req : Holder) (page : Nat) (kind : AccKind) : Bool :=
  s.prqs.any (fun e => e.2.reqs.contains req && decide (e.2.page = page) && e.2.kind == kind) ||
  s.prqWait.any fun q => q.req == req && decide (q.va.toNat / 4096 = page) && q.kind == kind

/-- What a translation answers a party. -/
inductive XRes where
  | ok (spa : Nat)
  | wait
  | fatal (r : Reason) (level : Nat)
  | uncorr (spa : Nat)
  | lost (spa : Nat)
  deriving DecidableEq, Repr

/-- The fatal answer that system software gave a party's request for a page (R252), if it has yet to be taken (log 63). -/
def State.fatalAnswer (s : State) (req : Holder) (page : Nat) (kind : AccKind) : Option Nat :=
  (s.fatals.find? fun f => f.1 == req && f.2.1 == page && f.2.2.1 == kind).map fun f => f.2.2.2

/-- A walk made for a party, its outcome cached or requested (R246-R250). -/
def walkOut (s : State) (req : Holder) (role v asid : Nat) (u : Bool) (va : Word) (kind : AccKind) : XRes × State :=
  match walk s req v asid u va.toNat kind with
  | ((.ok l, path), s) =>
    let x : Xlat := { holder := xlatHolder req, tenant := v, asid := asid, page := l.page, size := l.size, spa := l.pspa, w := l.w,
                      x := l.x, u := l.u, role := role, len := l.len }
    (.ok l.spa, joinInvals (addXlat (addTabs (endReach s req) (holderDie req) v asid va.toNat path) x) (holderDie req) x)
  | ((.request lvl, _), s) => (.wait, pageRequest (endReach s req) req v asid lvl va kind)
  | ((.fatal r lvl, _), s) => (.fatal r lvl, endReach s req)
  | ((.uncorr a, _), s) => (.uncorr a, endReach s req)
  | ((.lost a, _), s) => (.lost a, endReach s req)
  | ((.wait, _), s) => (.wait, s)

/-- Translation of an access by a party in a role: a fatal answer to its request, a cached translation, otherwise a walk; a party
that has requested the page waits for the answer (R246-R250, R252). -/
def translate (s : State) (req : Holder) (role v asid : Nat) (u : Bool) (va : Word) (kind : AccKind) : XRes × State :=
  let page := va.toNat / 4096
  if va.toNat ≥ 2 ^ 56 then (.fatal .vaHigh 0, s)
  else
    match s.fatalAnswer req page kind with
    | some lvl =>
      (.fatal .notPresent lvl,
       { s with fatals := s.fatals.filter fun f => !(f.1 == req && f.2.1 == page && f.2.2.1 == kind) })
    | none =>
      if s.waitsFor req page kind then (.wait, s)
      else
        match s.xlats.find? fun x => x.covers (xlatHolder req) role v asid u va.toNat kind with
        | some x => (.ok (x.spa + (va.toNat - x.page)), s)
        | none => walkOut s req role v asid u va kind

/-- System software's answer to a page-request entry (R252): the entry frees; RETRY lets its requesters walk again,
FATAL gives each the fatal outcome NOTPRESENT at its next attempt. An ID not outstanding for the tenant is ignored (log 63). -/
def prqResp (s : State) (v : Nat) (w : Word) : State :=
  let k := bitsAt w.toNat 0 12
  match Tbl.get? s.prqs (k / 1024 * 1024 + k % 1024) with
  | none => s
  | some e =>
    if e.tenant ≠ v then s
    else
      let s := { s with prqs := Tbl.del s.prqs k }
      grantRequests (if bitAt w.toNat 12 then
        { s with fatals := s.fatals ++ e.reqs.map fun h => (h, e.page, e.kind, e.level) }
      else s)

/-- A party withdraws from the page-request queue and from what it awaits from other packages: it is stopped, reset or
ended. -/
def withdraw (s : State) (req : Holder) : State :=
  { s with remotes := s.remotes.filter fun r => r.party != req || r.amo.isSome,
           prqs := Tbl.mapVals (fun _ e => { e with reqs := e.reqs.filter fun h => h != req }) s.prqs,
           prqWait := s.prqWait.filter fun q => q.req != req,
           fatals := s.fatals.filter fun f => f.1 != req }

/-! Invalidations (R255, R256). -/

/-- Issued stores of a tenant that an invalidation covers, and AMOs sent to other packages: bound accesses. -/
def boundBy (s : State) (i : Inval) (f : Holder → Bool) : List Nat :=
  ((s.pend.filter fun p => f p.party && i.covers p.tenant p.asid p.page p.psize).map fun p => p.id) ++
  (s.remotes.filter fun r => r.amo.isSome && r.st == .sent && f r.party && i.covers r.tenant r.asid r.va r.n).map fun r => r.id

/-- An invalidation posted to every holder (R255): every cache that holds a translation of the tenant, and the walkers of the
four dies. -/
def postInval (s : State) (tid v : Nat) (asid : Option Nat) (va len : Nat) : State :=
  let i : Inval := { id := s.nextId, tid := tid, tenant := v, asid := asid, va := va, len := len, todo := [], bound := [] }
  let holders := (s.xlats.filter fun x => x.tenant == v).foldl
    (fun l x => if l.contains x.holder then l else l ++ [x.holder]) ((List.range 4).map Holder.walkers)
  { s with invals := s.invals ++ [{ i with todo := holders, bound := boundBy s i fun _ => true }], nextId := s.nextId + 1 }

/-- A posted invalidation reaches a holder: the translations it covers go, whole pages even where the range covers a
page in part, and the stores that left under them are bound. At a die's walkers the table entries it covers go, and walks of the
die that await another package's data begin again (R247). -/
def arriveInval (s : State) (id : Nat) (h : Holder) : State :=
  match s.invals.find? fun i => i.id = id with
  | none => s
  | some i =>
    if i.todo.contains h then
      let i' := { i with todo := i.todo.filter fun x => x != h, bound := i.bound ++ boundBy s i fun p => xlatHolder p == h }
      { s with xlats := s.xlats.filter fun x => !(x.holder == h && i.covers x.tenant x.asid x.page x.size),
               tabs := s.tabs.filter fun x => !(h == .walkers x.die && i.covers x.tenant x.asid x.page x.size),
               remotes := s.remotes.filter fun r => !(h == .walkers (holderDie r.party) && r.amo.isNone),
               invals := s.invals.map fun j => if j.id = id then i' else j }
    else s

/-- Whether an invalidation has taken full effect. -/
def State.invalDone (s : State) (i : Inval) : Bool :=
  i.todo.isEmpty && i.bound.all fun b => s.performed b && !s.remotes.any fun r => decide (r.id = b) && r.st == .sent

/-- EINFO of a translation fault (R249). -/
def xlatInfo (asid : Nat) (r : Reason) (level : Nat) : Word :=
  BitVec.ofNat 64 (r.code + level * 256 + asid % 65536 * 65536)

end Sys2Proof.Machine
end

