-- ==== Sys2Proof/Machine/Ops.lean ====
section
/-! DEFINITION. The named operations that meanings are made of: fetching (R18), taking an exception and returning from
one (R335, R338, R343), completing an instruction inside or outside a clause (R86, R87), statuses (R49), and the data
accesses of a context (R156, R309, R348). -/

namespace Sys2Proof.Machine

/-- The outcome type of a meaning. -/
abbrev Out := Host.Outcome State Fault Refusal

/-! Fetching. -/

/-- What a word fetch answers. -/
inductive FRes where
  | ok (w : BitVec 32)
  | wait
  | fail (info : Word)
  | uncorr (spa : Nat)
  deriving DecidableEq, Repr

/-- Lines a plot's instruction cache holds: 64 KiB of 64 bytes. -/
def icacheLines : Nat := 1024

/-- The line of an access reached for a party (R385); what it was answered then is done with. -/
def lineReach (s : State) (h : Holder) (spa : Nat) : Reach × State :=
  match reach s h (spa / 64 * 64) 64 with
  | (.wait, s) => (.wait, s)
  | (r, s) => (r, endReach s h)

/-- The word at an address in a cached line. -/
def ILine.word (l : ILine) (pc : Nat) : BitVec 32 := BitVec.ofNat 32 (leNat ((l.bytes.drop (pc % 64)).take 4))

/-- Whether a cached line serves the word at `pc` of a tenant's ASID that translates to `spa` (R344). -/
def ILine.serves (l : ILine) (v asid pc spa : Nat) : Bool :=
  decide (l.tenant = v) && decide (l.asid = asid) && decide (l.line = pc / 64) && decide (l.sline = lineOf spa) &&
  l.words.getLsbD (pc % 64 / 4)

/-- A line with the word at `pc` read, and those the core reads with it (R19): words read earlier stay as they were
(log 62). -/
def ILine.refill (l : ILine) (now : List Byte) (pc : Nat) (ahead : BitVec 16) : ILine :=
  { l with
    bytes := (List.range 64).map fun i => if l.words.getLsbD (i / 4) then l.bytes.getD i 0 else now.getD i 0,
    words := l.words ||| ahead ||| (1#16 <<< (pc % 64 / 4)) }

/-- The word at a translated address read into the plot's instruction cache (R18, R19). -/
def fillCode (s : State) (p v asid pc spa : Nat) : BitVec 32 × State :=
  let x := s.plot p
  let same := fun (l : ILine) => decide (l.tenant = v) && decide (l.asid = asid) && decide (l.line = pc / 64) &&
    decide (l.sline = lineOf spa)
  let old := (x.icache.find? same).getD { tenant := v, asid := asid, line := pc / 64, sline := lineOf spa, bytes := [], words := 0 }
  let l := old.refill (Mem.read s.mem (lineOf spa * 64) 64) pc (Config.fetchAhead s.free)
  (l.word pc, { s.setPlot p { x with icache := (l :: x.icache.filter fun y => !same y).take icacheLines } with
                free := s.free + 1 })

/-- A word fetched by a thread through its plot's instruction cache (R18, R19, R344): translated, then served by a line read
from there or read now, or later: between the reads of two words of one instruction other parties may store. A word that cannot be
had from memory cannot be fetched, and an address in the private window is fetched at as any other (log 62). -/
def threadFetch (s : State) (t : Nat) (pc : Word) : FRes × State :=
  let c := s.thread t
  let v := c.tenant.getD 64
  match translate s (.thread t) 0 v c.asid (c.priv == .u) pc .fetch with
  | (.ok spa, s) =>
    match (s.plot (t / 8)).icache.find? fun l => l.serves v c.asid pc.toNat spa with
    | some l => (.ok (l.word pc.toNat), s)
    | none =>
      match lineReach s (.thread t) spa with
      | (.wait, s) => (.wait, s)
      | (.failed, s) => (.fail 0, s)
      | (.here, s) =>
        if s.isBad spa 4 then (.fail 0, s)
        else if Config.fetchPauses s.free then (.wait, { s with free := s.free + 1 })
        else let r := fillCode s (t / 8) v c.asid pc.toNat spa; (.ok r.1, r.2)
  | (.wait, s) => (.wait, s)
  | (.fatal r lvl, s) => (.fail (xlatInfo c.asid r lvl), s)
  | (.uncorr a, s) => (.uncorr a, s)
  | (.lost _, s) => (.fail 0, s)

/-- A word fetched by any context: a lodge core from its own instruction memory, the assist context at untranslated
system addresses (R201, R309). -/
def fetchWord (s : State) (a : Agent) (pc : Word) : FRes × State :=
  match a with
  | .thread t => threadFetch s t pc
  | .lodge c =>
    if pc.toNat + 4 ≤ 65536 then
      (.ok (BitVec.ofNat 32 (leNat (Mem.read s.imem (c * 65536 + pc.toNat) 4))), s)
    else (.fail 0, s)
  | .assist p =>
    if mapsMemory pc.toNat && !s.isBad pc.toNat 4 then
      match lineReach s (rawParty (.assist p)) pc.toNat with
      | (.wait, s) => (.wait, s)
      | (.failed, s) => (.fail 0, s)
      | (.here, s) => (.ok (BitVec.ofNat 32 (leNat (Mem.read s.mem pc.toNat 4))), s)
    else (.fail 0, s)

/-- The first address of an instruction's words that cannot be fetched, if one cannot (R18, R339) (log 62). -/
def unfetchable (s : State) (a : Agent) (pc : Word) : Option Word :=
  match (fetchWord s a pc).1 with
  | .fail _ | .uncorr _ => some pc
  | .ok w =>
    let n := if hasLength w then fLen w else 0
    (List.range n).findSome? fun i =>
      let p := pc + BitVec.ofNat 64 (4 + 4 * i)
      match (fetchWord s a p).1 with
      | .fail _ | .uncorr _ => some p
      | _ => none
  | _ => none

/-! Exceptions. -/

/-- Cause codes (R336, Table 16.4). -/
def cIllegal : Nat := 0x01
def cMisalign : Nat := 0x02
def cFetch : Nat := 0x03
def cLoad : Nat := 0x04
def cStore : Nat := 0x05
def cPriv : Nat := 0x06
def cTrap : Nat := 0x07
def cBreak : Nat := 0x08
def cRepro : Nat := 0x09
def cExpect : Nat := 0x0A
def cTile : Nat := 0x0B
def cCmdq : Nat := 0x0C
def cFabric : Nat := 0x0D
def cUncorr : Nat := 0x0E
def cWatchdog : Nat := 0x0F
def cAssist : Nat := 0x10
def cDouble : Nat := 0x11
def cPreempt : Nat := 0x12
def cIntegrity : Nat := 0x13
def cQueue : Nat := 0x14

/-- The KIND code of a clause (R335 CLAUSE). -/
def ClauseKind.code : ClauseKind → Nat
  | .none => 0 | .rpt => 1 | .whenExec => 2 | .whenSkip => 3

/-- The kind a KIND code names. -/
def clauseKindOf (n : Nat) : ClauseKind :=
  match n with
  | 0 => .none | 1 => .rpt | 2 => .whenExec | _ => .whenSkip

/-- The CLAUSE register's value for a clause state (R335, R338). -/
def Clause.csr (c : Clause) : Word :=
  if c.kind = .none then 0
  else BitVec.ofNat 64 (c.kind.code + bitsAt c.hdr.toNat 2 54 * 4 + c.pos % 32 * 2 ^ 56)

/-- The number of instructions the clause governs (R29). -/
def Clause.count (c : Clause) : Nat := (c.hdrw.extractLsb' 2 4).toNat + 1

/-- The address of the first governed instruction (R338). -/
def Clause.body (c : Clause) : Word := c.hdr + BitVec.ofNat 64 (4 + 4 * fLen c.hdrw)

/-- Where a trap of an agent goes (R335). -/
def State.trapVector (s : State) (a : Agent) : Word :=
  match a with
  | .thread t => (s.tenant ((s.thread t).tenant.getD 64)).tvec
  | .lodge c => (s.lodge c).tvec
  | .assist p => (s.plot p).avec

/-- TakeTrap (R335): the saved status and addresses, the clause state, the privilege and the vector; DOUBLE when the
handler's first instruction cannot be fetched (R339) (log 58) (log 81). -/
def takeTrap (s : State) (a : Agent) (cause : Nat) (epc fbyte faddr einfo : Word) : State :=
  let c := s.ctxOf a
  let vec := s.trapVector a
  let c' : Ctx :=
    { c with st := .running, pp := c.priv, epc := epc &&& ~~~3#64, fbyte := fbyte, ecause := BitVec.ofNat 64 cause,
             faddr := faddr, einfo := einfo, clause := c.cl.csr,
             clrem := if c.cl.kind = .rpt then c.cl.rem else 0,
             clhdr := if c.cl.kind = .none then 0 else c.cl.hdrw.zeroExtend 64, cl := {},
             priv := match a with | .thread _ => .s | _ => .l, pc := vec, wait := none, stall := none, entered := some c.retired }
  let s := s.setCtxOf a c'
  match unfetchable s a vec with
  | none => s
  | some _ => s.setCtxOf a { c' with st := .double }

/-- Whether the issuing context is still to fetch the first instruction of the handler it entered last (R339). -/
def State.entering (s : State) : Bool :=
  s.ctx.entered == some s.ctx.retired && s.ctx.cl.kind == .none && decide (s.ctx.pc = s.trapVector s.cur)

/-- The issuing context in DOUBLE: the registers its trap wrote are kept (R339). -/
def enterDouble (s : State) : State := s.setCtx { s.ctx with st := .double, wait := none, stall := none }

/-- A precise trap of the issuing context at its current instruction (R18): EPC and FBYTE are its address (log 81). -/
def trapHere (s : State) (cause : Nat) (faddr einfo : Word) : State :=
  takeTrap s s.cur cause s.ctx.pc s.ctx.pc faddr einfo

/-- The ILLEGAL trap for a first word (R18). -/
def trapIllegal (s : State) (w : BitVec 32) : State := trapHere s cIllegal s.ctx.pc (w.zeroExtend 64)

/-- The PRIV trap for a first word (R18). -/
def trapPriv (s : State) (w : BitVec 32) : State := trapHere s cPriv s.ctx.pc (w.zeroExtend 64)

/-- ERET's effect on a context (R343), none when it raises ILLEGAL. -/
def eretCtx (c : Ctx) : Option Ctx :=
  let k := bitsAt c.clause.toNat 0 2
  let pos := bitsAt c.clause.toNat 56 5
  let hdrw : BitVec 32 := c.clhdr.setWidth 32
  let n := (hdrw.extractLsb' 2 4).toNat + 1
  let cl : Clause := { kind := clauseKindOf k, hdr := BitVec.ofNat 64 (bitsAt c.clause.toNat 2 54 * 4), pos := pos,
                       rem := if k = 1 then c.clrem else 0, hdrw := hdrw }
  if c.epc.toNat % 4 ≠ 0 ∨ bitsAt c.clause.toNat 61 3 ≠ 0 ∨ (k ≠ 0 ∧ n < pos) then none
  else
    let c := { c with priv := c.pp, clause := 0, clrem := 0, clhdr := 0, retired := c.retired + 1 }
    if k = 0 then some { c with pc := c.epc, cl := {} }
    else if pos < n then some { c with pc := c.epc, cl := cl }
    else if k = 1 ∧ 1 < cl.rem.toNat then some { c with pc := cl.body, cl := { cl with rem := cl.rem - 1, pos := 0 } }
    else some { c with pc := c.epc, cl := {} }

/-! Completing an instruction. -/

/-- The context after an instruction of `len` bytes has completed or been skipped: the next address, inside the clause
or out of it (R86, R87). -/
def Ctx.advance (c : Ctx) (len : Nat) : Ctx :=
  let next := c.pc + BitVec.ofNat 64 len
  let c := { c with wait := none, stall := none, st := if c.st = CtxState.waiting then CtxState.running else c.st }
  if c.cl.kind = .none then { c with pc := next }
  else if c.cl.pos + 1 < c.cl.count then { c with pc := next, cl := { c.cl with pos := c.cl.pos + 1 } }
  else if c.cl.kind = .rpt ∧ 1 < c.cl.rem.toNat then
    { c with pc := c.cl.body, cl := { c.cl with pos := 0, rem := c.cl.rem - 1 } }
  else { c with pc := next, cl := {} }

/-- An instruction of `len` bytes completes (R78: RETIRED counts it). -/
def retire (s : State) (len : Nat) : State :=
  let c := s.ctx
  s.setCtx ({ c with retired := c.retired + 1 }.advance len)

/-- A branch or jump completes at a target. -/
def retireTo (s : State) (pc : Word) : State :=
  let c := s.ctx
  s.setCtx { c with retired := c.retired + 1, pc := pc, wait := none }

/-- A register is written and the instruction completes. -/
def finish (s : State) (rd : Reg) (v : Word) (len : Nat) : Out := .next (retire (s.setG rd v) len)

/-- Status codes (R30). -/
def stOK : Nat := 0
def stBUSY : Nat := 1
def stQUOTA : Nat := 2
def stNOSPACE : Nat := 3
def stDENIED : Nat := 4
def stENCRYPTED : Nat := 5
def stBADARG : Nat := 6
def stSTALE : Nat := 7

/-- Status(code) (R49) of a one-word instruction. -/
def status (s : State) (rd : Reg) (code : Nat) : Out := finish s rd (BitVec.ofNat 64 code) 4

/-- The issuing context waits in instruction `i` (R74): it takes no other effect and is tried again (log 83). -/
def waitIn (s : State) (i : Instr) (mark : Nat) : Out :=
  let c := s.ctx
  let w : Waiting := match c.wait with
    | some w => if w.instr = i then w else { instr := i, start := s.cycle, mark := mark }
    | none => { instr := i, start := s.cycle, mark := mark }
  .next (s.setCtx { c with st := .waiting, wait := some w })

/-- The cycle instruction `i` started waiting, now if it has not. -/
def startOf (s : State) (i : Instr) : Nat :=
  match s.ctx.wait with
  | some w => if w.instr = i then w.start else s.cycle
  | none => s.cycle

/-- The mark instruction `i` took when it began to wait, if it has begun. -/
def markOf (s : State) (i : Instr) : Option Nat :=
  match s.ctx.wait with
  | some w => if w.instr = i then some w.mark else none
  | none => none

/-- Whether `limit` cycles have passed since instruction `i` began (R93). -/
def expired (s : State) (i : Instr) (limit : Word) : Bool := decide (limit.toNat ≤ s.cycle - startOf s i)

/-- Privilege as a number (R77). -/
def Priv.code : Priv → Nat
  | .u => 0 | .s => 1 | .l => 2

/-- The PRIV check (R18): below the level, the trap with the instruction's first word. -/
def needPriv (s : State) (p : Priv) (i : Instr) (k : Out) : Out :=
  if s.ctx.priv.code < p.code then .next (trapPriv s (firstWord i)) else k

/-- Instructions on tenant resources have no effect on a lodge core and the assist context and return DENIED (R397). -/
def onThread (s : State) (rd : Reg) (k : Out) : Out := if s.isThread then k else status s rd stDENIED

/-! Data accesses. -/

/-- The outcome of a data access. -/
inductive DRes (α : Type) where
  | ok (v : α)
  | wait
  | trap (cause : Nat) (faddr einfo : Word)
  | noMem (addr : Nat)
  deriving Repr

/-- A data address of a thread after its private window (R156): a carve-out byte, or a virtual address. -/
inductive Target where
  | carve (o : Nat)
  | virt (va : Word)
  deriving DecidableEq, Repr

/-- The private window (R156) (log 61). -/
def Ctx.target (c : Ctx) (a : Word) : Target :=
  let o := a.toNat - c.privbase.toNat
  if c.privbase.toNat ≤ a.toNat ∧ o < 0x1000000 then
    if o < c.carve then .carve o else .virt (c.ovfptr + BitVec.ofNat 64 (o - c.carve))
  else .virt a

/-- EINFO of UNCORR (R336): the system address of the line. -/
def lineInfo (spa : Nat) : Word := BitVec.ofNat 64 (lineOf spa * 64 % 2 ^ 61)

/-- The trap a translation's outcome gives a thread (R248, R249). -/
def xresTrap {α : Type} (r : XRes) (asid cause : Nat) (va : Word) : DRes α :=
  match r with
  | .ok _ => .wait
  | .wait => .wait
  | .fatal rs lvl => .trap cause va (xlatInfo asid rs lvl)
  | .uncorr a | .lost a => .trap cUncorr va (lineInfo a)

/-- The lodge control window (R348). -/
def inWindow (a : Word) : Bool := a.extractLsb' 61 3 == 7#3

/-- LCST as the window shows it (R348). -/
def Lodge.lcst (l : Lodge) : Word :=
  BitVec.ofNat 64 ((if l.busy then 1 else 0) + l.result % 16 * 16 + l.recidx % 16384 * 256 + l.data % 2 ^ 32 * 2 ^ 32)

/-- Lodge SRAM (R309), with words that an uncorrectable error makes read all ones (R394). -/
def sramRead (s : State) (a n : Nat) : List Byte :=
  (List.range n).map fun i => if s.sramBad.contains ((a + i) / 8) then 0xFF#8 else Mem.get s.sram (a + i)

/-- The journal areas of the two banks (R310). -/
def inJournal (a : Nat) : Bool := decide (a % 0x100000 < 0x80000) && decide (a < 0x200000)

/-- A load from system memory by a context that does no translation, as party `h` (log 61) (log 84). -/
def rawLoad (s : State) (h : Holder) (a : Word) (n : Nat) : DRes (List Byte) × State :=
  if mapsMemory a.toNat then
    match lineReach s h a.toNat with
    | (.wait, s) => (.wait, s)
    | (.failed, s) => (.trap cUncorr a (lineInfo a.toNat), s)
    | (.here, s) => (if s.isBad a.toNat n then .trap cUncorr a (lineInfo a.toNat) else .ok (viewOf s h a.toNat n), s)
  else (.noMem a.toNat, s)

/-- A load of `n` bytes by the issuing context at an aligned address. `home` loads are never served by the cache. -/
def dataLoad (s : State) (a : Word) (n : Nat) (home : Bool) : DRes (List Byte) × State :=
  match s.cur with
  | .thread t =>
    let c := s.ctx
    if a.toNat ≥ 2 ^ 56 then (.trap cLoad a (xlatInfo c.asid .vaHigh 0), s)
    else
      match c.target a with
      | .carve o => (.ok (Mem.read c.carveMem o n), s)
      | .virt va =>
        match translate s (.thread t) 0 (c.tenant.getD 64) c.asid (c.priv == .u) va .read with
        | (.ok spa, s) =>
          match lineReach s (.thread t) spa with
          | (.wait, s) => (.wait, s)
          | (.failed, s) => (.trap cUncorr a (lineInfo spa), s)
          | (.here, s) =>
            if s.isBad spa n then (.trap cUncorr a (lineInfo spa), s)
            else
              let r := if home then coreLoadHome s (t / 8) spa n else coreLoad s (t / 8) spa n
              (.ok r.1, noteSeen r.2 t spa n)
        | (r, s) => (xresTrap r c.asid cLoad va, s)
  | .lodge k =>
    if inWindow a then
      (.ok (if n = 8 ∧ !home ∧ a.toNat % 2 ^ 61 = 8 then leBytes 8 (s.lodge k).lcst.toNat else leBytes n 0), s)
    else if a.toNat < 0x200000 then (.ok (sramRead s a.toNat n), s)
    else rawLoad s (rawParty s.cur) a n
  | .assist _ => rawLoad s (rawParty s.cur) a n

/-- A store to the control window (R348, R349): LCMD starts a command when none runs, with every earlier access of the core
performed. -/
def windowStore (s : State) (k : Nat) (a : Word) (bytes : List Byte) : State :=
  let l := s.lodge k
  if bytes.length = 8 ∧ a.toNat % 2 ^ 61 = 0 ∧ !l.busy then
    let w := leNat bytes
    (drainParty s (rawParty (.lodge k))).setLodge k { l with cmd := BitVec.ofNat 64 w, busy := true, begun := false, done := false, result := 0, recidx := bitsAt w 8 14, data := 0 }
  else s

/-- A store to system memory by a context that does no translation, as party `h`: performed at its home here, or sent to the
package it is homed in (R242). -/
def rawStore (s : State) (h : Holder) (a : Word) (bytes : List Byte) : DRes Unit × State :=
  if !mapsMemory a.toNat then (.noMem a.toNat, s)
  else if s.isLocal a.toNat then
    (.ok (), performStore s { id := 0, party := h, tenant := 64, asid := 0, va := a, spa := a.toNat, bytes := bytes })
  else (.ok (), issueStore s h 64 0 a a.toNat bytes none)

/-- A store by the issuing context at an aligned address. -/
def dataStore (s : State) (a : Word) (bytes : List Byte) : DRes Unit × State :=
  match s.cur with
  | .thread t =>
    let c := s.ctx
    if a.toNat ≥ 2 ^ 56 then (.trap cStore a (xlatInfo c.asid .vaHigh 0), s)
    else
      match c.target a with
      | .carve o => (.ok (), s.setCtx { c with carveMem := Mem.write c.carveMem o bytes })
      | .virt va =>
        match translate s (.thread t) 0 (c.tenant.getD 64) c.asid (c.priv == .u) va .write with
        | (.ok spa, s) => (.ok (), coreStore s t spa va bytes)
        | (r, s) => (xresTrap r c.asid cStore va, s)
  | .lodge k =>
    if inWindow a then (.ok (), windowStore s k a bytes)
    else if a.toNat < 0x200000 then
      (.ok (), if inJournal a.toNat then s
        else { s with sram := Mem.write s.sram a.toNat bytes,
                      sramBad := s.sramBad.filter fun w => !(bytes.length == 8 && w == a.toNat / 8) })
    else rawStore s (rawParty s.cur) a bytes
  | .assist _ => rawStore s (rawParty s.cur) a bytes

/-- What a meaning answers for a data access that did not succeed: it is tried again, traps, or meets no memory. -/
def dresOut {α : Type} (s : State) (r : DRes α) : Out :=
  match r with
  | .trap c f e => .next (trapHere s c f e)
  | .noMem a => .fault (.noMemory a)
  | _ => .next s

end Sys2Proof.Machine
end

