-- ==== Sys2Proof/Machine/Flags.lean ====
section
/-! DEFINITION. The machine has no flag register: no instruction sets a flag (R80). What other machines keep in flags
are here values: the comparisons of compares, minima and branches (R80, R83), and the conditions of WHEN (R87). -/

namespace Sys2Proof.Machine

/-- A comparison's result as a register value (R80). -/
def boolWord (b : Bool) : Word := if b then 1 else 0

/-- Signed less-than. -/
def lessS (a b : Word) : Bool := decide (a.toInt < b.toInt)

/-- Unsigned less-than. -/
def lessU (a b : Word) : Bool := decide (a.toNat < b.toNat)

/-- Whether a WHEN condition holds of a value (R87). -/
def condHolds (c : Cond) (v : Word) : Bool :=
  match c with
  | .z => v == 0
  | .nz => v != 0
  | .ltz => decide (v.toInt < 0)
  | .gez => decide (0 ≤ v.toInt)

end Sys2Proof.Machine
end

