-- ==== Sys2Proof/Machine/Operands.lean ====
section
/-! DEFINITION. Operand forms: immediates (R17), addresses of loads and stores (R24), tile offsets (R25), branch and jump
targets (R23), sizes and alignment (R167). -/

namespace Sys2Proof.Machine

/-- The short immediate of formats I, S and B (R17). -/
def immVal (imm : Imm14) : Word := imm.signExtend 64

/-- The length in bytes of an instruction with extension words (R15). -/
def extLen (e : Ext) : Nat := 4 + 4 * e.len

/-- The address of a load or store with a short immediate (R24). -/
def addrI (s : State) (rb : Reg) (imm : Imm14) : Word := s.g rb + immVal imm

/-- The address of a load or store with extension words (R24). -/
def addrE (s : State) (rb : Reg) (e : Ext) : Word := s.g rb + e.value

/-- The address of LDQ and STQ with a short offset, in 16-byte units (R24). -/
def addrQ (s : State) (rb : Reg) (off : BitVec 13) : Word := s.g rb + off.signExtend 64 * 16

/-- The byte offset of TLD and TST (R25). -/
def tileOff (s : State) (ro : Reg) : Word := s.g ro

/-- The byte offset of TLD and TST with ext0 (R25). -/
def tileOffE (s : State) (ro : Reg) (e0 : BitVec 32) : Word := s.g ro + e0.signExtend 64

/-- The target of a branch with a short offset (R23). -/
def targetB (pc : Word) (off : Imm14) : Word := pc + off.signExtend 64 * 4

/-- The target of a branch with ext0 (R23). -/
def targetE (pc : Word) (e0 : BitVec 32) : Word := pc + e0.signExtend 64 * 4

/-- The target of J and JAL (R23). -/
def targetJ (pc : Word) (off : BitVec 24) : Word := pc + off.signExtend 64 * 4

/-- Whether an address is a multiple of `n` (R167). -/
def aligned (a : Word) (n : Nat) : Bool := a.toNat % n == 0

/-- The bytes of a tile access (R25). -/
def accBytes : AccSize → Nat
  | .b => 1 | .h => 2 | .w => 4 | .d => 8

/-- The other register of a pair (R24). -/
def mate (r : Reg) : Reg := r + 1

/-- A loaded value of `n` bytes, sign-extended (R169). -/
def loadSigned (bs : List Byte) (n : Nat) : Word := BitVec.ofInt 64 (signedOf (8 * n) (leNat bs))

/-- A loaded value, zero-extended (R169). -/
def loadUnsigned (bs : List Byte) : Word := leWord bs

end Sys2Proof.Machine
end

