-- ==== Sys2Proof/Machine/Alu.lean ====
section
/-! DEFINITION. The ALU group (R80), the immediate group (R81), branches and jumps (R83, R84) and clause headers
(R86, R87). -/

namespace Sys2Proof.Machine

/-! Values (Table 4.6). -/

def minS (a b : Word) : Word := if lessS b a then b else a
def maxS (a b : Word) : Word := if lessS a b then b else a
def minU (a b : Word) : Word := if lessU b a then b else a
def maxU (a b : Word) : Word := if lessU a b then b else a
def mulHighS (a b : Word) : Word := BitVec.ofInt 64 (a.toInt * b.toInt / 2 ^ 64)
def mulHighU (a b : Word) : Word := BitVec.ofNat 64 (a.toNat * b.toNat / 2 ^ 64)

/-- The signed quotient: 0 for a zero divisor, saturated for -2^63 / -1, truncated toward zero. -/
def divS (a b : Word) : Word :=
  if b = 0 then 0
  else if a.toInt = -(2 ^ 63) ∧ b.toInt = -1 then 0x7FFFFFFFFFFFFFFF
  else BitVec.ofInt 64 (a.toInt.tdiv b.toInt)

/-- The unsigned quotient. -/
def divU (a b : Word) : Word := if b = 0 then 0 else BitVec.ofNat 64 (a.toNat / b.toNat)

/-- The signed remainder: the dividend for a zero divisor, the sign of the dividend. -/
def remS (a b : Word) : Word := if b = 0 then a else BitVec.ofInt 64 (a.toInt.tmod b.toInt)

/-- The unsigned remainder. -/
def remU (a b : Word) : Word := if b = 0 then a else BitVec.ofNat 64 (a.toNat % b.toNat)

/-- Leading zero bits of the `n` low bits. -/
def leadingZeros (a : Word) : Nat → Nat
  | 0 => 0
  | n + 1 => if a.getLsbD n then 0 else 1 + leadingZeros a n

/-- Trailing zero bits from bit `i` on, `n` bits looked at. -/
def trailingZeros (a : Word) (i : Nat) : Nat → Nat
  | 0 => 0
  | n + 1 => if a.getLsbD i then 0 else 1 + trailingZeros a (i + 1) n

/-- One bits among the `n` low bits. -/
def onesIn (a : Word) : Nat → Nat
  | 0 => 0
  | n + 1 => (if a.getLsbD n then 1 else 0) + onesIn a n

/-- A shift amount: the low six bits (R80). -/
def shamt (b : Word) : Nat := b.toNat % 64

/-- The ALU group's shape: a function of two registers. -/
def aluOp (s : State) (rd a b : Reg) (f : Word → Word → Word) : Out := finish s rd (f (s.g a) (s.g b)) 4

def execAluAdd (rd a b : Reg) (s : State) : Out := aluOp s rd a b (· + ·)
def execAluSub (rd a b : Reg) (s : State) : Out := aluOp s rd a b (· - ·)
def execAluAnd (rd a b : Reg) (s : State) : Out := aluOp s rd a b (· &&& ·)
def execAluOr (rd a b : Reg) (s : State) : Out := aluOp s rd a b (· ||| ·)
def execAluXor (rd a b : Reg) (s : State) : Out := aluOp s rd a b (· ^^^ ·)
def execAluSll (rd a b : Reg) (s : State) : Out := aluOp s rd a b fun x y => x <<< shamt y
def execAluSrl (rd a b : Reg) (s : State) : Out := aluOp s rd a b fun x y => x >>> shamt y
def execAluSra (rd a b : Reg) (s : State) : Out := aluOp s rd a b fun x y => x.sshiftRight (shamt y)
def execAluSlt (rd a b : Reg) (s : State) : Out := aluOp s rd a b fun x y => boolWord (lessS x y)
def execAluSltu (rd a b : Reg) (s : State) : Out := aluOp s rd a b fun x y => boolWord (lessU x y)
def execAluMin (rd a b : Reg) (s : State) : Out := aluOp s rd a b minS
def execAluMax (rd a b : Reg) (s : State) : Out := aluOp s rd a b maxS
def execAluMinu (rd a b : Reg) (s : State) : Out := aluOp s rd a b minU
def execAluMaxu (rd a b : Reg) (s : State) : Out := aluOp s rd a b maxU
def execAluMul (rd a b : Reg) (s : State) : Out := aluOp s rd a b (· * ·)
def execAluMulh (rd a b : Reg) (s : State) : Out := aluOp s rd a b mulHighS
def execAluMulhu (rd a b : Reg) (s : State) : Out := aluOp s rd a b mulHighU
def execAluDiv (rd a b : Reg) (s : State) : Out := aluOp s rd a b divS
def execAluDivu (rd a b : Reg) (s : State) : Out := aluOp s rd a b divU
def execAluRem (rd a b : Reg) (s : State) : Out := aluOp s rd a b remS
def execAluRemu (rd a b : Reg) (s : State) : Out := aluOp s rd a b remU

/-- CLZ. -/
def execClz (rd a : Reg) (s : State) : Out := finish s rd (BitVec.ofNat 64 (leadingZeros (s.g a) 64)) 4
/-- CTZ. -/
def execCtz (rd a : Reg) (s : State) : Out := finish s rd (BitVec.ofNat 64 (trailingZeros (s.g a) 0 64)) 4
/-- POPC. -/
def execPopc (rd a : Reg) (s : State) : Out := finish s rd (BitVec.ofNat 64 (onesIn (s.g a) 64)) 4

/-! The immediate group (R81). -/

def execAddi (rd a : Reg) (i : Imm14) (s : State) : Out := finish s rd (s.g a + immVal i) 4
def execAddiExt (rd a : Reg) (e : Ext) (s : State) : Out := finish s rd (s.g a + e.value) (extLen e)
def execAndi (rd a : Reg) (i : Imm14) (s : State) : Out := finish s rd (s.g a &&& immVal i) 4
def execAndiExt (rd a : Reg) (e : Ext) (s : State) : Out := finish s rd (s.g a &&& e.value) (extLen e)
def execOri (rd a : Reg) (i : Imm14) (s : State) : Out := finish s rd (s.g a ||| immVal i) 4
def execOriExt (rd a : Reg) (e : Ext) (s : State) : Out := finish s rd (s.g a ||| e.value) (extLen e)
def execXori (rd a : Reg) (i : Imm14) (s : State) : Out := finish s rd (s.g a ^^^ immVal i) 4
def execXoriExt (rd a : Reg) (e : Ext) (s : State) : Out := finish s rd (s.g a ^^^ e.value) (extLen e)
def execSlti (rd a : Reg) (i : Imm14) (s : State) : Out := finish s rd (boolWord (lessS (s.g a) (immVal i))) 4
def execSltiExt (rd a : Reg) (e : Ext) (s : State) : Out :=
  finish s rd (boolWord (lessS (s.g a) e.value)) (extLen e)
def execSlli (rd a : Reg) (sh : BitVec 6) (s : State) : Out := finish s rd (s.g a <<< sh.toNat) 4
def execSrli (rd a : Reg) (sh : BitVec 6) (s : State) : Out := finish s rd (s.g a >>> sh.toNat) 4
def execSrai (rd a : Reg) (sh : BitVec 6) (s : State) : Out := finish s rd ((s.g a).sshiftRight sh.toNat) 4

/-! Branches (R83). -/

/-- A branch: to the target when taken, otherwise past its words. -/
def branch (s : State) (taken : Bool) (target : Word) (len : Nat) : Out :=
  .next (retireTo s (if taken then target else s.ctx.pc + BitVec.ofNat 64 len))

def execBeq (a b : Reg) (o : Imm14) (s : State) : Out := branch s (s.g a == s.g b) (targetB s.ctx.pc o) 4
def execBeqExt (a b : Reg) (e : BitVec 32) (s : State) : Out := branch s (s.g a == s.g b) (targetE s.ctx.pc e) 8
def execBne (a b : Reg) (o : Imm14) (s : State) : Out := branch s (s.g a != s.g b) (targetB s.ctx.pc o) 4
def execBneExt (a b : Reg) (e : BitVec 32) (s : State) : Out := branch s (s.g a != s.g b) (targetE s.ctx.pc e) 8
def execBlt (a b : Reg) (o : Imm14) (s : State) : Out := branch s (lessS (s.g a) (s.g b)) (targetB s.ctx.pc o) 4
def execBltExt (a b : Reg) (e : BitVec 32) (s : State) : Out :=
  branch s (lessS (s.g a) (s.g b)) (targetE s.ctx.pc e) 8
def execBge (a b : Reg) (o : Imm14) (s : State) : Out := branch s (!lessS (s.g a) (s.g b)) (targetB s.ctx.pc o) 4
def execBgeExt (a b : Reg) (e : BitVec 32) (s : State) : Out :=
  branch s (!lessS (s.g a) (s.g b)) (targetE s.ctx.pc e) 8
def execBltu (a b : Reg) (o : Imm14) (s : State) : Out := branch s (lessU (s.g a) (s.g b)) (targetB s.ctx.pc o) 4
def execBltuExt (a b : Reg) (e : BitVec 32) (s : State) : Out :=
  branch s (lessU (s.g a) (s.g b)) (targetE s.ctx.pc e) 8
def execBgeu (a b : Reg) (o : Imm14) (s : State) : Out := branch s (!lessU (s.g a) (s.g b)) (targetB s.ctx.pc o) 4
def execBgeuExt (a b : Reg) (e : BitVec 32) (s : State) : Out :=
  branch s (!lessU (s.g a) (s.g b)) (targetE s.ctx.pc e) 8

/-! Jumps (R84). -/

/-- J. -/
def execJmp (o : BitVec 24) (s : State) : Out := .next (retireTo s (targetJ s.ctx.pc o))

/-- JAL: the link goes to g1. -/
def execJal (o : BitVec 24) (s : State) : Out :=
  .next (retireTo (s.setG 1 (s.ctx.pc + 4)) (targetJ s.ctx.pc o))

/-- JALR to a target computed before the link is written; a misaligned target traps and changes neither the link nor
the pc. -/
def jumpReg (s : State) (rd : Reg) (target : Word) (len : Nat) : Out :=
  if target.toNat % 4 = 0 then .next (retireTo (s.setG rd (s.ctx.pc + BitVec.ofNat 64 len)) target)
  else .next (trapHere s cMisalign target 0)

/-- JALR. -/
def execJalr (rd a : Reg) (i : Imm14) (s : State) : Out := jumpReg s rd (s.g a + immVal i) 4
/-- JALR_EXT. -/
def execJalrExt (rd a : Reg) (e : BitVec 32) (s : State) : Out := jumpReg s rd (s.g a + e.signExtend 64) 8

/-! Clause headers (R86, R87). -/

/-- A header issues: the clause begins at the next address. -/
def openClause (s : State) (k : ClauseKind) (count : Word) (hdrw : BitVec 32) (len : Nat) : Out :=
  let c := s.ctx
  .next (s.setCtx { c with retired := c.retired + 1, pc := c.pc + BitVec.ofNat 64 len, wait := none,
                           cl := { kind := k, hdr := c.pc, pos := 0, rem := count, hdrw := hdrw } })

/-- RPT with a register count. -/
def execRpt (a : Reg) (n : BitVec 4) (s : State) : Out := openClause s .rpt (s.g a) (firstWord (.rpt a n)) 4
/-- RPT with an immediate count. -/
def execRptImm (n : BitVec 4) (e : BitVec 32) (s : State) : Out :=
  openClause s .rpt (e.zeroExtend 64) (firstWord (.rptImm n e)) 8
/-- WHEN. -/
def execWhen (c : Cond) (a : Reg) (n : BitVec 4) (s : State) : Out :=
  openClause s (if condHolds c (s.g a) then .whenExec else .whenSkip) 0 (firstWord (.when c a n)) 4

end Sys2Proof.Machine
end

