-- ==== Sys2Proof/Machine/LoadStore.lean ====
section
/-! DEFINITION. Loads and stores (R169-R171), tile accesses (R172), atomic operations (R173-R176) and FENCE (R177). -/

namespace Sys2Proof.Machine

/-! Loads and stores. -/

/-- EINFO of a misaligned memory access: the first word (R168). -/
def missInfo (i : Instr) : Word := (firstWord i).zeroExtend 64

/-- A load of `n` bytes (R169): `mk` makes the register's value. -/
def loadOp (s : State) (i : Instr) (rd : Reg) (a : Word) (n : Nat) (mk : List Byte → Word) (len : Nat) : Out :=
  if !aligned a n then .next (trapHere s cMisalign a (missInfo i))
  else
    match dataLoad s a n false with
    | (.ok bs, s') => finish s' rd (mk bs) len
    | (r, s') => dresOut s' r

/-- A store of the `n` low bytes of a register (R170). -/
def storeOp (s : State) (i : Instr) (rs : Reg) (a : Word) (n : Nat) (len : Nat) : Out :=
  if !aligned a n then .next (trapHere s cMisalign a (missInfo i))
  else
    match dataStore s a (leBytes n (s.g rs).toNat) with
    | (.ok _, s') => .next (retire s' len)
    | (r, s') => dresOut s' r

/-- LDB. -/
def execLdb (rd rb : Reg) (imm : Imm14) (s : State) : Out :=
  loadOp s (.ldb rd rb imm) rd (addrI s rb imm) 1 (fun bs => loadSigned bs 1) 4
/-- LDB_EXT. -/
def execLdbExt (rd rb : Reg) (e : Ext) (s : State) : Out :=
  loadOp s (.ldbExt rd rb e) rd (addrE s rb e) 1 (fun bs => loadSigned bs 1) (extLen e)
/-- LDBU. -/
def execLdbu (rd rb : Reg) (imm : Imm14) (s : State) : Out :=
  loadOp s (.ldbu rd rb imm) rd (addrI s rb imm) 1 loadUnsigned 4
/-- LDBU_EXT. -/
def execLdbuExt (rd rb : Reg) (e : Ext) (s : State) : Out :=
  loadOp s (.ldbuExt rd rb e) rd (addrE s rb e) 1 loadUnsigned (extLen e)
/-- LDH. -/
def execLdh (rd rb : Reg) (imm : Imm14) (s : State) : Out :=
  loadOp s (.ldh rd rb imm) rd (addrI s rb imm) 2 (fun bs => loadSigned bs 2) 4
/-- LDH_EXT. -/
def execLdhExt (rd rb : Reg) (e : Ext) (s : State) : Out :=
  loadOp s (.ldhExt rd rb e) rd (addrE s rb e) 2 (fun bs => loadSigned bs 2) (extLen e)
/-- LDHU. -/
def execLdhu (rd rb : Reg) (imm : Imm14) (s : State) : Out :=
  loadOp s (.ldhu rd rb imm) rd (addrI s rb imm) 2 loadUnsigned 4
/-- LDHU_EXT. -/
def execLdhuExt (rd rb : Reg) (e : Ext) (s : State) : Out :=
  loadOp s (.ldhuExt rd rb e) rd (addrE s rb e) 2 loadUnsigned (extLen e)
/-- LDW. -/
def execLdw (rd rb : Reg) (imm : Imm14) (s : State) : Out :=
  loadOp s (.ldw rd rb imm) rd (addrI s rb imm) 4 (fun bs => loadSigned bs 4) 4
/-- LDW_EXT. -/
def execLdwExt (rd rb : Reg) (e : Ext) (s : State) : Out :=
  loadOp s (.ldwExt rd rb e) rd (addrE s rb e) 4 (fun bs => loadSigned bs 4) (extLen e)
/-- LDWU. -/
def execLdwu (rd rb : Reg) (imm : Imm14) (s : State) : Out :=
  loadOp s (.ldwu rd rb imm) rd (addrI s rb imm) 4 loadUnsigned 4
/-- LDWU_EXT. -/
def execLdwuExt (rd rb : Reg) (e : Ext) (s : State) : Out :=
  loadOp s (.ldwuExt rd rb e) rd (addrE s rb e) 4 loadUnsigned (extLen e)
/-- LDD. -/
def execLdd (rd rb : Reg) (imm : Imm14) (s : State) : Out :=
  loadOp s (.ldd rd rb imm) rd (addrI s rb imm) 8 loadUnsigned 4
/-- LDD_EXT. -/
def execLddExt (rd rb : Reg) (e : Ext) (s : State) : Out :=
  loadOp s (.lddExt rd rb e) rd (addrE s rb e) 8 loadUnsigned (extLen e)
/-- STB. -/
def execStb (rs rb : Reg) (imm : Imm14) (s : State) : Out := storeOp s (.stb rs rb imm) rs (addrI s rb imm) 1 4
/-- STB_EXT. -/
def execStbExt (rs rb : Reg) (e : Ext) (s : State) : Out :=
  storeOp s (.stbExt rs rb e) rs (addrE s rb e) 1 (extLen e)
/-- STH. -/
def execSth (rs rb : Reg) (imm : Imm14) (s : State) : Out := storeOp s (.sth rs rb imm) rs (addrI s rb imm) 2 4
/-- STH_EXT. -/
def execSthExt (rs rb : Reg) (e : Ext) (s : State) : Out :=
  storeOp s (.sthExt rs rb e) rs (addrE s rb e) 2 (extLen e)
/-- STW. -/
def execStw (rs rb : Reg) (imm : Imm14) (s : State) : Out := storeOp s (.stw rs rb imm) rs (addrI s rb imm) 4 4
/-- STW_EXT. -/
def execStwExt (rs rb : Reg) (e : Ext) (s : State) : Out :=
  storeOp s (.stwExt rs rb e) rs (addrE s rb e) 4 (extLen e)
/-- STD. -/
def execStd (rs rb : Reg) (imm : Imm14) (s : State) : Out := storeOp s (.std rs rb imm) rs (addrI s rb imm) 8 4
/-- STD_EXT. -/
def execStdExt (rs rb : Reg) (e : Ext) (s : State) : Out :=
  storeOp s (.stdExt rs rb e) rs (addrE s rb e) 8 (extLen e)

/-! Pairs (R171). -/

/-- LDQ: 16 aligned bytes, never served by the data cache (R160); with rd = g0 only g1 is written. -/
def loadQuad (s : State) (i : Instr) (rd : Reg) (a : Word) (len : Nat) : Out :=
  if !aligned a 16 then .next (trapHere s cMisalign a (missInfo i))
  else
    match dataLoad s a 16 true with
    | (.ok bs, s') => .next (retire ((s'.setG rd (leWord (bs.take 8))).setG (mate rd) (leWord (bs.drop 8))) len)
    | (r, s') => dresOut s' r

/-- The elements of a pair's 16 bytes from address `a` on. -/
def quadElems (a : Word) (bs : List Byte) (es : Bool) : List (Word × List Byte) :=
  if es then [(a, bs.take 8), (a + 8, bs.drop 8)]
  else [(a, bs.take 4), (a + 4, (bs.drop 4).take 4), (a + 8, (bs.drop 8).take 4), (a + 12, bs.drop 12)]

/-- A store that is not one of STB to STD: into a lodge core's control window it stores nothing (R348). -/
def otherStore (s : State) (a : Word) (bs : List Byte) : DRes Unit × State :=
  match s.cur with
  | .lodge _ => if inWindow a then (.ok (), s) else dataStore s a bs
  | _ => dataStore s a bs

/-- Stores of several elements that one translation covers: a fault on the first accesses none. -/
def storeElems (s : State) : List (Word × List Byte) → DRes Unit × State
  | [] => (.ok (), s)
  | (a, bs) :: t =>
    match otherStore s a bs with
    | (.ok _, s') => storeElems s' t
    | r => r

/-- STQ: one store for each element, which alone is single-copy atomic (R163). -/
def storeQuad (s : State) (i : Instr) (rs : Reg) (a : Word) (es : Bool) (len : Nat) : Out :=
  if !aligned a 16 then .next (trapHere s cMisalign a (missInfo i))
  else
    let bs := leBytes 8 (s.g rs).toNat ++ leBytes 8 (s.g (mate rs)).toNat
    match storeElems s (quadElems a bs es) with
    | (.ok _, s') => .next (retire s' len)
    | (r, s') => dresOut s' r

/-- LDQ. -/
def execLdq (rd rb : Reg) (off : BitVec 13) (es : Bool) (s : State) : Out :=
  loadQuad s (.ldq rd rb off es) rd (addrQ s rb off) 4
/-- LDQ_EXT. -/
def execLdqExt (rd rb : Reg) (es : Bool) (e : Ext) (s : State) : Out :=
  loadQuad s (.ldqExt rd rb es e) rd (addrE s rb e) (extLen e)
/-- STQ. -/
def execStq (rs rb : Reg) (off : BitVec 13) (es : Bool) (s : State) : Out :=
  storeQuad s (.stq rs rb off es) rs (addrQ s rb off) es 4
/-- STQ_EXT. -/
def execStqExt (rs rb : Reg) (es : Bool) (e : Ext) (s : State) : Out :=
  storeQuad s (.stqExt rs rb es e) rs (addrE s rb e) es (extLen e)

/-! Tile accesses (R172). -/

/-- The state code of a tile (Table 7.1). -/
def TileSt.code : TileSt → Nat
  | .free => 0 | .empty => 1 | .filling => 2 | .ready => 3 | .draining => 4

/-- The row bytes of a tile (R151). -/
def Tile.rowBytes (t : Tile) : Nat := t.cols * (2 * 2 ^ t.esz) / 8

/-- The size of a tile in bytes (R151). -/
def Tile.size (t : Tile) : Nat := t.rows * t.rowBytes

/-- EINFO of a tile access (R168). -/
def tileInfo (h : BitVec 8) (st : Nat) (i : Instr) : Word :=
  BitVec.ofNat 64 ((firstWord i).toNat + st * 2 ^ 32 + 2 ^ 35 + h.toNat * 2 ^ 40)

/-- What TLD and TST check, in order, before their access: `k` runs when they pass. -/
def tileCheck (s : State) (i : Instr) (h : BitVec 8) (off : Word) (n cause : Nat) (k : Out) : Out :=
  if !s.isThread then .next (trapHere s cTile 0 (tileInfo h 0 i))
  else
    let t := s.tile s.curPlot h.toNat
    let info := tileInfo h t.st.code i
    match t.st with
    | .filling | .draining => .next s
    | .free | .empty => .next (trapHere s cTile 0 info)
    | .ready =>
      if !aligned off n then .next (trapHere s cMisalign off info)
      else if t.size ≤ off.toNat ∨ t.size < off.toNat + n then .next (trapHere s cause off info)
      else k

/-- TLD: zero-extended. -/
def tileLoad (s : State) (i : Instr) (rd : Reg) (h : BitVec 8) (off : Word) (n len : Nat) : Out :=
  tileCheck s i h off n cLoad
    (finish s rd (leWord (Mem.read (s.tile s.curPlot h.toNat).bytes off.toNat n)) len)

/-- The tile with bytes stored. -/
def Tile.store (t : Tile) (off : Nat) (bs : List Byte) : Tile := { t with bytes := Mem.write t.bytes off bs }

/-- TST. -/
def tileStore (s : State) (i : Instr) (rs : Reg) (h : BitVec 8) (off : Word) (n len : Nat) : Out :=
  tileCheck s i h off n cStore
    (.next (retire (s.setTile s.curPlot h.toNat
      ((s.tile s.curPlot h.toNat).store off.toNat (leBytes n (s.g rs).toNat))) len))

/-- TLD. -/
def execTld (rd ro : Reg) (h : BitVec 8) (sz : AccSize) (s : State) : Out :=
  tileLoad s (.tld rd ro h sz) rd h (tileOff s ro) (accBytes sz) 4
/-- TLD_EXT. -/
def execTldExt (rd ro : Reg) (h : BitVec 8) (sz : AccSize) (e0 : BitVec 32) (s : State) : Out :=
  tileLoad s (.tldExt rd ro h sz e0) rd h (tileOffE s ro e0) (accBytes sz) 8
/-- TST. -/
def execTst (rs ro : Reg) (h : BitVec 8) (sz : AccSize) (s : State) : Out :=
  tileStore s (.tst rs ro h sz) rs h (tileOff s ro) (accBytes sz) 4
/-- TST_EXT. -/
def execTstExt (rs ro : Reg) (h : BitVec 8) (sz : AccSize) (e0 : BitVec 32) (s : State) : Out :=
  tileStore s (.tstExt rs ro h sz e0) rs h (tileOffE s ro e0) (accBytes sz) 8

/-! Atomic operations (R173). -/

/-- Eight-byte loads in order: their bytes, or what stopped them. -/
def loadWords (s : State) (a : Word) : Nat → List Byte → DRes (List Byte) × State
  | 0, acc => (.ok acc, s)
  | m + 1, acc =>
    match dataLoad s a 8 false with
    | (.ok bs, s) => loadWords s (a + 8) m (acc ++ bs)
    | (r, s) => (r, s)

/-- The plot's threads' issued stores that touch some bytes, performed: what an AMO of the plot finds at the home. -/
def drainOver (s : State) (plot spa n : Nat) : State :=
  drainIf s fun p => p.ofPlot plot && overlaps p.spa p.bytes.length spa n

/-- The bytes of an AMO. -/
def amoSize (dw : Bool) : Nat := if dw then 8 else 4

/-- The lesser and the greater, signed, of values of an AMO's size. -/
def amoMinS (dw : Bool) (a b : Nat) : Nat := if signedOf (8 * amoSize dw) b < signedOf (8 * amoSize dw) a then b else a
def amoMaxS (dw : Bool) (a b : Nat) : Nat := if signedOf (8 * amoSize dw) a < signedOf (8 * amoSize dw) b then b else a

/-- FADD (Table 7.9): RNE in FP32 or FP64. -/
def faddBits (dw : Bool) (a b : Nat) : Nat :=
  let F := if dw then fp64 else fp32
  F.round .rne false (Val.add .rne (F.val a) (F.val b))

/-- What an AMO stores for the old value (Table 7.9), by its code; a failed CAS stores nothing. -/
def AmoReq.new (q : AmoReq) (old : Nat) : Option Nat :=
  let m := 2 ^ (8 * amoSize q.dw)
  let x := q.v.toNat % m
  match q.op with
  | 0 => some ((old + x) % m)
  | 1 => some (old &&& x)
  | 2 => some (old ||| x)
  | 3 => some (old ^^^ x)
  | 4 => some (amoMinS q.dw old x)
  | 5 => some (amoMaxS q.dw old x)
  | 6 => some (min old x)
  | 7 => some (max old x)
  | 8 => some x
  | 9 => if old = q.c.toNat % m then some x else none
  | _ => some (faddBits q.dw old x % m)

/-- One atomic operation at an address homed here: the old value, and the new one stored when there is one, as store `id` of its
thread if it has a number. -/
def amoHome (s : State) (party : Holder) (tenant asid : Nat) (lnch : Option Nat) (va : Word) (spa : Nat) (q : AmoReq)
    (id : Nat := 0) : Nat × State :=
  let n := amoSize q.dw
  let old := leNat (Mem.read s.mem spa n)
  match q.new old with
  | none => (old, s)
  | some v =>
    (old, performStore s { id := id, party := party, tenant := tenant, asid := asid, va := va, spa := spa,
                           bytes := leBytes n v, lnch := lnch })

/-- Whether a party's stores to some bytes, for a thread or a core those of its plot, are still on their way to the package the
bytes are homed in. -/
def State.awaits (s : State) (h : Holder) (spa n : Nat) : Bool :=
  s.pend.any fun p => !s.isLocal p.spa && overlaps p.spa p.bytes.length spa n &&
    (match h with | .thread t => p.ofPlot (t / 8) | .core k => p.ofPlot k | _ => p.party == h)

/-- An AMO sent to the package its bytes are homed in (R242, R385), after the earlier stores to them: its old value once
answered. The tenant, the ASID and the virtual address are those it is bound under (R256). -/
def amoRemote (s : State) (party : Holder) (v asid va spa : Nat) (q : AmoReq) : DRes Nat × State :=
  match s.remotes.find? fun r => r.party == party && r.spa == spa && r.amo == some q with
  | none =>
    if s.awaits party spa (amoSize q.dw) then (.wait, s)
    else
      (.wait, sendFlit { s with remotes := s.remotes ++ [{ id := s.nextId, party := party, spa := spa, n := amoSize q.dw,
                                                           since := s.cycle, amo := some q, tenant := v, asid := asid, va := va }],
                                nextId := s.nextId + 1 } (.amo s.nextId q.op spa q.dw q.v q.c))
  | some r =>
    let done := { s with remotes := s.remotes.filter fun x => x.id != r.id }
    match r.st with
    | .sent => (.wait, s)
    | .answered => (.ok (leNat r.got), done)
    | .failed => (.trap cUncorr 0 (lineInfo spa), done)

/-- An AMO of a context that does no translation, in system memory. -/
def amoRaw (s : State) (h : Holder) (a : Word) (q : AmoReq) : DRes Nat × State :=
  if !mapsMemory a.toNat then (.noMem a.toNat, s)
  else if !s.isLocal a.toNat then amoRemote s h 64 0 a.toNat a.toNat q
  else if s.isBad a.toNat (amoSize q.dw) then (.trap cUncorr a (lineInfo a.toNat), s)
  else let r := amoHome s h 64 0 none a a.toNat q; (.ok r.1, r.2)

/-- The access of an AMO by the issuing context. -/
def amoAccess (s : State) (a : Word) (q : AmoReq) : DRes Nat × State :=
  let n := amoSize q.dw
  match s.cur with
  | .thread t =>
    let c := s.ctx
    match c.target a with
    | .carve o =>
      let old := leNat (Mem.read c.carveMem o n)
      match q.new old with
      | none => (.ok old, s)
      | some v => (.ok old, s.setCtx { c with carveMem := Mem.write c.carveMem o (leBytes n v) })
    | .virt va =>
      let v := c.tenant.getD 64
      match translate s (.thread t) 0 v c.asid (c.priv == .u) va .write with
      | (.ok spa, s) =>
        let s := drainOver (dropLine s (t / 8) spa) (t / 8) spa n
        if !s.isLocal spa then
          match amoRemote s (.thread t) v c.asid va.toNat spa q with
          | (.trap k _ e, s) => (.trap k a e, s)
          | r => r
        else if s.isBad spa n then (.trap cUncorr a (lineInfo spa), s)
        else
          let r := amoHome s (.thread t) v c.asid (some c.lnch) va spa q
          (.ok r.1, r.2)
      | (r, s) => (xresTrap r c.asid cStore va, s)
  | .lodge _ =>
    if inWindow a then (.ok 0, s)
    else if a.toNat < 0x200000 then
      let old := leNat (sramRead s a.toNat n)
      match q.new old with
      | none => (.ok old, s)
      | some v => match dataStore s a (leBytes n v) with
        | (.ok _, s) => (.ok old, s)
        | (_, s) => (.wait, s)
    else amoRaw s (rawParty s.cur) a q
  | .assist _ => amoRaw s (rawParty s.cur) a q

/-- Whether the issuing thread's launch is reproducible (R175). -/
def State.repro (s : State) : Bool := s.isThread && s.isRepro (some s.ctx.lnch)

/-- The release and acquire halves of an order modifier (R174). -/
def ordRel : AmoOrder → Bool | .rel | .acqrel => true | _ => false
def ordAcq : AmoOrder → Bool | .acq | .acqrel => true | _ => false

/-- An AMO other than a buffered FADD (R173, R174), with its code and comparand. -/
def amoRun (s : State) (i : Instr) (op : Nat) (rd rs1 rs2 : Reg) (ret dw : Bool) (ord : AmoOrder) : Out :=
  let n := amoSize dw
  let a := s.g rs1
  if !aligned a n then .next (trapHere s cMisalign a (missInfo i))
  else if s.isThread ∧ 2 ^ 56 ≤ a.toNat then .next (trapHere s cStore a (xlatInfo s.ctx.asid .vaHigh 0))
  else if s.repro ∧ ret then .next (trapHere s cRepro 0 0)
  else
    match amoAccess (if ordRel ord then release s else s) a { op := op, dw := dw, v := s.g rs2, c := s.g rd } with
    | (.ok old, s) =>
      let s := if ordAcq ord then acquire s else s
      finish s (if ret then rd else 0) (BitVec.ofInt 64 (signedOf (8 * n) old)) 4
    | (r, s) => dresOut s r

/-- AMOADD. -/
def execAmoAdd (rd rs1 rs2 : Reg) (ret dw : Bool) (ord : AmoOrder) (s : State) : Out :=
  amoRun s (.amoAdd rd rs1 rs2 ret dw ord) 0 rd rs1 rs2 ret dw ord
/-- AMOAND. -/
def execAmoAnd (rd rs1 rs2 : Reg) (ret dw : Bool) (ord : AmoOrder) (s : State) : Out :=
  amoRun s (.amoAnd rd rs1 rs2 ret dw ord) 1 rd rs1 rs2 ret dw ord
/-- AMOOR. -/
def execAmoOr (rd rs1 rs2 : Reg) (ret dw : Bool) (ord : AmoOrder) (s : State) : Out :=
  amoRun s (.amoOr rd rs1 rs2 ret dw ord) 2 rd rs1 rs2 ret dw ord
/-- AMOXOR. -/
def execAmoXor (rd rs1 rs2 : Reg) (ret dw : Bool) (ord : AmoOrder) (s : State) : Out :=
  amoRun s (.amoXor rd rs1 rs2 ret dw ord) 3 rd rs1 rs2 ret dw ord
/-- AMOMIN. -/
def execAmoMin (rd rs1 rs2 : Reg) (ret dw : Bool) (ord : AmoOrder) (s : State) : Out :=
  amoRun s (.amoMin rd rs1 rs2 ret dw ord) 4 rd rs1 rs2 ret dw ord
/-- AMOMAX. -/
def execAmoMax (rd rs1 rs2 : Reg) (ret dw : Bool) (ord : AmoOrder) (s : State) : Out :=
  amoRun s (.amoMax rd rs1 rs2 ret dw ord) 5 rd rs1 rs2 ret dw ord
/-- AMOMINU. -/
def execAmoMinu (rd rs1 rs2 : Reg) (ret dw : Bool) (ord : AmoOrder) (s : State) : Out :=
  amoRun s (.amoMinu rd rs1 rs2 ret dw ord) 6 rd rs1 rs2 ret dw ord
/-- AMOMAXU. -/
def execAmoMaxu (rd rs1 rs2 : Reg) (ret dw : Bool) (ord : AmoOrder) (s : State) : Out :=
  amoRun s (.amoMaxu rd rs1 rs2 ret dw ord) 7 rd rs1 rs2 ret dw ord
/-- AMOSWAP. -/
def execAmoSwap (rd rs1 rs2 : Reg) (ret dw : Bool) (ord : AmoOrder) (s : State) : Out :=
  amoRun s (.amoSwap rd rs1 rs2 ret dw ord) 8 rd rs1 rs2 ret dw ord
/-- AMOCAS: the operand is stored when the old value equals the low bytes of rd. -/
def execAmoCas (rd rs1 rs2 : Reg) (dw : Bool) (ord : AmoOrder) (s : State) : Out :=
  amoRun s (.amoCas rd rs1 rs2 dw ord) 9 rd rs1 rs2 true dw ord

/-- Whether a buffered FADD may store where it points (R173): its carve-out, or a page it may write (log 20). -/
def faddPage (s : State) (a : Word) : DRes Unit × State :=
  match s.cur, s.ctx.target a with
  | .thread t, .virt va =>
    match translate s (.thread t) 0 s.curTenant s.ctx.asid (s.ctx.priv == .u) va .write with
    | (.ok _, s) => (.ok (), s)
    | (r, s) => (xresTrap r s.ctx.asid cStore va, s)
  | _, _ => (.ok (), s)

/-- AMOFADD: in a reproducible launch the contribution is buffered (R176); a full buffer holds the thread. -/
def execAmoFadd (rs1 rs2 : Reg) (dw : Bool) (ord : AmoOrder) (s : State) : Out :=
  let n := amoSize dw
  let a := s.g rs1
  if s.repro ∧ aligned a n ∧ a.toNat < 2 ^ 56 then
    if 1024 ≤ s.ctx.fadd.length then .next s
    else
      match faddPage (if ordRel ord then release s else s) a with
      | (.ok _, s) =>
        let c := s.ctx
        let e : FaddEntry :=
          { addr := a, size := n, v := BitVec.ofNat 64 ((s.g rs2).toNat % 2 ^ (8 * n)), u := c.priv == .u, asid := c.asid,
            num := s.nextId }
        let s := { s.setCtx { c with fadd := c.fadd ++ [e] } with nextId := s.nextId + 1 }
        .next (retire (if ordAcq ord then acquire s else s) 4)
      | (r, s) => dresOut s r
  else amoRun s (.amoFadd rs1 rs2 dw ord) 10 0 rs1 rs2 false dw ord

/-! Merges (R176). -/

/-- One contribution to memory, as the thread that appended it sees memory: whether it is done. One whose page can no longer be
written is dropped (log 20). `id` is the number the thread is known by. -/
def mergeVirt (s : State) (id v asid lnch : Nat) (va : Word) (e : FaddEntry) : Bool × State :=
  let tid := id % 8192
  let q : AmoReq := { op := 10, dw := e.size == 8, v := e.v, c := 0 }
  let h : Holder := .core (tid / 8)
  match translate s h 0 v asid e.u va .write with
  | (.ok spa, s) =>
    let s := drainOver (dropLine s (tid / 8) spa) (tid / 8) spa e.size
    if s.isLocal spa then (true, (amoHome s (.thread id) v asid (some lnch) va spa q e.num).2)
    else
      match amoRemote s h v asid va.toNat spa q with
      | (.wait, s) => (false, s)
      | (_, s) => (true, s)
  | (.wait, s) => (false, s)
  | (_, s) => (true, s)

/-- Contributions of a context of the thread known as `id` in program order: whether all are done, and the context with those that
are not. -/
def mergeFadds (s : State) (id : Nat) (c : Ctx) : List FaddEntry → (Bool × Ctx) × State
  | [] => ((true, { c with fadd := [] }), s)
  | e :: es =>
    match c.target e.addr with
    | .carve o =>
      let q : AmoReq := { op := 10, dw := e.size == 8, v := e.v, c := 0 }
      let old := leNat (Mem.read c.carveMem o e.size)
      mergeFadds s id { c with carveMem := Mem.write c.carveMem o (leBytes e.size ((q.new old).getD 0)) } es
    | .virt va =>
      match mergeVirt s id (c.tenant.getD 64) e.asid c.lnch va e with
      | (true, s) => mergeFadds s id c es
      | (false, s) => ((false, { c with fadd := e :: es }), s)

/-- The numbers under which sets and gates know a thread of a launch that has been pre-empted, and one that has ended, whose
context another thread may hold since. -/
def parkedId (slot tid : Nat) : Nat := 8192 + slot * 8192 + tid
def endedId (slot tid : Nat) : Nat := 2 ^ 28 + slot * 8192 + tid

/-- The thread and the launch that such a number, or a running thread's, stands for. -/
def State.arriver (s : State) (id : Nat) : Nat × Nat :=
  if id < 8192 then (id, (s.thread id).lnch)
  else if id < 2 ^ 28 then (id % 8192, (id - 8192) / 8192)
  else (id % 8192, (id - 2 ^ 28) / 8192)

/-- A context that holds what an ended thread of launch `i` left in its buffer. -/
def endedCtx (s : State) (i : Nat) : Ctx :=
  { lnch := i, tenant := some ((s.slot i).queue / 64) }

/-- The buffer of one arriver merged: a running thread's, one saved with its pre-empted launch, or what an ended thread left. -/
def mergeMember (s : State) (id : Nat) : Bool × State :=
  let t := (s.arriver id).1
  let i := (s.arriver id).2
  if id < 8192 then
    let r := mergeFadds s id (s.thread t) (s.thread t).fadd
    (r.1.1, if (s.thread t).fadd.isEmpty then s else r.2.setThread t r.1.2)
  else if id < 2 ^ 28 then
    match (s.cutsOf i).last.threads.find? fun e => e.1 = t with
    | some e =>
      let r := mergeFadds s id e.2 e.2.fadd
      let k := r.2.cutsOf i
      (r.1.1, r.2.setCuts i { k with last := { k.last with threads := k.last.threads.map fun x => if x.1 = t then (t, r.1.2) else x } })
    | none => (true, s)
  else
    let x := s.slot i
    let mine := (x.fadds.filter fun e => e.1 = t).map fun e => e.2
    let r := mergeFadds s id (endedCtx s i) mine
    (r.1.1, r.2.setSlot i { r.2.slot i with fadds := (x.fadds.filter fun e => e.1 ≠ t) ++ r.1.2.fadd.map fun e => (t, e) })

/-- The buffers of several arrivers merged in increasing thread id, as far as they can be now: whether all are (R176). -/
def mergeMembers (s : State) (ids : List Nat) : Bool × State :=
  (ids.mergeSort fun a b => decide ((s.arriver a).1 ≤ (s.arriver b).1)).foldl
    (fun r id => if r.1 then mergeMember r.2 id else r) (true, s)

end Sys2Proof.Machine
end

