-- ==== Sys2Proof/Machine/Sys.lean ====
section
/-! DEFINITION. Fences (R177), the SYS group (R93-R95, R340-R344), the TLB group (R254-R256), the two outcomes of
decoding (R18), and the events of translation and of performing stores (R162, R244, R252, R255). -/

namespace Sys2Proof.Machine

/-- A meaning run as another agent; the agent that issues otherwise is kept. -/
def asAgent (s : State) (a : Agent) (f : State → Out) : Out :=
  match f { s with cur := a } with
  | .next s' => .next { s' with cur := s.cur }
  | r => r

/-! FENCE (R177). -/

/-- Whether a scope reaches beyond the plot. -/
def wideScope : Scope → Bool
  | .plot => false
  | _ => true

/-- Whether derived updates of a thread's stores are still to be applied; held ones are not waited for (R287). -/
def State.drvPending (s : State) (tid : Nat) : Bool :=
  s.regions.any fun r => r.2.queue.any fun u => u.party == .thread tid

/-- What a fence of kinds 0 to 3 does: earlier stores performed, the data cache invalidated. At plot scope a thread's
stores are performed as they issue. -/
def fenceEffect (s : State) (sc : Scope) (k : FenceKind) : State :=
  match k with
  | .full => if wideScope sc then acquire (release s) else noteAcquire s
  | .acq => if wideScope sc then acquire s else noteAcquire s
  | .rel | .ss => if wideScope sc then release s else s
  | .drv => release s
  | .cmd => s

/-- Whether a fence still waits for stores that precede it to be performed in other packages: at domain and system scope
(R385). -/
def fenceWaits (s : State) (sc : Scope) (k : FenceKind) : Bool :=
  (sc == .dom || sc == .sys) && (k == .full || k == .rel || k == .ss) && s.unacked

/-- FENCE: kind derived holds the thread until the updates of its earlier stores are applied; kind command finds every
earlier command accepted, since a command's status is returned at acceptance. -/
def execFence (sc : Scope) (k : FenceKind) (s : State) : Out :=
  let s' := fenceEffect s sc k
  if (k = .drv ∧ s.isThread ∧ s'.drvPending s.curTid) ∨ fenceWaits s' sc k then .next s' else .next (retire s' 4)

/-! SYS. -/

/-- ILLEGAL (R18). -/
def execIllegal (w : BitVec 32) (s : State) : Out := .next (trapIllegal s w)

/-- FETCHFAULT (R18): FBYTE is the instruction's first byte, FADDR the word that could not be fetched. -/
def execFetchfault (faddr info : Word) (s : State) : Out := .next (trapHere s cFetch faddr info)

/-- TRAP's trap: EPC is NextPC, FBYTE its own address (R341) (log 58). -/
def trapInsn (s : State) (info : Word) (len : Nat) : Out :=
  let pc := s.ctx.pc
  .next (takeTrap s s.cur cTrap (pc + BitVec.ofNat 64 len) pc 0 info)

/-- TRAP. -/
def execTrap (rs1 : Reg) (s : State) : Out := trapInsn s (s.g rs1) 4
/-- TRAP_IMM. -/
def execTrapImm (e0 : BitVec 32) (s : State) : Out := trapInsn s (e0.zeroExtend 64) 8

/-- BRK (R342). -/
def execBrk (s : State) : Out := .next (trapHere s cBreak s.ctx.pc 0)

/-- SUBN_ASSIST on a plot's assist context, which enters at ASSISTVEC (R201). -/
def takeAssist (s : State) (p : Nat) : State := takeTrap s (.assist p) cAssist 0 0 0 0

/-- The assist context enters its handler for the first waiting column, when it is free, none is being completed, and the cycle
in which that column's tile stopped is over (R201). -/
def presentAssist (s : State) (p : Nat) : State :=
  let x := s.plot p
  if x.await ∨ x.assist.st ≠ .free ∨ (x.apend.all fun r => decide (s.cycle ≤ r.at_)) then s else takeAssist s p

/-- ERET (R343); on the assist context it ends the handler, and a column presented meanwhile is taken (R201). -/
def execEret (s : State) : Out :=
  needPriv s .s .eret <|
    match eretCtx s.ctx with
    | none => .next (trapIllegal s (firstWord .eret))
    | some c =>
      match s.cur with
      | .assist p =>
        .next (presentAssist (s.setCtx { c with st := .free }) p)
      | _ => .next (s.setCtx c)

/-- WAIT (R93): its limit counts from its first trial, also when that load waits. -/
def execWaitLoc (rd rs1 rs2 : Reg) (s : State) : Out :=
  let i : Instr := .waitLoc rd rs1 rs2
  let a := s.g rs1
  if !aligned a 8 then .next (trapHere s cMisalign a (missInfo i))
  else
    match dataLoad s a 8 true with
    | (.ok bs, s') =>
      if leWord bs ≠ s.g rd then status s' rd stOK
      else if expired s i (s.g rs2) then status s' rd stBUSY
      else waitIn s' i 0
    | (.wait, s') => waitIn s' i 0
    | (r, s') => dresOut s' r

/-- EXIT (R94): the context enters ENDING; ILLEGAL where no thread runs. -/
def execExitThread (s : State) : Out :=
  if s.isThread then
    let c := s.ctx
    .next (s.setCtx { c with st := .ending, retired := c.retired + 1, wait := none, cl := {} })
  else .next (trapIllegal s (firstWord .exitThread))

/-- NOP (R95). -/
def execNop (s : State) : Out := .next (retire s 4)

/-- The plots an ICINV reaches (R344, R161); one of domain scope is sent to the other packages too (R385). -/
def icReaches (sc : IcScope) (mine p : Nat) : Bool :=
  match sc with
  | .plot => p == mine
  | .die => dieOf p == dieOf mine
  | .pkg | .dom => true

/-- Cached instruction lines of a tenant that overlap a range discarded in a plot. -/
def Plot.dropCode (x : Plot) (v a n : Nat) : Plot :=
  { x with icache := x.icache.filter fun l => !(l.tenant == v && decide (a < l.line * 64 + 64) && decide (l.line * 64 < a + n)) }

/-- ICINV (R344): its release, of domain scope a release of that scope (R385), then a wait until every core in scope has
discarded the lines (log 64) (log 67). -/
def execIcinv (rd rs1 rs2 : Reg) (sc : IcScope) (s : State) : Out :=
  let i : Instr := .icinv rd rs1 rs2 sc
  let a := (s.g rs1).toNat
  let n := (s.g rs2).toNat
  onThread s rd <|
    if n = 0 ∨ 2 ^ 32 < n ∨ 2 ^ 56 ≤ a ∨ 2 ^ 56 < a + n then status s rd stBADARG
    else
      match markOf s i with
      | none =>
        let s := release s
        waitIn (if sc = .dom then sendFlit s (.icinv s.curTenant (s.g rs1) n) else s) i 0
      | some _ =>
        if sc = .dom ∧ s.unacked then waitIn s i 0 else
        let p := s.curPlot
        let v := s.curTenant
        status { s with plots := Tbl.mapVals (fun q x => if icReaches sc p q then x.dropCode v a n else x) s.plots } rd stOK

/-! TLB (R254-R256). -/

/-- TLBINV (R255). -/
def execTlbinv (rd rs1 rs2 : Reg) (s : State) : Out :=
  let a := (s.g rs1).toNat
  let w := (s.g rs2).toNat
  let n := bitsAt w 16 36
  needPriv s .s (.tlbinv rd rs1 rs2) <| onThread s rd <|
    if a % 4096 ≠ 0 ∨ 2 ^ 56 ≤ a ∨ n = 0 ∨ 2 ^ 52 ≤ w ∨ 2 ^ 56 < a + 4096 * n then status s rd stBADARG
    else
      let s := postInval (release s) s.curTid s.curTenant (some (bitsAt w 0 16)) a (4096 * n)
      status (s.setCtx { s.ctx with tlbpend := true }) rd stOK

/-- TLBINVA (R255). -/
def execTlbinva (rd rs1 : Reg) (s : State) : Out :=
  let w := (s.g rs1).toNat
  needPriv s .s (.tlbinva rd rs1) <| onThread s rd <|
    if 2 ^ 17 ≤ w ∨ (bitAt w 16 ∧ w % 65536 ≠ 0) then status s rd stBADARG
    else
      let s :=
        if bitAt w 16 then postInval (release s) s.curTid s.curTenant none 0 0
        else postInval (release s) s.curTid s.curTenant (some (w % 65536)) 0 (2 ^ 56)
      status (s.setCtx { s.ctx with tlbpend := true }) rd stOK

/-- TLBSYNC (R256): the mark taken when it began says which invalidations were posted before it. -/
def execTlbsync (rd rs1 : Reg) (s : State) : Out :=
  let i : Instr := .tlbsync rd rs1
  needPriv s .s i <| onThread s rd <|
    let mark := (markOf s i).getD s.nextId
    let mine := fun (x : Inval) => x.tid == s.curTid && decide (x.id < mark)
    if (s.invals.filter mine).all s.invalDone then
      let s := { s with invals := s.invals.filter fun x => !mine x }
      status (acquire (s.setCtx { s.ctx with tlbpend := false })) rd stOK
    else if expired s i (s.g rs1) then status s rd stBUSY
    else waitIn s i mark

/-! Events. -/

/-- ACCESS_PERFORMED (R162): an issued store is performed at its home here, unless an earlier one of its party touches the
same bytes. -/
def execAccessPerformed (id : Nat) (s : State) : Out :=
  .next (if s.pend.any fun p => decide (p.id = id) && !s.isLocal p.spa then s else performId s id)

/-- INVALIDATION_ARRIVE (R255). -/
def execInvalidationArrive (id : Nat) (p : Holder) (s : State) : Out := .next (arriveInval s id p)

/-- PRQRESP_WRITE (R252): the write by thread `tid` to its tenant's register, a release of what the thread stored before it, then
the answer. -/
def execPrqrespWrite (tid : Nat) (v : Word) (s : State) : Out :=
  match (s.thread tid).tenant with
  | some w => .next (prqResp (releaseThread s tid) w v)
  | none => .next s

/-- DCACHE_LINE_EXPIRY (R160). -/
def execDcacheLineExpiry (plot line : Nat) (s : State) : Out :=
  let x := s.plot plot
  .next (s.setPlot plot { x with dcache := x.dcache.filter fun l => !(decide (l.line = line) && decide (l.fill + 4096 ≤ s.cycle)) })

/-- The tenant, ASID and privilege a party's accesses are made with: those of its thread, or of the command it
performs; a unit's accesses are made at U (log 22). -/
def State.partyOf (s : State) (h : Holder) : Option (Nat × Nat × Bool) :=
  match h with
  | .thread t => (s.thread t).tenant.map fun v => (v, (s.thread t).asid, (s.thread t).priv == .u)
  | .port p n => (s.plotOwner p).map fun v => (v, (s.port p n).asid, true)
  | .chan c => (s.chan c).owner.map fun v => (v, (s.chan c).asid, true)
  | .fill p h =>
    ((s.plot p).inflight.find? fun c => match c.k with | .tfill h' _ | .tdrain h' _ => h' == h | _ => false).map
      fun c => (c.tenant, c.asid, true)
  | .slice p k n => (s.plotOwner p).map fun v => (v, (Tbl.getD (s.lat p k).slots n {}).asid, true)
  | .near m => (s.mbox m).cmd.map fun c => (c.tenant, c.asid, true)
  | _ => none

/-- The role of a party's access (R253): a channel's destination is its second. -/
def roleOf (h : Holder) (k : AccKind) : Nat := match h, k with | .chan _, .write => 1 | _, _ => 0

/-- PAGE_WALK (R244): a translation for a party, cached, or a request; a fatal outcome reaches the party when its own
access meets it. A channel that waits for its slot looks nothing up (R268). -/
def execPageWalk (p : Holder) (va : Word) (k : AccKind) (s : State) : Out :=
  let shut : Bool := match p with | .chan c => (s.chan c).waitSlot | _ => false
  match s.partyOf p with
  | none => .next s
  | some (v, asid, u) =>
    if shut ∨ (s.fatalAnswer p (va.toNat / 4096) k).isSome then .next s
    else .next (translate s p (roleOf p k) v asid u va k).2

end Sys2Proof.Machine
end

