-- ==== Sys2Proof/Machine/Cmd.lean ====
section
/-! DEFINITION. The command queue of a plot (R141-R143), the region a plane belongs to (R323), and fabric faults (R110,
R332, R333). -/

namespace Sys2Proof.Machine

/-! The command queue. -/

/-- Whether a command is of the signal class (R141); every other is of the data class. -/
def CmdKind.signal : CmdKind → Bool
  | .smark _ _ _ | .rrel _ | .garr _ | .gexp _ => true
  | _ => false

/-- Entries of a class (R141). -/
def classSize (signal : Bool) : Nat := if signal then 8 else 24

/-- Entries of a class that accepted commands hold. -/
def Plot.occupied (x : Plot) (signal : Bool) : Nat := (x.cmds.filter fun c => c.k.signal == signal).length

/-- The command takes an entry of its plot's queue. -/
def enqueue (s : State) (k : CmdKind) : State :=
  let c := s.ctx
  let p := s.curPlot
  let cmd : Cmd := { id := s.nextId, tid := s.curTid, asid := c.asid, tenant := s.curTenant, lnch := c.lnch, k := k }
  { s.setPlot p { s.plot p with cmds := (s.plot p).cmds ++ [cmd] } with nextId := s.nextId + 1 }

/-- The trap of a thread that has stalled on its class for QSTALLMAX cycles (R142). -/
def stallTrap (s : State) : State := trapHere s cCmdq 0 0

/-- A command is accepted when its class has a free entry, with the effect it has at acceptance; otherwise the thread
stalls (R141, R142). -/
def acceptCmd (s : State) (rd : Reg) (k : CmdKind) (eff : State → State) : Out :=
  if (s.plot s.curPlot).occupied k.signal < classSize k.signal then status (enqueue (eff s) k) rd stOK
  else
    let c := s.ctx
    let since := c.stall.getD s.cycle
    if (s.tenant s.curTenant).qstallmax ≤ s.cycle - since then .next (stallTrap s)
    else .next (s.setCtx { c with stall := some since })

/-- CMDQ_STALL (R142); a STOPPED thread takes no trap (Table 4.2). -/
def execCmdqStall (tid : Nat) (s : State) : Out :=
  asAgent s (.thread tid) fun s =>
    match s.ctx.stall with
    | some since => if s.ctx.st = .running ∧ (s.tenant s.curTenant).qstallmax ≤ s.cycle - since then .next (stallTrap s) else .next s
    | none => .next s

/-- The oldest accepted command of a context's threads and class, if it satisfies `f`, with the state in which it has left its
entry: commands of a thread that has ended go ahead of those of the next. -/
def popCmd (s : State) (tid : Nat) (signal : Bool) (f : CmdKind → Bool) : Option (Cmd × State) :=
  let x := s.plot (tid / 8)
  match x.cmds.find? fun c => decide (c.tid % 8192 = tid) && c.k.signal == signal with
  | none => none
  | some c => if f c.k then some (c, s.setPlot (tid / 8) { x with cmds := x.cmds.filter fun d => d.id ≠ c.id }) else none

/-- A command under way in its unit. -/
def beginCmd (s : State) (p : Nat) (c : Cmd) : State :=
  s.setPlot p { s.plot p with inflight := (s.plot p).inflight ++ [c] }

/-- Commands of a plot completed (R143). -/
def completeCmds (s : State) (p : Nat) (f : Cmd → Bool) : State :=
  s.setPlot p { s.plot p with inflight := (s.plot p).inflight.filter fun c => !f c,
                              mops := (s.plot p).mops.filter fun c => !f c }

/-- Whether a launch has a command that has not completed. -/
def State.launchCmds (s : State) (i : Nat) : Bool :=
  s.plots.any fun e => (e.2.cmds ++ e.2.inflight ++ e.2.mops).any fun c => c.lnch == i

/-- Whether a thread has a command that has not completed. -/
def State.cmdsOf (s : State) (tid : Nat) : Bool :=
  let x := s.plot (tid / 8)
  (x.cmds ++ x.inflight ++ x.mops).any fun c => c.tid = tid

/-- CBAR (R146): on a context without commands it completes at once. -/
def execCbar (s : State) : Out :=
  if s.isThread ∧ s.cmdsOf s.curTid then waitIn s .cbar 0 else .next (retire s 4)

/-! Regions (R323). -/

/-- The key of the region of a plane: its launch's slot, the number its region got when the launch completed, or a key of
its own. -/
def State.regionKey (s : State) (p k : Nat) : Nat :=
  match (s.plane p k).lnch with
  | some i => i
  | none => (s.plane p k).region.getD (16384 + p * 4 + k)

/-- The first number of a region whose launch has completed. -/
def regionBase : Nat := 32768

/-- The planes of a region. -/
def State.regionPlanes (s : State) (r : Nat) : List (Nat × Nat) :=
  if 16384 ≤ r ∧ r < regionBase then [((r - 16384) / 4, (r - 16384) % 4)]
  else
    (s.planes.filter fun e => e.2.st != .unconfigured && s.regionKey (e.1 / 4) (e.1 % 4) == r).map
      fun e => (e.1 / 4, e.1 % 4)

/-- Whether a plane's launch is halted by DBGCTL (R347). -/
def State.unitHalted (s : State) (p k : Nat) : Bool :=
  match (s.plane p k).lnch with
  | some i => (s.slot i).halted
  | none => false

/-- Whether a plane's units run: the plane is CONFIGURED, its plot is resident and its launch is not halted (R134, R187,
R347, R379). -/
def State.planeRuns (s : State) (p k : Nat) : Bool :=
  (s.plane p k).st == .configured && (s.plot p).resident && !s.unitHalted p k

/-! Fabric faults. -/

/-- Subcodes of EINFO (R110, R138, R203, R225, R325). -/
def fPredMismatch : Nat := 1
def fEmptyRead : Nat := 2
def fDeadRead : Nat := 3
def fRuleIllegal : Nat := 4
def fMarkerSkew : Nat := 5
def fStreamFatal : Nat := 6
def fBadRecord : Nat := 7

/-- EINFO of a fabric fault (R110). -/
def fabricInfo (sub unit_ slot plane : Nat) (lat img : Bool) : Word :=
  BitVec.ofNat 64 (sub + unit_ * 2 ^ 8 + slot * 2 ^ 12 + plane * 2 ^ 17 + (if lat then 2 ^ 19 else 0) +
    (if img then 2 ^ 20 else 0))

/-- Whether a fault of a region is answered by a rollback (R332): its launch has a complete cut to which no earlier
fault has rolled it back. -/
def State.canRollback (s : State) (r : Nat) : Bool :=
  decide (r < 16384) && (s.cutsOf r).exists_ && !(s.cutsOf r).rolled

/-- Cause and EINFO of a unit's uncorrectable read: of the second tier STREAM_FATAL (R258), else UNCORR with the line's
system address (R336). -/
def uncorrRecord (a : Nat) : Nat × Word :=
  if isTier2 a then (cFabric, BitVec.ofNat 64 fStreamFatal) else (cUncorr, lineInfo a)

/-- A fabric fault in a region: left to the rollback, or recorded, the launch to complete with STATUS FAULT (R332,
R333). `src` is 1 for a cell or plane, 2 for a port, 3 for a lattice. -/
def fabricFault (s : State) (p k src unit_ : Nat) (einfo : Word) : State :=
  let r := s.regionKey p k
  if s.canRollback r then s.setCuts r { s.cutsOf r with pending := true }
  else
    let s := faultRecord s ((s.planeOwner p k).getD 64) cFabric src (if r < 16384 then r else 0xFFFF) (p + unit_ * 1024) einfo 0
    if r < 16384 then s.setSlot r { s.slot r with status := 3 } else s

/-- A configuration load refused as RULE_ILLEGAL (R34): recorded, and no fault in a region. -/
def loadRefused (s : State) (p k : Nat) (einfo : Word) : State :=
  let r := s.regionKey p k
  faultRecord s ((s.planeOwner p k).getD 64) cFabric 1 (if r < 16384 then r else 0xFFFF) (p + k * 1024) einfo 0

end Sys2Proof.Machine
end

