-- ==== Sys2Proof/Machine/Fabric.lean ====
section
/-! DEFINITION. Tokens between the nodes of a plane: sources, endpoints and routes (R35-R37, R127, R129), the depths of
Table 6.13, crossing between data and predicate tokens (R132), mesh exits (R130, R131), and ordering arcs (R133).

A plane's source buffers are numbered: output queue q of cell c is 8c + q; port n's data and scale sources are 128 + 2n
and 129 + 2n; lane l of mesh entry d is 160 + 8d + l; lattice k's data and scale sources are 192 + 2k and 193 + 2k. Its
endpoint buffers are numbered as R35 numbers endpoints. -/

namespace Sys2Proof.Machine

/-! Routes. -/

def srcCell (c q : Nat) : Nat := c * 8 + q
def srcPort (n : Nat) (scale : Bool) : Nat := 128 + 2 * n + (if scale then 1 else 0)
def srcMesh (d lane : Nat) : Nat := 160 + 8 * d + lane
def srcLat (k : Nat) (scale : Bool) : Nat := 192 + 2 * k + (if scale then 1 else 0)

/-- The number of the source that a switch word names, when the plane claims it (R127). -/
def Plane.srcNumber (x : Plane) (src : Source) : Option Nat :=
  match src with
  | .none => none
  | .cell c q => some (srcCell c q)
  | .port n sc => if bitAt x.portmask n then some (srcPort n sc) else none
  | .mesh d l => some (srcMesh d l)
  | .lattice k sc => if bitAt x.latmask k then some (srcLat k sc) else none

/-- Whether the plane claims the unit of an endpoint (R127). -/
def Plane.epClaimed (x : Plane) (ep : Nat) : Bool :=
  if 128 ≤ ep ∧ ep < 136 then bitAt x.latmask (ep % 4)
  else if 136 ≤ ep ∧ ep < 152 then bitAt x.portmask (ep - 136)
  else true

/-- The route of an endpoint; a plane without a table has none. -/
def Plane.route (x : Plane) (ep : Nat) : Route := routeOf ep (x.routes.getD ep 0xFC00)

/-- The source that feeds an endpoint. -/
def Plane.feed (x : Plane) (ep : Nat) : Option Nat :=
  if x.epClaimed ep then x.srcNumber (x.route ep).src else none

/-- The endpoints that a source feeds. -/
def Plane.fed (x : Plane) (src : Nat) : List Nat := (List.range 176).filter fun ep => x.feed ep == some src

/-- Places in every source buffer (Table 6.13). -/
def srcDepth : Nat := 4

/-- Places in an endpoint buffer (Table 6.13). -/
def epDepth (ep : Nat) : Nat :=
  if 128 ≤ ep ∧ ep < 132 then 24 else if 132 ≤ ep ∧ ep < 136 then 4 else 8

/-- The tokens of a source buffer. -/
def Plane.srcBuf (x : Plane) (src : Nat) : List Tok := Tbl.getD x.src src []

/-- The tokens of an endpoint buffer. -/
def Plane.epBuf (x : Plane) (ep : Nat) : List Tok := Tbl.getD x.ep ep []

/-- A source buffer replaced; an empty one is not listed. -/
def Plane.setSrc (x : Plane) (src : Nat) (b : List Tok) : Plane :=
  { x with src := if b.isEmpty then Tbl.del x.src src else Tbl.set x.src src b }

/-- An endpoint buffer replaced; an empty one is not listed. -/
def Plane.setEp (x : Plane) (ep : Nat) (b : List Tok) : Plane :=
  { x with ep := if b.isEmpty then Tbl.del x.ep ep else Tbl.set x.ep ep b }

/-- Free places of a source; a source that feeds no endpoint discards at once (R97). -/
def Plane.srcRoom (x : Plane) (src : Nat) : Nat :=
  if (x.fed src).isEmpty then srcDepth else srcDepth - (x.srcBuf src).length

/-- Whether a cut marker injected at a source stands before anything else that is to enter it. -/
def Plane.cutDue (x : Plane) (src : Nat) : Bool := x.entryCuts.any fun e => e.1 == src

/-- A node writes a token to a source, with its order horizon (R133). -/
def Plane.emit (x : Plane) (src : Nat) (k : TokKind) (hor : List Nat) : Plane :=
  let eps := x.fed src
  if eps.isEmpty then x else x.setSrc src (x.srcBuf src ++ [{ k := k, todo := eps, hor := hor }])

/-- A cut marker injected at a mesh entry takes a place in it (R398): at once where there is one, else before any later token. -/
def Plane.inject (x : Plane) (src n : Nat) : Plane :=
  if x.srcRoom src = 0 ∨ x.cutDue src then { x with entryCuts := x.entryCuts ++ [(src, n)] } else x.emit src (.cut n) []

/-- The injected cut markers of a source enter it while it has room. -/
def Plane.enterCuts (x : Plane) (src : Nat) : Plane :=
  x.entryCuts.foldl (fun y e => if e.1 = src then y.inject src e.2 else { y with entryCuts := y.entryCuts ++ [e] })
    { x with entryCuts := [] }

/-! Tokens at endpoints. -/

/-- Whether a token is a marker. -/
def Tok.marker (t : Tok) : Bool := match t.k with | .cut _ | .eot => true | _ => false

/-- The tokens ahead of the first marker (R97). -/
def ahead (b : List Tok) : List Tok := b.takeWhile fun t => !t.marker

/-- The occupancy of an endpoint buffer (R97). -/
def Plane.occ (x : Plane) (ep : Nat) : Nat := (ahead (x.epBuf ep)).length

/-- The head of an endpoint buffer. -/
def Plane.headTok (x : Plane) (ep : Nat) : Option Tok := (x.epBuf ep).head?

/-- The head removed. -/
def Plane.popEp (x : Plane) (ep : Nat) : Plane := x.setEp ep (x.epBuf ep).tail

/-- Crossing between the data and the predicate network (R132). -/
def crossTok (ep : Nat) (k : TokKind) : TokKind :=
  if 160 ≤ ep then (match k with | .data v _ => .pred (v.getLsbD 0) | x => x)
  else (match k with | .pred b => .data (if b then 1 else 0) 0 | x => x)

/-- The data value of a token; a predicate token reads 0 or 1. -/
def Tok.value (t : Tok) : Word :=
  match t.k with
  | .data v _ => v
  | .pred b => if b then 1 else 0
  | _ => 0

/-- The tag of a token. -/
def Tok.tagOf (t : Tok) : Nat := match t.k with | .data _ g => g | _ => 0

/-- The next token of a source for an endpoint, and the source buffer once the endpoint has it (R97, R111). -/
def takeTok (ep : Nat) : List Tok → Option (Tok × List Tok)
  | [] => none
  | t :: ts =>
    if t.todo.contains ep then
      let todo := t.todo.filter fun e => e ≠ ep
      some (t, if todo.isEmpty then ts else { t with todo := todo } :: ts)
    else (takeTok ep ts).map fun r => (r.1, t :: r.2)

/-- Whether every access of a horizon has been performed (R133). -/
def State.horizonDone (s : State) (hor : List Nat) : Bool := hor.all fun i => s.performed i

/-- Horizons joined. -/
def joinHor (a b : List Nat) : List Nat := a ++ b.filter fun i => !a.contains i

/-- The next token for an endpoint moves from its source, when there is room and, on an ordering arc, the carried
horizon is performed (R129, R133); nothing moves on a plot that is not resident (R379). -/
def deliver (s : State) (p k ep : Nat) (arc : Bool) : State :=
  let x := s.plane p k
  let r := x.route ep
  match x.feed ep with
  | none => s
  | some src =>
    if r.ord ≠ arc ∨ !(s.plot p).resident then s
    else
      match takeTok ep (x.srcBuf src) with
      | none => s
      | some (t, rest) =>
        if epDepth ep ≤ (x.epBuf ep).length ∨ (arc ∧ !s.horizonDone t.hor) then s
        else
          s.setPlane p k (((x.setSrc src rest).enterCuts src).setEp ep
            (x.epBuf ep ++ [{ k := crossTok ep t.k, hor := if arc then t.hor else [] }]))

/-! Mesh exits (R130, R131). -/

/-- The plot in a direction, 0 north, 1 east, 2 south, 3 west, on the grid that the four dies form (log 24). DESIGN CHOICE:
there is none beyond the outer edge of that grid, and an exit that leads there holds its tokens (log 24). -/
def neighbour (p d : Nat) : Option Nat :=
  let die := p / 160
  let x := die % 2 * 16 + p % 16
  let y := die / 2 * 10 + p % 160 / 16
  let plotAt (x y : Nat) : Nat := (y / 10 * 2 + x / 16) * 160 + y % 10 * 16 + x % 16
  match d with
  | 0 => if y = 0 then none else some (plotAt x (y - 1))
  | 1 => if x = 31 then none else some (plotAt (x + 1) y)
  | 2 => if y = 19 then none else some (plotAt x (y + 1))
  | _ => if x = 0 then none else some (plotAt (x - 1) y)

/-- The opposite direction. -/
def opposite (d : Nat) : Nat := (d + 2) % 4

/-- Where mesh exit `d` of a plane leads: the plot and the lane of its mesh entry. -/
def Plane.exitTo (x : Plane) (p d : Nat) : Option (Nat × Nat) :=
  let vc := (x.route (152 + d)).vc
  match x.farexit.getD d none with
  | some q => some (q, 4 + vc)
  | none => (neighbour p d).map fun q => (q, vc)

/-- The head of a mesh exit, a marker as any token (R131), enters the plot it leads to, when that plot's plane is CONFIGURED
and has room (log 26), whichever tenant holds it (log 24), and both plots are resident (R379). -/
def exitHop (s : State) (p k d : Nat) : State :=
  let x := s.plane p k
  match x.headTok (152 + d), x.exitTo p d with
  | some t, some (q, lane) =>
    let y := s.plane q k
    let src := srcMesh (opposite d) lane
    if y.st ≠ .configured ∨ y.srcRoom src = 0 ∨ y.cutDue src ∨ !(s.plot p).resident ∨ !(s.plot q).resident then s
    else
      let s := s.setPlane p k (x.popEp (152 + d))
      s.setPlane q k ((s.plane q k).emit src t.k [])
  | _, _ => s

/-- TOKEN_DELIVERY (R129): one hop of the route at an endpoint; at a mesh exit the token waiting there goes on first. -/
def execTokenDelivery (plot plane ep : Nat) (s : State) : Out :=
  let s := if 152 ≤ ep ∧ ep < 156 then exitHop s plot plane (ep - 152) else s
  .next (deliver s plot plane ep false)

/-- ORDERING_ARC_DELIVERY (R133). -/
def execOrderingArcDelivery (plot plane ep : Nat) (s : State) : Out := .next (deliver s plot plane ep true)

end Sys2Proof.Machine
end

