-- ==== Sys2Proof/Machine/Derived.lean ====
section
/-! DEFINITION. Derived regions (13_derived_regions): what each kind keeps per row part, updates, builds and rescans
(R276-R284), row values (R281), result writes (R285), and the DERIVED group (R290-R296). -/

namespace Sys2Proof.Machine

/-- The first queued update of a granule whose part can take it, applied (R283). -/
def Region.applyFirst (r : Region) (gran : Nat) : Region :=
  match r.queue.findIdx? fun u => u.gran == gran && r.canTake u with
  | none => r
  | some i =>
    match r.queue[i]? with
    | none => r
    | some u => { r with queue := r.queue.eraseIdx i }.applyUpd u

/-- A region changed in place, if it exists. -/
def onRegion (s : State) (id : Nat) (f : Region → Region) : State :=
  match Tbl.get? s.regions id with
  | none => s
  | some r => { s with regions := Tbl.set s.regions id (f r) }

/-- DERIVED_UPDATE_APPLY (R283). -/
def execDerivedUpdateApply (region granule : Nat) (s : State) : Out :=
  .next (onRegion s region fun r => r.applyFirst granule)

/-- DERIVED_BUILD (R284): a part not yet built is built. -/
def execDerivedBuild (region row part : Nat) (s : State) : Out :=
  .next (onRegion s region fun r =>
    match Tbl.get? r.parts (partKey row part) with
    | some p => if p.built then r else r.mend s row part
    | none => r)

/-- ROW_RESCAN (R284): a stale part is rescanned; the region's rescan count advances (log 66). -/
def execRowRescan (region row part : Nat) (s : State) : Out :=
  .next (onRegion s region fun r =>
    match Tbl.get? r.parts (partKey row part) with
    | some p => if p.built ∧ p.stale then r.mend s row part else r
    | none => r)

/-- The addresses and bytes of a row's result, byte by byte. -/
def Region.resultAt (r : Region) (row : Nat) : Nat := r.result.toNat + row * r.rpitch

/-- Bytes written through a region's bound result pages. -/
def writeBound (m : List Host.Cell) (map : List (Nat × Nat)) (va : Nat) : List Byte → List Host.Cell
  | [] => m
  | b :: bs => writeBound (Mem.set m (boundAddr map va) b) map (va + 1) bs

/-- DERIVED_RESULT_WRITE (R285): a changed row value is written; nothing while the row is stale or building. -/
def execDerivedResultWrite (region row : Nat) (s : State) : Out :=
  match Tbl.get? s.regions region with
  | none => .next s
  | some r =>
    if r.dirty.contains row ∧ r.rowReady row then
      .next { s with regions := Tbl.set s.regions region { r with dirty := r.dirty.filter fun d => d ≠ row, reflects := r.reflects.filter fun e => e.1 ≠ row },
                     mem := writeBound s.mem r.rmap (r.resultAt row) (r.rowValue row) }
    else .next s

/-- Whether a held update comes before another in its batch: by stream key, then by drain, then in the order of its stream's
stores (R287). -/
def DUpd.before (a b : DUpd) : Bool :=
  let k (u : DUpd) := u.held.getD (0, 0)
  decide ((k a).1 < (k b).1) || (decide ((k a).1 = (k b).1) &&
    (decide ((k a).2 < (k b).2) || (decide ((k a).2 = (k b).2) && decide (a.pend ≤ b.pend))))

/-- The parts of a region as they stand kept for the threads that a batch applied now is not ordered before: those that have made
no acquire since. A part that a build still has to read is kept by the build. -/
def Region.keepParts (r : Region) (s : State) : Region :=
  let some_ := fun (c : Nat) => s.threads.any (fun e => decide (Tbl.getD s.knows e.1 0 < c)) || s.knows.any fun e => decide (e.2 < c)
  { r with older := (r.older.filter fun e => some_ e.1) ++ if r.building then [] else [(s.cycle, r.parts)] }

/-- A batch applied to a region in key order: first what the part's queue holds; a part that one of its updates makes stale is
rescanned before the next. -/
def Region.applyBatch (r : Region) (s : State) (batch : List DUpd) : Region :=
  if r.building then { r with queue := r.queue ++ batch }
  else
    { (r.takeAll s).keepParts s with queue := batch }.takeAll s

/-- Held updates of the tenant's regions applied as one batch, in key order, those that satisfy `f` (R287). -/
def applyHeld (s : State) (f : DUpd → Bool) : State :=
  { s with regions := Tbl.mapVals (fun _ r =>
      if r.held.any f then { r with held := r.held.filter fun u => !f u }.applyBatch s ((r.held.filter f).mergeSort DUpd.before)
      else r) s.regions }

/-- A region as a thread of a reproducible launch sees it: of an inexact kind, without the batches applied since its last acquire,
which are not ordered before what it reads (R287) (log 91). -/
def Region.seenBy (r : Region) (s : State) (tid : Nat) : Region :=
  if !r.exact && s.isRepro (some (s.thread tid).lnch) then
    match r.older.find? fun e => decide (Tbl.getD s.knows tid 0 < e.1) with
    | some e => { r with parts := e.2 }
    | none => r
  else r

/-- A merge point of arrivers: their FADD buffers (R176), then the held updates of their stores (R287); whether it is
complete. -/
def mergePoint (s : State) (ids : List Nat) : Bool × State :=
  let r := mergeMembers (ids.foldl (fun s id => if id < 8192 then releaseThread s id else s) s) ids
  if r.1 then
    (true, applyHeld r.2 fun u => match u.party with | .thread t => ids.contains t | _ => false)
  else r

/-- Whether an update is one of a launch's port streams, channels and drains. -/
def DUpd.ofStreams (u : DUpd) (lnch : Nat) : Bool :=
  u.lnch == some lnch && (match u.party with | .thread _ => false | _ => true)

/-- The batch of those of them that satisfy `f`, at a cut of the launch or its completion (R287). -/
def mergeStreams (s : State) (lnch : Nat) (f : DUpd → Bool) : State := applyHeld s fun u => u.ofStreams lnch && f u

/-! Row states (R282). -/

/-- Row states of one (row, part). -/
def Region.partStates (r : Region) (row part : Nat) : Nat :=
  match r.kind with
  | 6 => 2
  | 4 => 1 + (r.nbins + 15) / 16
  | 5 => let c := r.partCols row part; ((c.2 - c.1) / 32 + 31) / 32
  | _ => 1

/-- The home slice of a part. -/
def Region.partSlice (r : Region) (row part : Nat) : Nat := homeSlice (boundAddr r.bmap ((r.rowAt row / 4096 + part) * 4096))

/-- Row states a region takes, by slice. -/
def Region.states (r : Region) : Tbl Nat :=
  (List.range r.rows).foldl (fun t row =>
    (List.range (r.partCount row)).foldl (fun t k =>
      let sl := r.partSlice row k
      Tbl.set t sl (Tbl.getD t sl 0 + r.partStates row k)) t) []

/-- Row states in use, by slice. -/
def State.rowStates (s : State) : Tbl Nat :=
  s.regions.foldl (fun t r => r.2.states.foldl (fun t e => Tbl.set t e.1 (Tbl.getD t e.1 0 + e.2)) t) []

/-- Row states of a home slice. -/
def sliceStates : Nat := 16384

/-- The fewest free row states in any home slice (DRFREE). -/
def State.freeStates (s : State) : Nat := sliceStates - s.rowStates.foldl (fun a e => max a e.2) 0

/-! The DERIVED group. -/

/-- A status in rd and a value in rd + 1 (R290): with rd = g0 only g1 is written. -/
def statusPair (s : State) (rd : Reg) (code : Nat) (v : Word) : Out :=
  .next (retire ((s.setG (mate rd) v).setG rd (BitVec.ofNat 64 code)) 4)

/-- A descriptor as a region (Table 13.1). -/
def regionOf (v : Nat) (d : List Byte) : Region :=
  { tenant := v, base := BitVec.ofNat 64 (fieldAt d 0 8), cols := fieldAt d 8 4, rows := fieldAt d 12 4,
    pitch := fieldAt d 16 8, result := BitVec.ofNat 64 (fieldAt d 24 8), rpitch := fieldAt d 32 8,
    kind := fieldAt d 40 1, bfmt := fieldAt d 41 1, rfmt := fieldAt d 42 1, nbins := fieldAt d 43 1,
    hlo := BitVec.ofNat 64 (fieldAt d 48 8), hwidth := BitVec.ofNat 64 (fieldAt d 56 8), bmap := [], rmap := [] }

/-- Whether Table 13.2 allows a triple. -/
def tripleOk (kind bfmt rfmt : Nat) : Bool :=
  match kind with
  | 0 | 1 => decide (rfmt ≤ 3) || decide (4 ≤ bfmt)
  | 2 | 3 | 4 => rfmt == 0
  | 5 => rfmt == 0 && decide (bfmt ≤ 3)
  | _ => decide (rfmt ≤ 3) && decide (bfmt ≤ 3)

/-- Whether a descriptor passes R273. -/
def regionOk (r : Region) (res : Nat) : Bool :=
  let eb := bfmtBytes r.bfmt
  let fin (w : Word) : Bool := (fp64.val w.toNat).finite
  res == 0 && decide (r.base.toNat < 2 ^ 56) && decide (r.result.toNat < 2 ^ 56) &&
  decide (1 ≤ r.cols) && decide (r.cols ≤ 65536) && decide (1 ≤ r.rows) && decide (r.rows ≤ 65536) &&
  r.result.toNat % 8 == 0 && r.rpitch % 8 == 0 && decide (r.kind ≤ 6) && decide (r.bfmt ≤ 5) && decide (r.rfmt ≤ 5) &&
  tripleOk r.kind r.bfmt r.rfmt &&
  (if r.kind = 4 then decide (1 ≤ r.nbins) && decide (r.nbins ≤ 64) && fin r.hlo && fin r.hwidth &&
      Val.lt (.fin false 0 0) (fp64.val r.hwidth.toNat)
    else r.nbins == 0 && r.hlo == 0 && r.hwidth == 0) &&
  r.base.toNat % 64 == 0 && r.pitch % 64 == 0 &&
  (r.kind != 5 || (r.base.toNat % (32 * eb) == 0 && r.pitch % (32 * eb) == 0 && r.cols % 32 == 0)) &&
  (decide (r.rows ≤ 1) || (decide (r.cols * eb ≤ r.pitch) && decide (r.rowBytes ≤ r.rpitch)))

/-- The pages of `rows` rows of `n` bytes. -/
def rowPages (base pitch n rows : Nat) : List Nat :=
  ((List.range rows).flatMap fun i =>
    let a := base + i * pitch
    (List.range ((a + n - 1) / 4096 - a / 4096 + 1)).map fun k => a / 4096 + k).eraseDups

/-- Pages translated for the issuing thread, in order: the pages bound, or the outcome that stops. -/
def bindPages (s : State) (t v asid : Nat) (u : Bool) (kind : AccKind) :
    List Nat → List (Nat × Nat) → DRes (List (Nat × Nat)) × State
  | [], acc => (.ok acc, s)
  | p :: ps, acc =>
    let va := BitVec.ofNat 64 (p * 4096)
    if 2 ^ 56 ≤ p * 4096 then (.trap (if kind = .write then cStore else cLoad) va (xlatInfo asid .vaHigh 0), s)
    else
      match translate s (.thread t) 0 v asid u va kind with
      | (.ok spa, s) => bindPages s t v asid u kind ps (acc ++ [(p, spa / 4096)])
      | (r, s) => (xresTrap r asid (if kind = .write then cStore else cLoad) va, s)

/-- Whether a system byte is an element of a region's base. -/
def Region.inBase (r : Region) (spa : Nat) : Bool :=
  (r.vasOf spa).any fun va => decide (r.base.toNat ≤ va) && (r.elemAt (va - r.base.toNat)).isSome

/-- Whether a system byte is in a region's result rows. -/
def Region.inResult (r : Region) (spa : Nat) : Bool :=
  (r.rmap.filter fun e => e.2 = spa / 4096).any fun e =>
    let va := e.1 * 4096 + spa % 4096
    decide (r.result.toNat ≤ va) &&
    (let o := va - r.result.toNat
     if r.rows ≤ 1 ∨ r.rpitch = 0 then decide (o < r.rowBytes)
     else decide (o / r.rpitch < r.rows) && decide (o % r.rpitch < r.rowBytes))

/-- Whether one region's result overlaps another's base. -/
def resultHitsBase (a b : Region) : Bool :=
  a.rmap.any fun e =>
    b.bmap.any (fun x => x.2 == e.2) &&
    (List.range 4096).any fun i => a.inResult (e.2 * 4096 + i) && b.inBase (e.2 * 4096 + i)

/-- Whether every bound page is local HBM or second tier and not host-shared. -/
def pagesHome (s : State) (m : List (Nat × Nat)) : Bool :=
  m.all fun e => let a := e.2 * 4096; s.isLocal a && (isHbm a || isTier2 a) && !s.hostSide a

/-- The lowest id that no region has. -/
def freeRegion (s : State) : Option Nat := (List.range 4096).find? fun i => (Tbl.get? s.regions i).isNone

/-- The regions a tenant holds. -/
def State.regionsOf (s : State) (v : Nat) : Nat := (s.regions.filter fun e => e.2.tenant = v).length

/-- Whether a region finds the room it needs (R271, R282). -/
def regionFits (s : State) (r : Region) : Bool :=
  let used := s.rowStates
  (r.states.all fun e => decide (Tbl.getD used e.1 0 + e.2 ≤ sliceStates)) &&
  (r.bmap.map (·.2)).eraseDups.all fun g => decide ((s.regions.filter fun e => e.2.bmap.any fun x => x.2 = g).length < 4)

/-- Every row part of a region, not built. -/
def Region.unbuilt (r : Region) : Tbl Part :=
  (List.range r.rows).foldl (fun t row =>
    (List.range (r.partCount row)).foldl (fun t k => Tbl.set t (partKey row k) (r.freshPart row k)) t) []

/-- The region declared: row states reserved, the result zeroed, the build begun. -/
def declare (s : State) (id : Nat) (r : Region) : State :=
  let r := { r with building := true, parts := r.unbuilt }
  let mem := (List.range r.rows).foldl
    (fun m row => writeBound m r.rmap (r.resultAt row) (List.replicate r.rowBytes 0)) s.mem
  { s with regions := Tbl.set s.regions id r, mem := mem }

/-- DDECL (R291). -/
def execDdecl (rd rs1 : Reg) (s : State) : Out :=
  if !s.isThread then statusPair s rd stDENIED 0
  else
    let a := s.g rs1
    let c := s.ctx
    let v := s.curTenant
    let u := c.priv == .u
    if a.toNat % 64 ≠ 0 ∨ 2 ^ 56 ≤ a.toNat then statusPair s rd stBADARG 0
    else
      match dataLoad s a 64 false with
      | (.ok d, s) =>
        let r := regionOf v d
        if !regionOk r (fieldAt d 44 4) then statusPair s rd stBADARG 0
        else
          let s := release s
          match bindPages s s.curTid v c.asid u .read (rowPages r.base.toNat r.pitch (r.cols * bfmtBytes r.bfmt) r.rows) [] with
          | (.ok bmap, s) =>
            match bindPages s s.curTid v c.asid u .write (rowPages r.result.toNat r.rpitch r.rowBytes r.rows) [] with
            | (.ok rmap, s) =>
              let r := { r with bmap := bmap, rmap := rmap }
              if !pagesHome s bmap ∨ !pagesHome s rmap ∨ resultHitsBase r r ∨
                  s.regions.any (fun e => resultHitsBase r e.2 || resultHitsBase e.2 r) then statusPair s rd stBADARG 0
              else if (s.tenant v).regq ≤ s.regionsOf v then statusPair s rd stQUOTA 0
              else
                match freeRegion s with
                | none => statusPair s rd stNOSPACE 0
                | some id =>
                  if !regionFits s r then statusPair s rd stNOSPACE 0
                  else statusPair (declare s id r) rd stOK (BitVec.ofNat 64 id)
            | (x, s) => dresOut s x
          | (x, s) => dresOut s x
      | (x, s) => dresOut s x

/-- Whether a scrub request that is not yet cleared names the derived regions of a tenant: they are held by none (R362). -/
def State.regionsScrubbing (s : State) (v : Nat) : Bool :=
  s.scrubs.any fun q => !q.cleared && q.units.any fun u => bitsAt u.toNat 56 8 == 8 && bitsAt u.toNat 0 56 == v

/-- The tenant's region named by a selector. -/
def State.regionFor (s : State) (sel : Word) : Option Region :=
  match Tbl.get? s.regions (bitsAt sel.toNat 0 12) with
  | some r => if r.tenant = s.curTenant ∧ !s.regionsScrubbing r.tenant then some r else none
  | none => none

/-- Rows `r` to `r + n - 1`. -/
def rowList (r n : Nat) : List Nat := (List.range n).map fun i => r + i

/-- Whether an update's store is ordered before a DRD of a thread (R286): its own store, or one performed, at the thread's plot
issued, by the cycle of its last acquire (log 91). -/
def State.orders (s : State) (tid : Nat) (u : DUpd) : Bool :=
  let c := Tbl.getD s.knows tid 0
  u.party == .thread tid || decide (u.at_ ≤ c) || (plotOfParty u.party == some (tid / 8) && decide (u.issued ≤ c))

/-- Whether updates of some rows that are ordered before a DRD of a thread are still queued. -/
def Region.owes (r : Region) (s : State) (tid : Nat) (rows : List Nat) : Bool :=
  r.queue.any fun u => rows.contains u.row && s.orders tid u

/-- DRD (R292): the stores of its plot are performed, which takes in every store ordered before it that is not yet; the queued
updates ordered before it are waited for (R286), then the rows. A DRD that waits when its region is dropped is marked
by the DDROP and returns DENIED (R295) (log 64). -/
def execDrd (rd rs1 rs2 : Reg) (nb : Bool) (s : State) : Out :=
  let i : Instr := .drd rd rs1 rs2 nb
  if !s.isThread then statusPair s rd stDENIED 0
  else
    let sel := s.g rs1
    let w := (s.g rs2).toNat
    let row := bitsAt sel.toNat 12 16
    let regForm := rs2 == 0
    let h := bitsAt w 0 8
    let off := bitsAt w 8 32
    if markOf s i = some 1 then statusPair s rd stDENIED 0
    else if 2 ^ 28 ≤ sel.toNat then statusPair s rd stBADARG 0
    else
      match s.regionFor sel with
      | none => statusPair s rd stDENIED 0
      | some r =>
        let n := if regForm then 1 else bitsAt w 40 16 + 1
        let t := s.tile s.curPlot h
        if regForm ∧ (r.kind = 4 ∨ r.kind = 5) then statusPair s rd stBADARG 0
        else if r.rows < row + n then statusPair s rd stBADARG 0
        else if !regForm ∧ (2 ^ 56 ≤ w ∨ off % 8 ≠ 0 ∨ t.st = .free ∨ t.st = .empty ∨ t.size < off + n * r.rowBytes) then
          statusPair s rd stBADARG 0
        else if !regForm ∧ (t.st = .filling ∨ t.st = .draining) then statusPair s rd stBUSY 0
        else
          let s := drainIf s fun q => q.ofPlot s.curPlot
          let r := ((s.regionFor sel).getD r).seenBy s s.curTid
          let rows := rowList row n
          if r.owes s s.curTid rows then waitIn s i 0
          else if r.building || rows.any fun k => !r.rowReady k then (if nb then statusPair s rd stSTALE 0 else waitIn s i 0)
          else if regForm then statusPair s rd stOK (leWord (r.rowValue row))
          else
            statusPair (s.setTile s.curPlot h (t.store off (rows.flatMap fun k => r.rowValue k))) rd stOK 0

/-- The party of a DSYNC selector, or the status that refuses it. -/
def dsyncParty (s : State) (w : Nat) : Except Nat Holder :=
  let p := s.curPlot
  if 2 ^ 16 ≤ w then .error stBADARG
  else
    match w % 4 with
    | 0 => if w = 0 then .ok (.thread s.curTid) else .error stBADARG
    | 1 =>
      if bitsAt w 8 8 ≠ 0 then .error stBADARG
      else if s.planeOwner p (bitsAt w 6 2) = some s.curTenant then .ok (.port p (bitsAt w 2 4)) else .error stDENIED
    | 2 =>
      if bitsAt w 2 6 ≠ 0 then .error stBADARG
      else if (s.chan (bitsAt w 8 8)).owner = some s.curTenant then .ok (.chan (bitsAt w 8 8)) else .error stDENIED
    | _ => .error stBADARG

/-- Whether updates that a party's stores made by a cycle are not applied, or result writes that reflect them outstanding, in the
tenant's regions (R293). -/
def State.derivedBusy (s : State) (v : Nat) (h : Holder) (c : Nat) : Bool :=
  s.regions.any fun e =>
    let r := e.2
    r.tenant == v && (r.queue.any (fun u => u.party == h && decide (u.at_ ≤ c)) ||
      r.reflects.any fun x => x.2.1 == h && decide (x.2.2 ≤ c))

/-- Whether updates of a party's stores, performed or not, are still to be applied in a tenant's regions (R289 DRPEND). -/
def State.derivedPend (s : State) (v : Nat) (h : Holder) : Bool :=
  s.regions.any fun e =>
    e.2.tenant == v && (e.2.queue.any (fun u => u.party == h) || e.2.held.any (fun u => u.party == h) ||
      s.pend.any fun p => p.party == h && !(e.2.touched p.spa p.bytes.length).isEmpty)

/-- DSYNC (R293): of its party's stores, those performed by the cycle it began; the thread's are performed then. -/
def execDsync (rd rs1 rs2 : Reg) (s : State) : Out :=
  let i : Instr := .dsync rd rs1 rs2
  onThread s rd <|
    match dsyncParty s (s.g rs1).toNat with
    | .error e => status s rd e
    | .ok h =>
      let s := match h with | .thread _ => release s | _ => s
      if !s.derivedBusy s.curTenant h (startOf s i) then status (acquire s) rd stOK
      else if expired s i (s.g rs2) then status s rd stBUSY
      else waitIn s i 0

/-- DREB (R294). -/
def execDreb (rd rs1 : Reg) (s : State) : Out :=
  let sel := s.g rs1
  onThread s rd <|
    if 2 ^ 12 ≤ sel.toNat then status s rd stBADARG
    else
      match s.regionFor sel with
      | none => status s rd stDENIED
      | some r =>
        if r.building then status s rd stBUSY
        else
          let s := release s
          status (onRegion s sel.toNat fun r =>
            { r with building := true, drift := [], older := [], redo := [], parts := Tbl.mapVals (fun _ p => { p with built := false }) r.parts }) rd stOK

/-- A waiting instruction of any thread marked, where `f` says so of the thread and the instruction: the event it waits for has
come. -/
def markWaits (s : State) (f : Ctx → Instr → Bool) : State :=
  { s with threads := Tbl.mapVals (fun _ c => match c.wait with
      | some w => if f c w.instr then { c with wait := some { w with mark := 1 } } else c
      | none => c) s.threads }

/-- DDROP (R295): DRDs that wait on the region return DENIED. -/
def execDdrop (rd rs1 : Reg) (s : State) : Out :=
  let sel := s.g rs1
  onThread s rd <|
    if 2 ^ 12 ≤ sel.toNat then status s rd stBADARG
    else
      match s.regionFor sel with
      | none => status s rd stDENIED
      | some _ =>
        let v := s.curTenant
        let s := markWaits s fun c i => match i with
          | .drd _ rs1 _ _ => c.tenant == some v && bitsAt (c.get rs1).toNat 0 12 == sel.toNat
          | _ => false
        status { s with regions := Tbl.del s.regions sel.toNat } rd stOK

/-- A state word of all ones: what a query of nothing answers. -/
def noState : Word := 0xFFFFFFFFFFFFFFFF

/-- The state word of a region and row (R296). -/
def Region.word (r : Region) (row : Nat) : Word :=
  let stale := ((List.range r.rows).filter fun k => (r.rowParts k).any fun p => p.stale).length
  BitVec.ofNat 64 ((if r.building then 1 else 2) + r.kind * 4 + r.bfmt * 32 + min stale 65535 * 2 ^ 8 +
    Tbl.getD r.drift row 0 * 2 ^ 24 + r.rescans % 65536 * 2 ^ 48)

/-- DSTAT (R296). -/
def execDstat (rd rs1 : Reg) (s : State) : Out :=
  let sel := s.g rs1
  let row := bitsAt sel.toNat 12 16
  let w : Word :=
    if !s.isThread ∨ 2 ^ 28 ≤ sel.toNat then noState
    else
      match s.regionFor sel with
      | none => noState
      | some r => if row < r.rows then r.word row else noState
  finish s rd w 4

end Sys2Proof.Machine
end

