-- ==== Sys2Proof/Machine/Tiles.lean ====
section
/-! DEFINITION. Tiles (R151-R155): their states, how units read and write them, when a handle is referenced (R180), the
TILE group (R178-R184), and the ends of fills and drains. -/

namespace Sys2Proof.Machine

/-! Reads and writes by units (R152, R153). -/

/-- What a tile answers a unit. -/
inductive TRes (α : Type) where
  | ok (v : α)
  | stall
  | fatal
  deriving Repr

/-- Commands of a plot that pre-empted launches have accepted and not started: their images hold them (Table 16.1). -/
def State.parkedCmds (s : State) (p : Nat) : List Cmd :=
  s.cuts.flatMap fun e =>
    if (s.slot e.1).preempted then
      (e.2.last.cmds ++ e.2.last.ops ++ e.2.last.queued).filter fun c => decide (c.tid % 8192 / 8 = p)
    else []

/-- Whether an accepted TFILL of a handle has not completed. -/
def State.fillingBy (s : State) (p h : Nat) : Bool :=
  let x := s.plot p
  (x.cmds ++ x.inflight ++ s.parkedCmds p).any fun c => match c.k with | .tfill h' _ => h' == h | _ => false

/-- Whether an access lies outside a tile. -/
def Tile.outside (t : Tile) (off : Int) (n : Nat) : Bool := decide (off < 0) || decide ((t.size : Int) < off + n)

/-- `n` bytes of a tile as a port or a lattice reads them. -/
def tileRead (s : State) (p h : Nat) (off : Int) (n : Nat) : TRes (List Byte) :=
  let t := s.tile p h
  if t.st = .free ∨ t.outside off n then .fatal
  else if t.st = .ready then .ok (Mem.read t.bytes off.toNat n)
  else .stall

/-- Bytes stored into a tile by a write stream, channel or read-out: an EMPTY tile becomes FILLING, a READY one is
written in place, one under a TFILL or TDRAIN is left alone. -/
def tileWrite (s : State) (p h : Nat) (off : Int) (bs : List Byte) : TRes State :=
  let t := s.tile p h
  if t.st = .free ∨ t.outside off bs.length then .fatal
  else
    match t.st with
    | .draining => .stall
    | .filling => if s.fillingBy p h then .stall else .ok (s.setTile p h (t.store off.toNat bs))
    | .empty => .ok (s.setTile p h { t.store off.toNat bs with st := .filling })
    | _ => .ok (s.setTile p h (t.store off.toNat bs))

/-- A tile that a unit has finished filling is READY; any other is left as it is. -/
def tileFilled (s : State) (p h : Nat) : State :=
  let t := s.tile p h
  if t.st = .filling ∧ !s.fillingBy p h then s.setTile p h { t with st := .ready } else s

/-- The fill of a tile by a stream, a channel or a read-out has failed: it is EMPTY (Table 7.1). -/
def tileFailed (s : State) (p h : Nat) : State :=
  let t := s.tile p h
  if t.st = .filling ∧ !s.fillingBy p h then s.setTile p h { t with st := .empty } else s

/-! References (R180). -/

/-- Whether a command names a handle (log 54). -/
def CmdKind.names (k : CmdKind) (h : Nat) : Bool :=
  match k with
  | .tfill h' _ | .tdrain h' _ => h' == h
  | .mload _ _ src tile => tile && bitsAt src.toNat 0 8 == h
  | .mread sel dst _ _ =>
    !bitAt sel.toNat 19 && (bitsAt dst.toNat 0 8 == h || (bitsAt sel.toNat 16 3 == 5 && bitsAt dst.toNat 8 8 == h))
  | _ => false

/-- Whether a ring of the plot holds a handle as a slot. -/
def State.ringHolds (s : State) (p h : Nat) : Bool :=
  (List.range 16).any fun r => let x := s.ring p r; x.active && decide (x.h0 ≤ h) && decide (h < x.h0 + x.ns)

/-- Whether a port of a plot is a producer of a ring (R217), and of which. -/
def State.ringOfPort (s : State) (p n : Nat) : Option Nat :=
  let x := s.port p n
  let ctrl := fieldAt x.desc 8 4
  if bitAt ctrl 0 && bitAt ctrl 1 then
    (List.range 16).find? fun r => let g := s.ring p r; g.active && g.plane == x.plane && bitAt g.pmask n
  else none

/-- Whether a bound or closed stream names a handle; a ring producer's descriptor names none (R217) (log 54). -/
def State.portNames (s : State) (p h : Nat) : Bool :=
  (List.range 16).any fun n =>
    let x := s.port p n
    (x.st == .bound || x.st == .closed) && bitAt (fieldAt x.desc 8 4) 1 && (s.ringOfPort p n).isNone &&
    fieldAt x.desc 0 1 == h

/-- Whether the record a channel performs or waits to perform writes a ring (R224). -/
def Chan.writes (x : Chan) (p r : Nat) : Bool :=
  (x.recRun || x.waitSlot) && bitsAt (fieldAt x.record 8 4) 1 2 == 2 && bitsAt (fieldAt x.record 0x38 4) 0 4 == r &&
  bitsAt (fieldAt x.record 0x38 4) 4 10 == p

/-- Whether the record a channel performs names a handle of a plot (R226). -/
def chanNames (x : Chan) (p h : Nat) : Bool :=
  let ctl := fieldAt x.record 8 4
  let src := fieldAt x.record 16 8
  let dst := fieldAt x.record 24 8
  x.recRun &&
  ((bitAt ctl 3 && src % 256 == h && bitsAt src 40 10 == p) ||
   (bitsAt ctl 1 2 == 1 && dst % 256 == h && bitsAt dst 40 10 == p) ||
   (bitsAt ctl 1 2 == 2 && x.slot == h && bitsAt (fieldAt x.record 0x38 4) 4 10 == p))

/-- Whether a lattice loads a slot from a handle: by an MLOAD, or again after a restore (R206). -/
def State.latReads (s : State) (p h : Nat) : Bool :=
  (List.range 4).any fun l => (s.lat p l).slots.any fun e => e.2.st == .loading && e.2.tile && e.2.src.toNat % 256 == h

/-- Whether a handle is referenced. -/
def State.referenced (s : State) (p h : Nat) : Bool :=
  let x := s.plot p
  s.portNames p h || s.latReads p h || (x.cmds ++ x.inflight ++ x.mops ++ s.parkedCmds p).any (fun c => c.k.names h) || s.ringHolds p h ||
  s.chans.any fun e => chanNames e.2 p h

/-! Storage (R154, R155). -/

/-- Granules of a tile. -/
def Tile.granules (t : Tile) : Nat := (t.size + 4095) / 4096

/-- Whether a plot counts for a tenant, or for all. -/
def State.plotFor (s : State) (p : Nat) (v : Option Nat) : Bool := match v with | some t => s.plotOwner p == some t | none => true

/-- Granules pinned on a die, of one tenant or of all: those of its tiles, and those that a freed tile has left to be zeroed,
which are not free before (R155) (log 79). -/
def State.pinned (s : State) (die : Nat) (v : Option Nat) : Nat :=
  ((s.tiles.filter fun e => decide (e.2.st ≠ .free) && e.2.level == 1 && dieOf (e.1 / 256) == die && s.plotFor (e.1 / 256) v).map
    fun e => e.2.granules).sum +
  ((s.plots.filter fun e => dieOf e.1 == die && s.plotFor e.1 v).map fun e => e.2.gzero1).sum

/-- Granules of the level-1 store of a die: 128 MiB (log 79). -/
def pinLimit : Nat := 32768

/-- Granules of a pin quota in MiB. -/
def pinGranules (mib : Nat) : Nat := mib * 256

/-- The handle operand of the TILE group: its bits above 7 are res0 (R178). -/
def handleOk (w : Word) : Bool := decide (w.toNat < 256)

/-- TALLOC (R179). -/
def execTalloc (rd rs1 rs2 : Reg) (s : State) : Out :=
  let h := (s.g rs1).toNat % 256
  let w := (s.g rs2).toNat
  let p := s.curPlot
  let lvl := bitsAt w 35 2
  let t : Tile := { st := if bitAt w 37 then .ready else .empty, level := lvl, esz := bitsAt w 32 3,
                    rows := bitsAt w 0 16 + 1, cols := bitsAt w 16 16 + 1 }
  let rb := t.cols * (2 * 2 ^ t.esz)
  let x := s.plot p
  let v := s.curTenant
  let g := t.granules
  onThread s rd <|
    if !handleOk (s.g rs1) ∨ 2 ^ 38 ≤ w ∨ 5 < t.esz ∨ 1 < lvl ∨ rb % 64 ≠ 0 then status s rd stBADARG
    else if (if lvl = 0 then 0x600000 else 0x4000000) < t.size then status s rd stBADARG
    else if (s.tile p h).st ≠ .free then status s rd stBUSY
    else if lvl = 0 then
      if x.gfree < g then status s rd (if g ≤ x.gfree + x.gzero then stBUSY else stNOSPACE)
      else status ((s.setPlot p { x with gfree := x.gfree - g }).setTile p h t) rd stOK
    else if pinGranules (s.tenant v).pinq < s.pinned (dieOf p) (some v) + g then status s rd stQUOTA
    else if pinLimit < s.pinned (dieOf p) none + g then status s rd stNOSPACE
    else status (s.setTile p h t) rd stOK

/-- A handle FREE, its granules in the zeroing queue (R155). -/
def freeTile (s : State) (p h : Nat) : State :=
  let t := s.tile p h
  let x := s.plot p
  (s.setPlot p (if t.level = 0 then { x with gzero := x.gzero + t.granules }
    else { x with gzero1 := x.gzero1 + t.granules })).setTile p h {}

/-- TFREE (R180). -/
def execTfree (rd rs1 : Reg) (s : State) : Out :=
  let h := (s.g rs1).toNat % 256
  let p := s.curPlot
  onThread s rd <|
    if !handleOk (s.g rs1) then status s rd stBADARG
    else
      match (s.tile p h).st with
      | .free => status s rd stBADARG
      | .filling | .draining => status s rd stBUSY
      | _ => if s.referenced p h then status s rd stBUSY else status (freeTile s p h) rd stOK

/-- Whether an address of TFILL and TDRAIN is accepted. -/
def fillAddrOk (a : Word) : Bool := a.toNat % 8 == 0 && decide (a.toNat < 2 ^ 56)

/-- TFILL (R181). -/
def execTfill (rd rs1 rs2 : Reg) (s : State) : Out :=
  let h := (s.g rs1).toNat % 256
  let a := s.g rs2
  let p := s.curPlot
  let t := s.tile p h
  onThread s rd <|
    if !handleOk (s.g rs1) ∨ !fillAddrOk a then status s rd stBADARG
    else
      match t.st with
      | .free => status s rd stBADARG
      | .filling | .draining => status s rd stBUSY
      | _ => acceptCmd s rd (.tfill h a) fun s => s.setTile p h { t with st := .filling, err := false }

/-- TDRAIN (R182). -/
def execTdrain (rd rs1 rs2 : Reg) (s : State) : Out :=
  let h := (s.g rs1).toNat % 256
  let a := s.g rs2
  let p := s.curPlot
  let t := s.tile p h
  onThread s rd <|
    if !handleOk (s.g rs1) ∨ !fillAddrOk a then status s rd stBADARG
    else
      match t.st with
      | .free | .empty => status s rd stBADARG
      | .filling | .draining => status s rd stBUSY
      | .ready => acceptCmd s rd (.tdrain h a) fun s => s.setTile p h { t with st := .draining, err := false }

/-- The state word of a handle (R183). -/
def tileWord (s : State) (p h : Nat) : Word :=
  let t := s.tile p h
  if t.st = .free then 0
  else
    BitVec.ofNat 64 (t.st.code + (if t.err then 8 else 0) + t.level * 16 + t.esz * 32 + (t.rows - 1) * 2 ^ 8 +
      (t.cols - 1) * 2 ^ 24 + (if s.referenced p h then 2 ^ 40 else 0))

/-- TSTAT (R183). -/
def execTstat (rd rs1 : Reg) (s : State) : Out :=
  finish s rd (if s.isThread then tileWord s s.curPlot ((s.g rs1).toNat % 256) else noState) 4

/-- TWAIT (R184). -/
def execTwait (rd rs1 rs2 : Reg) (s : State) : Out :=
  let i : Instr := .twait rd rs1 rs2
  let t := s.tile s.curPlot ((s.g rs1).toNat % 256)
  onThread s rd <|
    if !handleOk (s.g rs1) ∨ t.st = .free then status s rd stBADARG
    else if t.err then status s rd stDENIED
    else if t.st = .ready then status (acquire s) rd stOK
    else if expired s i (s.g rs2) then status s rd stBUSY
    else waitIn s i 0

/-! Bulk accesses of units. -/

/-- A range of virtual bytes cut at 4 KiB pages, over `fuel` pages. -/
def pageSegs (va : Word) (n : Nat) : Nat → List (Word × Nat)
  | 0 => []
  | fuel + 1 =>
    if n = 0 then []
    else
      let m := min n (4096 - va.toNat % 4096)
      (va, m) :: pageSegs (va + BitVec.ofNat 64 m) (n - m) fuel

/-- The segments of `n` bytes. -/
def segsOf (va : Word) (n : Nat) : List (Word × Nat) := pageSegs va n (n / 4096 + 2)

/-- `n` bytes loaded by a unit, page by page: the bytes, or what stopped it and where. The role says which of the unit's
translations serves it (R253). -/
def unitLoad (s : State) (h : Holder) (role v asid : Nat) :
    List (Word × Nat) → List Byte → (XRes × Word × List Byte) × State
  | [], acc => ((.ok 0, 0, acc), s)
  | (va, n) :: rest, acc =>
    match translate s h role v asid true va .read with
    | (.ok spa, s) =>
      match reach s h spa n with
      | (.wait, s) => ((.wait, va, []), s)
      | (.failed, s) => ((.lost spa, va, []), endReach s h)
      | (.here, s) =>
        if s.isBad spa n then ((.uncorr spa, va, []), s) else unitLoad s h role v asid rest (acc ++ viewOf s h spa n)
    | (r, s) => ((r, va, []), s)

/-- The same as one access of the unit: what other packages answered for it is then done with. -/
def unitRead (s : State) (h : Holder) (v asid : Nat) (segs : List (Word × Nat)) : (XRes × Word × List Byte) × State :=
  match unitLoad s h 0 v asid segs [] with
  | ((.wait, a, b), s) => ((.wait, a, b), s)
  | (r, s) => (r, endReach s h)

/-- A plot's cached line without the one a unit of the plot stores to, so that the store is performed at plot scope as
it issues (R160, R162). -/
def dropOwn (s : State) (h : Holder) (spa : Nat) : State :=
  match plotOfParty h with
  | some p => dropLine s p spa
  | none => s

/-- Bytes of at most 8 stored by a unit: the store's id. -/
def unitStore (s : State) (h : Holder) (v asid : Nat) (lnch : Option Nat) (va : Word) (bs : List Byte) : (XRes × Nat) × State :=
  match translate s h (roleOf h .write) v asid true va .write with
  | (.ok spa, s) => ((.ok spa, s.nextId), issueStore (dropOwn s h spa) h v asid va spa bs lnch)
  | (r, s) => ((r, 0), s)

/-- Beats of 8 bytes. -/
def beatsOf : List Byte → Nat → List (List Byte)
  | _, 0 => []
  | bs, n + 1 => bs.take 8 :: beatsOf (bs.drop 8) n

/-- Whether any page of some accesses, in their order, is still to be translated for a party, or any byte it reads still
to be had from another package; those after one that fails are not made. -/
def accWait (s : State) (h : Holder) (v asid : Nat) : List (AccKind × Word × Nat) → Bool × State
  | [] => (false, s)
  | (k, va, n) :: rest =>
    match translate s h (roleOf h k) v asid true va k with
    | (.wait, s) => (true, s)
    | (.ok spa, s) =>
      if k = .read then
        match reach s h spa n with
        | (.wait, s) => (true, s)
        | (_, s) => accWait s h v asid rest
      else accWait s h v asid rest
    | (_, _) => (false, s)

/-- `accWait` for the pieces of a range accessed in one way. -/
def pagesWait (s : State) (h : Holder) (v asid : Nat) (k : AccKind) (l : List (Word × Nat)) : Bool × State :=
  accWait s h v asid (l.map fun p => (k, p))

/-- The beats of a tile stored from a virtual address on, until a store meets a fatal outcome. -/
def drainBeats (s : State) (h : Holder) (v asid : Nat) (lnch : Option Nat) (va : Word) :
    List (List Byte) → (XRes × Word) × State
  | [] => ((.ok 0, 0), s)
  | b :: rest =>
    match unitStore s h v asid lnch va b with
    | ((.ok _, _), s) => drainBeats s h v asid lnch (va + 8) rest
    | ((r, _), s) => ((r, va), s)

/-- The fault record of a fill or drain (R181, R182). -/
def fillFault (s : State) (c : Cmd) (cause : Nat) (r : XRes) (va : Word) : State :=
  match r with
  | .fatal rs lvl => faultRecord s c.tenant cause 5 c.lnch (c.tid % 8192) (xlatInfo c.asid rs lvl) va
  | .lost _ => faultRecord s c.tenant cause 5 c.lnch (c.tid % 8192) (xlatInfo c.asid .undelivered 0) va
  | .uncorr a => let e := uncorrRecord a; faultRecord s c.tenant e.1 5 c.lnch (c.tid % 8192) e.2 va
  | _ => s

/-- A command given up by a reset of its launch: a tile that it fills is EMPTY, one that it drains READY, a mailbox that it has taken
IDLE (Table 7.1, R351) (log 57). -/
def dropCmd (s : State) (p : Nat) (c : Cmd) : State :=
  let tile (h : Nat) (was now : TileSt) : State :=
    let s := withdraw (endXlats s (.fill p h)) (.fill p h)
    let t := s.tile p h
    if t.st = was then s.setTile p h { t with st := now } else s
  match c.k with
  | .tfill h _ => tile h .filling .empty
  | .tdrain h _ => tile h .draining .ready
  | .nbdot m _ =>
    let x := s.mbox m
    if x.owner = some c.tenant ∧ x.st = 1 then
      (withdraw (endXlats s (.near m)) (.near m)).setMbox m { x with st := 0, cmd := none }
    else s
  | _ => s

/-- The command under way that fills or drains a handle. -/
def State.fillCmd (s : State) (p h : Nat) (drain : Bool) : Option (Cmd × Word) :=
  (s.plot p).inflight.findSome? fun c =>
    match c.k with
    | .tfill h' va => if h' = h ∧ !drain then some (c, va) else none
    | .tdrain h' va => if h' = h ∧ drain then some (c, va) else none
    | _ => none

/-- A fill's or drain's command completed, with the translations it held (R253). -/
def endFill (s : State) (p h id : Nat) : State := completeCmds (endXlats s (.fill p h)) p fun d => d.id == id

/-- TFILL_END (R181): the fill has read every beat, or has met a fatal fault; while a page is missing it waits. A fill whose handle
has been taken from it by a reset of its plot ends without effect (log 57). -/
def execTfillEnd (plot h : Nat) (s : State) : Out :=
  match s.fillCmd plot h false with
  | none => .next s
  | some (c, va) =>
    let t := s.tile plot h
    if t.st ≠ .filling then .next (endFill s plot h c.id)
    else
      match unitRead s (.fill plot h) c.tenant c.asid (segsOf va t.size) with
      | ((.wait, _, _), s) => .next s
      | ((.ok _, _, bs), s) => .next (endFill (s.setTile plot h { t with st := .ready, bytes := Mem.write [] 0 bs }) plot h c.id)
      | ((r, a, _), s) =>
        .next (endFill (fillFault (s.setTile plot h { t with st := .empty, err := true }) c cLoad r a) plot h c.id)

/-- TDRAIN_END (R182): every beat stored and performed, or the stores before a fatal fault. -/
def execTdrainEnd (plot h : Nat) (s : State) : Out :=
  match s.fillCmd plot h true with
  | none => .next s
  | some (c, va) =>
    let t := s.tile plot h
    let party : Holder := .fill plot h
    if t.st ≠ .draining then .next (endFill s plot h c.id)
    else
    match pagesWait s party c.tenant c.asid .write (segsOf va t.size) with
    | (true, s) => .next s
    | (false, s) =>
      match drainBeats s party c.tenant c.asid (some c.lnch) va (beatsOf (Mem.read t.bytes 0 t.size) (t.size / 8)) with
      | ((.ok _, _), s) =>
        .next (endFill ((drainParty s party).setTile plot h { t with st := .ready }) plot h c.id)
      | ((r, a), s) =>
        let s := (drainParty s party).setTile plot h { t with st := .ready, err := true }
        .next (endFill (fillFault s c cStore r a) plot h c.id)

/-- GRANULE_ZERO (R155): a granule of the tile store, or else one of the level-1 store. -/
def execGranuleZero (plot : Nat) (s : State) : Out :=
  let x := s.plot plot
  .next (if x.gzero ≠ 0 then s.setPlot plot { x with gzero := x.gzero - 1, gfree := x.gfree + 1 }
    else if x.gzero1 ≠ 0 then s.setPlot plot { x with gzero1 := x.gzero1 - 1 } else s)

end Sys2Proof.Machine
end

