-- ==== Sys2Proof/Machine/CutBase.lean ====
section
/-! DEFINITION. The start of a cut and what nodes record for it (R323-R327): sources of a region, marker injection,
snapshots, and skewed markers. -/

namespace Sys2Proof.Machine

/-- Whether an input endpoint of a cell is connected. -/
def Plane.connected (x : Plane) (ep : Nat) : Bool := (x.feed ep).isSome

/-- The connected inputs of a cell: queues, then the predicate input. -/
def Plane.cellInputs (x : Plane) (c : Nat) : List Nat :=
  ((List.range 8).map fun q => c * 8 + q).filter x.connected ++ (if x.connected (160 + c) then [160 + c] else [])

/-- Whether the mesh exit `e` of plane `k` of plot `q` feeds lane `lane` of entry `d` of plot `p`. -/
def State.exitFeeds (s : State) (q k e p d lane : Nat) : Bool :=
  let y := s.plane q k
  y.st == .configured && y.connected (152 + e) && opposite e == d && y.exitTo q e == some (p, lane)

/-- Whether a mesh entry is fed from a plane outside its region. -/
def State.foreignEntry (s : State) (p k d lane : Nat) : Bool :=
  if lane < 4 then
    match neighbour p d with
    | some q => s.exitFeeds q k (opposite d) p d lane && s.regionKey q k != s.regionKey p k
    | none => false
  else
    s.planes.any fun e =>
      e.1 % 4 == k && s.exitFeeds (e.1 / 4) k (opposite d) p d lane && s.regionKey (e.1 / 4) k != s.regionKey p k

/-- The mesh entries of a plane that are sources of its region, as (entry, lane). -/
def State.foreignEntries (s : State) (p k : Nat) : List (Nat × Nat) :=
  ((List.range 4).flatMap fun d => (List.range 8).map fun l => (d, l)).filter fun e =>
    !((s.plane p k).fed (srcMesh e.1 e.2)).isEmpty && s.foreignEntry p k e.1 e.2

/-- Marker `n` injected at a plane's cells without connected inputs and at its mesh entries fed from outside (R324). -/
def injectPlane (s : State) (n : Nat) (pk : Nat × Nat) : State :=
  let x := s.plane pk.1 pk.2
  let s := ((List.range 16).filter fun c => (x.cellInputs c).isEmpty).foldl
    (fun s c => s.setCell pk.1 pk.2 c { s.cell pk.1 pk.2 c with inject := some n }) s
  (s.foreignEntries pk.1 pk.2).foldl
    (fun s e => s.setPlane pk.1 pk.2 ((s.plane pk.1 pk.2).inject (srcMesh e.1 e.2) n)) s

/-- The marks of a cut removed from the nodes of a region. -/
def clearMarks (s : State) (r : Nat) : State :=
  (s.regionPlanes r).foldl (fun s pk =>
    let x := s.plane pk.1 pk.2
    let s := (List.range 16).foldl (fun s c =>
      s.setCell pk.1 pk.2 c { s.cell pk.1 pk.2 c with cutDone := none, inject := none }) s
    let s := ((List.range 16).filter fun i => bitAt x.portmask i).foldl (fun s i =>
      s.setPort pk.1 i { s.port pk.1 i with cutSeen := none }) s
    ((List.range 4).filter fun l => bitAt x.latmask l).foldl (fun s l =>
      s.setLat pk.1 l { s.lat pk.1 l with cutSeen := none }) s) s

/-- Cut `n` of a region begins in its CONFIGURED planes: its markers are injected at every source but its read ports (R149,
R324). -/
def beginCut (s : State) (r n : Nat) (lodge preempt : Bool) : State :=
  let s := clearMarks s r
  let c := s.cutsOf r
  let parts := (s.regionPlanes r).filter fun pk => (s.plane pk.1 pk.2).st == .configured
  let s := s.setCuts r { c with num := n, active := true, begun := s.cycle, count := c.count + 1, marked := [], lodge := lodge,
                                preempt := preempt, abandoned := false, moving := false, saving := { num := n, preempt := preempt },
                                parts := parts }
  parts.foldl (fun s pk => injectPlane s n pk) s

/-- A change of what the cut in progress of a region saves, if it is cut `n`. -/
def saveInto (s : State) (r n : Nat) (f : Snap → Snap) : State :=
  let c := s.cutsOf r
  if c.active ∧ c.num = n then s.setCuts r { c with saving := f c.saving } else s

/-- A ring as a cut saves it when a producer of it has aligned: as it stands, but for the producers that aligned before,
which keep the slot index and the mark they had then. -/
def mergeRing (old : Option Ring) (now : Ring) (aligned : List Producer) : Ring :=
  match old with
  | none => now
  | some o => { now with
      marks := (now.marks.filter fun q => !aligned.contains q) ++ o.marks.filter fun q => aligned.contains q,
      idx := (now.idx.filter fun e => !aligned.contains e.1) ++ o.idx.filter fun e => aligned.contains e.1 }

/-- A port's part of cut `cut`, with that of the ring it fills (Table 16.1). -/
def snapPort (s : State) (p n cut : Nat) : State :=
  let x := s.port p n
  let mine := (List.range 16).filter fun r => let g := s.ring p r; g.active && g.plane == x.plane && bitAt g.pmask n
  saveInto s (s.regionKey p x.plane) cut fun v =>
    let before := (v.ports.filter fun e => e.1 / 16 = p).map fun e => Producer.port (e.1 % 16)
    { v with ports := v.ports ++ [(p * 16 + n, x)],
             rings := mine.foldl (fun t r =>
               Tbl.set t (p * 16 + r) (mergeRing (Tbl.get? t (p * 16 + r)) (s.ring p r) before)) v.rings }

/-- The slot index of a producer. -/
def Ring.indexOf (g : Ring) (pr : Producer) : Nat := ((g.idx.find? fun e => e.1 == pr).map fun e => e.2).getD 0

/-- A producer's slot index set. -/
def Ring.setIndex (g : Ring) (pr : Producer) (i : Nat) : Ring :=
  { g with idx := (pr, i) :: g.idx.filter fun e => e.1 != pr }

/-- The handle of the slot being filled. -/
def Ring.slotHandle (g : Ring) : Nat := g.h0 + g.w % g.ns

/-- Whether a producer works on slot WIDX: its index is not beyond it, the slot is released (R268), and its tile is EMPTY or
being written by producers. -/
def ringOpen (s : State) (p r : Nat) (pr : Producer) : Bool :=
  let g := s.ring p r
  let t := s.tile p g.slotHandle
  decide (g.indexOf pr ≤ g.w) && decide (g.filled < g.ns) &&
  (t.st == .empty || (t.st == .filling && !s.fillingBy p g.slotHandle))

/-- Every ring tied to a plane UNINIT (R216): channels whose records write a slot of it have lost it, and those that then wait
for their slot do so until their record is found invalid (R217, R225). -/
def dropRings (s : State) (p k : Nat) : State :=
  { s with rings := Tbl.keep (fun i r => !(decide (i / 16 = p) && r.plane == k)) s.rings,
           chans := Tbl.mapVals (fun c x =>
             (List.range 16).foldl (fun x r =>
               if (s.ring p r).active && (s.ring p r).plane == k && x.writes p r then
                 { x with lost := true, waitSlot := x.waitSlot || !ringOpen s p r (.chan c) }
               else x) x) s.chans }

/-- A plane FAULTED: it has left CONFIGURED, so its rings are UNINIT (R216). -/
def planeFaulted (s : State) (p k : Nat) : State :=
  (dropRings s p k).setPlane p k { s.plane p k with st := .faulted }

/-- A cell's fault (R110): recorded in CFAULT; the plane is FAULTED and the cell fires no more. -/
def cellFault (s : State) (p k c sub slot : Nat) : State :=
  let info := fabricInfo sub c slot k false false
  let s := s.setCell p k c { s.cell p k c with halted := true }
  let s := s.setPlane p k { s.plane p k with cfault := info }
  fabricFault (planeFaulted s p k) p k 1 k info

/-- The ports of a mask. -/
def portsIn (mask : Nat) : List Nat := (List.range 16).filter fun n => bitAt mask n

/-- SMARK commands whose markers have all entered their ports' sources completed (Table 6.6). -/
def endSmarks (s : State) (p : Nat) : State :=
  completeCmds s p fun c =>
    match c.k with
    | .smark mask _ n => (portsIn mask).all fun i => (s.port p i).marker != some n
    | _ => false

/-- A port FAULTED: what it stored stands, a tile it was filling is EMPTY (Table 7.1), and it holds no translation and awaits
nothing, nor does an SMARK wait for it (R138, R253, log 92). -/
def stopPort (s : State) (p n : Nat) : State :=
  let x := s.port p n
  let s := withdraw (endXlats s (.port p n)) (.port p n)
  let s := s.setPort p n { x with st := .faulted, fatal := none, stalled := false, marker := none }
  let ctrl := fieldAt x.desc 8 4
  endSmarks (if bitAt ctrl 0 && bitAt ctrl 1 && (s.ringOfPort p n).isNone then tileFailed s p (fieldAt x.desc 0 1) else s) p

/-- A port's fault (R138). -/
def portFault (s : State) (p n sub : Nat) : State :=
  let x := s.port p n
  let s := stopPort s p n
  fabricFault s p x.plane 2 n (fabricInfo sub n 0 x.plane false false)

/-- A port meets an uncorrectable error: of the second tier, STREAM_FATAL (R258); else it stops as for a fatal outcome, and
UNCORR is recorded (R336, log 27). -/
def portUncorr (s : State) (p n spa : Nat) (va : Word) : State :=
  if isTier2 spa then portFault s p n fStreamFatal
  else
    let x := s.port p n
    let r := s.regionKey p x.plane
    let s := faultRecord (stopPort s p n) ((s.planeOwner p x.plane).getD 64) cUncorr 2 (if r < 16384 then r else 0xFFFF)
      (p + n * 1024) (lineInfo spa) va
    if r < 16384 then s.setSlot r { s.slot r with status := 3 } else s

end Sys2Proof.Machine
end

