-- ==== Sys2Proof/Machine/Cells.lean ====
section
/-! DEFINITION. Cells (05_cells): operand lanes and the value of every operation (R113-R124), readiness (R102), the picker
and ageing (R107), beats and stalls (R103, R104), latencies (R106), faults (R110), end-of-tile markers (R101, R218). -/

namespace Sys2Proof.Machine

/-! Values of the lane operations. -/

/-- The reduction of integer results (R114). -/
def reduceInt (w rm : Nat) (k : Int) : Nat := if rm = 1 then satBits w k else wrapBits w k

/-- A lane's signed value. -/
def laneS (w x : Nat) : Int := signedOf w x

/-- The shift amount of a lane (R114). -/
def laneShift (w b : Nat) : Nat := if w = 64 then b % 64 else b % 32

/-- An integer lane result (R114). -/
def intLane (op : CellOp) (w rm a b : Nat) : Nat :=
  match op with
  | .add => reduceInt w rm (laneS w a + laneS w b)
  | .sub => reduceInt w rm (laneS w a - laneS w b)
  | .mul => reduceInt w rm (laneS w a * laneS w b)
  | .and => a &&& b
  | .or => a ||| b
  | .xor => a ^^^ b
  | .shl => reduceInt w rm (laneS w a * 2 ^ laneShift w b)
  | .shr => a >>> laneShift w b
  | .sar => wrapBits w (laneS w a / 2 ^ laneShift w b)
  | .min => if laneS w b < laneS w a then b else a
  | .max => if laneS w a < laneS w b then b else a
  | .abs => reduceInt w rm (laneS w a).natAbs
  | .neg => reduceInt w rm (-laneS w a)
  | _ => 0

/-- Whether a value is a negative zero, or a positive one. -/
def Val.zeroOf (neg : Bool) : Val → Bool
  | .fin s 0 _ => s == neg
  | _ => false

/-- Less-than with -0 below +0 (R116). -/
def Val.below (x y : Val) : Bool := Val.lt x y || (x.zeroOf true && y.zeroOf false)

/-- Whether a value is NaN. -/
def Val.isNan : Val → Bool
  | .nan => true
  | _ => false

/-- The lesser and the greater of two lanes (R116). -/
def fminLane (F : FFmt) (a b : Nat) : Nat :=
  if (F.val a).isNan || (F.val b).isNan then F.nan else if (F.val b).below (F.val a) then b else a
def fmaxLane (F : FFmt) (a b : Nat) : Nat :=
  if (F.val a).isNan || (F.val b).isNan then F.nan else if (F.val a).below (F.val b) then b else a

/-- A floating lane result (R116, R120); `d` is the destination's lane before the beat. -/
def floatLane (op : CellOp) (F : FFmt) (rmc : Nat) (e4 : Bool) (a b d : Nat) : Nat :=
  let rm := rmodeOf rmc
  let x := F.val a
  let y := F.val b
  match op with
  | .fadd => F.round rm e4 (Val.add rm x y)
  | .fsub => F.round rm e4 (Val.add rm x y.neg)
  | .fmul => F.round rm e4 (Val.mul x y)
  | .fma => F.round rm e4 (Val.add rm (F.val d) (Val.mul x y))
  | .fmin => fminLane F a b
  | .fmax => fmaxLane F a b
  | .fabs => if x.isNan then F.nan else a % 2 ^ (F.w - 1)
  | .fneg => if x.isNan then F.nan else a ^^^ 2 ^ (F.w - 1)
  | .exp2 => specRound .exp2 F rm e4 x
  | .log2 => specRound .log2 F rm e4 x
  | .rcp => specRound .rcp F rm e4 x
  | .rsqrt => specRound .rsqrt F rm e4 x
  | .sqrt => specRound .sqrt F rm e4 x
  | .tanh => specRound .tanh F rm e4 x
  | .sigm => specRound .sigm F rm e4 x
  | .gact => gactRound F rmc e4 x y
  | _ => 0

/-- The lane of a beat; a lane beyond the list reads 0. -/
def laneAt (xs : List Nat) (i : Nat) : Nat := xs.getD i 0

/-- A lane-wise result (R114, R116, R120). -/
def laneWise (op : CellOp) (fmt rm : Nat) (e4 : Bool) (a b d : Word) : Word :=
  let w := laneBits fmt
  let as := lanesOf fmt a
  let bs := lanesOf fmt b
  let ds := lanesOf fmt d
  packLanes w ((List.range (64 / w)).map fun i =>
    if fmt ≤ 1 then intLane op w rm (laneAt as i) (laneAt bs i)
    else floatLane op (ffmtOf fmt) rm e4 (laneAt as i) (laneAt bs i) (laneAt ds i))

/-- Whether a comparison holds in every lane (R115, R116). -/
def compareAll (op : CellOp) (fmt : Nat) (a b : Word) : Bool :=
  let w := laneBits fmt
  let as := lanesOf fmt a
  let bs := lanesOf fmt b
  (List.range (64 / w)).all fun i =>
    let x := laneAt as i
    let y := laneAt bs i
    match op with
    | .cmpeq => x == y
    | .cmplt => decide (laneS w x < laneS w y)
    | .cmple => decide (laneS w x ≤ laneS w y)
    | .fcmpeq => Val.eq ((ffmtOf fmt).val x) ((ffmtOf fmt).val y)
    | .fcmplt => Val.lt ((ffmtOf fmt).val x) ((ffmtOf fmt).val y)
    | _ => false

/-- One converted lane (R61, R117). -/
def convertLane (src dst rm : Nat) (e4 : Bool) (a : Nat) : Nat :=
  if 2 ≤ dst then
    (ffmtOf dst).round (rmodeOf rm) e4 (if src ≤ 1 then .ofInt (laneS (laneBits src) a) else (ffmtOf src).val a)
  else if src ≤ 1 then reduceInt (laneBits dst) rm (laneS (laneBits src) a)
  else toIntBits (laneBits dst) (rm == 1) ((ffmtOf src).val a)

/-- CVT (R117): lanes beyond the lesser count are 0. -/
def convertBeat (src dst rm : Nat) (e4 : Bool) (a : Word) : Word :=
  let n := min (64 / laneBits src) (64 / laneBits dst)
  let as := lanesOf src a
  packLanes (laneBits dst) ((List.range (64 / laneBits dst)).map fun i =>
    if i < n then convertLane src dst rm e4 (laneAt as i) else 0)

/-- One lane of a reduction (R121), in order of arrival. -/
def reduceLane (op : CellOp) (fmt rm : Nat) (e4 : Bool) (xs : List Nat) : Nat :=
  let F := ffmtOf fmt
  let w := laneBits fmt
  match xs with
  | [] => 0
  | x :: rest =>
    let first := if 2 ≤ fmt then F.round (rmodeOf rm) e4 (F.val x) else x
    rest.foldl (fun acc y =>
      match op with
      | .rsum =>
        if 2 ≤ fmt then F.round (rmodeOf rm) e4 (Val.add (rmodeOf rm) (F.val acc) (F.val y))
        else reduceInt w rm (laneS w acc + laneS w y)
      | _ => if 2 ≤ fmt then fmaxLane F acc y else if laneS w acc < laneS w y then y else acc) first

/-- RSUM and RMAX over the tokens read (R121). -/
def reduceBeats (op : CellOp) (fmt rm : Nat) (e4 : Bool) (vs : List Word) : Word :=
  packLanes (laneBits fmt) ((List.range (64 / laneBits fmt)).map fun i =>
    reduceLane op fmt rm e4 (vs.map fun v => laneAt (lanesOf fmt v) i))

/-- The mantissa width of a width code (R118, R119). -/
def bfpWidth (code : Nat) : Nat := match code with | 0 => 2 | 1 => 4 | _ => 8

/-- The tokens of one quantised block (R118): mantissa tokens, then the scale word. -/
def quantBlock (fmt rm code : Nat) (vs : List Word) : List Word × Word :=
  let n := bfpWidth code
  let xs := (vs.flatMap (lanesOf fmt)).map (ffmtOf fmt).val
  let q := quantise n (rmodeOf rm) (xs ++ List.replicate (32 - xs.length) (.fin false 0 0))
  ((List.range (n / 2)).map fun t =>
      packLanes n (((q.2.drop (t * (64 / n))).take (64 / n)).map (wrapBits n)),
   BitVec.ofNat 64 (q.1 + min code 2 * 256))

/-- Element `pos` of a block, from the mantissa token that holds it (R119). -/
def dequantElt (fmt rm : Nat) (e4 : Bool) (scale mant : Word) (pos : Nat) : Nat :=
  let n := bfpWidth (bitsAt scale.toNat 8 2)
  let j := pos % (64 / n)
  (ffmtOf fmt).round (rmodeOf rm) e4 (bfpVal n (bitsAt scale.toNat 0 8) (signedOf n (bitsAt mant.toNat (n * j) n)))

/-- A beat of DQBFP whose elements, from `pos` on, lie in one mantissa token (R119). -/
def dequantBeat (fmt rm : Nat) (e4 : Bool) (scale mant : Word) (pos : Nat) : Word :=
  packLanes (laneBits fmt) ((List.range (64 / laneBits fmt)).map fun i => dequantElt fmt rm e4 scale mant (pos + i))

end Sys2Proof.Machine

namespace Sys2Proof

/-! Shapes of operations. -/

/-- Where an operation writes (R32, R122). -/
inductive DstKind where
  | none
  | reg (r : Nat)
  | out (q : Nat)
  | pred (p : Nat)
  deriving DecidableEq, Repr

/-- The destination of an operation word. -/
def OpWord.dstKind (o : OpWord) : DstKind :=
  match o.op with
  | .nop | .drop => .none
  | .cmpeq | .cmplt | .cmple | .fcmpeq | .fcmplt | .pset | .pand | .por | .pnot | .precv => .pred (o.dst % 4)
  | _ => if o.dst < 24 then .reg o.dst else .out (o.dst - 24)

/-- Operations that consume a predicate token in each beat (R101). -/
def CellOp.usesPin : CellOp → Bool
  | .steer | .merge | .precv => true
  | _ => false

/-- Predicates an operation reads (R101). -/
def OpWord.readsPreds (o : OpWord) : List Nat :=
  match o.op with
  | .sel => [0]
  | .pand | .por => [o.sa % 4, o.sb % 4]
  | .pnot | .psend => [o.sa % 4]
  | _ => []

/-- A source: its field, E bit and K bit. -/
structure SrcField where
  x : Nat
  e : Bool
  k : Bool
  deriving DecidableEq, Repr

/-- The sources A and B. -/
def OpWord.srcA (o : OpWord) : SrcField := { x := o.sa, e := o.ea, k := o.ka }
def OpWord.srcB (o : OpWord) : SrcField := { x := o.sb, e := o.eb, k := o.kb }

/-- The sources an operation uses. -/
def OpWord.srcs (o : OpWord) : List SrcField :=
  (if o.op.useA = .operand then [o.srcA] else []) ++ (if o.op.useB = .operand then [o.srcB] else [])

/-- The base latency B (Table 5.3). -/
def OpWord.base (o : OpWord) : Nat :=
  match o.op with
  | .fadd | .fsub | .fmul | .fma | .fmin | .fmax | .fcmpeq | .fcmplt | .fabs | .fneg | .cvt | .qbfp | .dqbfp => 4
  | .rsum | .rmax => if o.fmt ≤ 1 then 1 else 4
  | .exp2 | .log2 | .rcp | .rsqrt | .sqrt | .tanh | .sigm | .gact => 12
  | _ => 1

/-- Cycles of one beat: 4 for the FP64 forms of the special functions and GACT. -/
def OpWord.beatCycles (o : OpWord) : Nat := if o.base = 12 ∧ o.fmt = 2 then 4 else 1

/-- Latency L of a rule of `n` beats (R106). -/
def OpWord.latency (o : OpWord) (n : Nat) : Nat := o.base + n * o.beatCycles - 1

end Sys2Proof

namespace Sys2Proof.Machine

/-! Cells and their queues. -/

/-- AGELIM and DEADTRAP as they stand at a cycle: a write takes effect 8 cycles after it (R109) (log 80). -/
def Plane.opts (pl : Plane) (now : Nat) : Nat × Bool :=
  match (pl.nextOpt.filter fun e => decide (e.1 + 8 ≤ now)).getLast? with
  | some (_, a, d) => (a, d)
  | none => (pl.agelim, pl.deadtrap)


/-- A register of a cell. -/
def Cell.reg (x : Cell) (r : Nat) : CReg := if h : r < 24 then x.regs[r] else {}
def Cell.setReg (x : Cell) (r : Nat) (v : CReg) : Cell := if h : r < 24 then { x with regs := x.regs.set r v } else x

/-- A predicate of a cell, and whether it is pending. -/
def Cell.pred (x : Cell) (p : Nat) : Bool × Bool := if h : p < 4 then x.preds[p] else (false, false)
def Cell.setPred (x : Cell) (p : Nat) (v : Bool × Bool) : Cell := if h : p < 4 then { x with preds := x.preds.set p v } else x

/-- The rule of a slot, when the slot holds one (R31). -/
def Cell.ruleAt (x : Cell) (slot : Nat) : Option (Trigger × OpWord) :=
  match Tbl.get? x.rules slot with
  | none => none
  | some w => if (decTrigger w.1).v then (decOpWord w.2).map fun o => (decTrigger w.1, o) else none

/-- The slots that hold rules. -/
def Cell.slots (x : Cell) : List Nat := (Tbl.keys x.rules).filter fun i => (x.ruleAt i).isSome

/-- Results on their way to an output queue: their slots are reserved (R106). -/
def Cell.reserved (x : Cell) (q : Nat) : Nat :=
  (x.land_.filter fun l => match l.dst with | .out q' _ => q' == q | _ => false).length

/-- Whether output queue `q` of cell `c` has a free slot. -/
def outRoom (pl : Plane) (x : Cell) (c q : Nat) : Bool :=
  (pl.fed (srcCell c q)).isEmpty || decide ((pl.srcBuf (srcCell c q)).length + x.reserved q < srcDepth)

/-- The predicate token at the head of a cell's predicate input. -/
def pinTok (pl : Plane) (c : Nat) : Option Bool :=
  match pl.headTok (160 + c) with
  | some t => (match t.k with | .pred b => some b | _ => none)
  | none => none

/-- Whether a queue's head is a marker. -/
def headMarked (pl : Plane) (ep : Nat) : Bool := match pl.headTok ep with | some t => t.marker | none => false

/-- The `i`-th data token of a source queue ahead of any marker. -/
def tokAt (pl : Plane) (c q i : Nat) : Option Tok := (ahead (pl.epBuf (c * 8 + q)))[i]?

/-- The block a DQBFP rule is in: scale word, mantissa token, next element (R119, log 29). -/
def Cell.block (x : Cell) (o : OpWord) : Word × Word × Nat := Tbl.getD x.dq o.sa (0, 0, 0)

/-- Whether the next beat of a DQBFP rule reads a mantissa token; it reads a scale word when it begins a block. -/
def needsMant (b : Word × Word × Nat) : Bool := b.2.2 == 0 || b.2.2 % (64 / bfpWidth (bitsAt b.1.toNat 8 2)) == 0

/-- The sources that a beat reads, and that conditions 2 and 8 of readiness test (R102): MERGE the one its predicate token
selects, DQBFP those that the next beat needs. -/
def testedSrcs (x : Cell) (o : OpWord) (pin : Bool) : List SrcField :=
  match o.op with
  | .merge => [if pin then o.srcA else o.srcB]
  | .dqbfp =>
    let b := x.block o
    (if needsMant b then [o.srcA] else []) ++ (if b.2.2 = 0 then [o.srcB] else [])
  | _ => o.srcs

/-- Whether a source is empty: a register with a write pending, a queue with no token ahead of a marker. -/
def srcEmpty (pl : Plane) (x : Cell) (c : Nat) (f : SrcField) : Bool :=
  if f.x < 24 then (x.reg f.x).st == .empty else pl.occ (c * 8 + (f.x - 24)) == 0

/-- Whether a register source, or the destination an FMA reads, is dead (R100) (log 51). -/
def readsDead (x : Cell) (o : OpWord) (fs : List SrcField) : Bool :=
  fs.any (fun f => decide (f.x < 24) && (x.reg f.x).st == .dead) || (o.op == .fma && (x.reg o.dst).st == .dead)

/-- The predicate tests of a guard (R31, R101). -/
def predsHold (x : Cell) (t : Trigger) : Bool :=
  (List.range 4).all fun k => !t.pm.getLsbD k || (!(x.pred k).2 && (x.pred k).1 == t.pv.getLsbD k)

/-- The queue tests of a guard (R31): `skip` names endpoints whose marker stands in for their tokens. -/
def queuesHold (pl : Plane) (x : Cell) (c : Nat) (t : Trigger) (skip : List Nat) : Bool :=
  let iq := c * 8 + t.iq
  let headTag := match pl.headTok iq with | some h => h.tagOf | none => 7
  (!t.qe || skip.contains iq || (decide (min (t.nm1 + 1) 8 ≤ pl.occ iq) && (t.tag == 7 || headTag == t.tag))) &&
  (!t.oe || outRoom pl x c t.oq) &&
  (!t.q2e || skip.contains (c * 8 + t.iq2) || decide (0 < pl.occ (c * 8 + t.iq2))) &&
  (!t.pt || skip.contains (160 + c) || (pinTok pl c).isSome)

/-- Whether the destination admits a result (R102, conditions 4 and 5) (log 51). -/
def dstHolds (pl : Plane) (x : Cell) (c : Nat) (o : OpWord) : Bool :=
  match o.dstKind with
  | .reg r => (x.reg r).st != .empty
  | .out q => outRoom pl x c q
  | _ => true

/-- What readiness says of a rule: not ready, ready, or stopped by a source with E = 1 or a dead one (R102, R110). -/
inductive Ready where
  | no
  | yes
  | fault (sub : Nat)
  deriving DecidableEq, Repr

/-- The PRED_MISMATCH test of a STEER or MERGE rule (R110, R123): the endpoint whose marker mismatches. -/
def mismatch (pl : Plane) (c : Nat) (o : OpWord) : Option Nat :=
  let data (f : SrcField) : Bool :=
    decide (24 ≤ f.x) && (match pl.headTok (c * 8 + (f.x - 24)) with | some t => !t.marker | none => false)
  let mark (f : SrcField) : Option Nat :=
    if 24 ≤ f.x ∧ headMarked pl (c * 8 + (f.x - 24)) then some (c * 8 + (f.x - 24)) else none
  match o.op with
  | .steer =>
    if headMarked pl (160 + c) then (if data o.srcA then some (160 + c) else none)
    else if (pinTok pl c).isSome then mark o.srcA else none
  | .merge =>
    if headMarked pl (160 + c) then (if data o.srcA || data o.srcB then some (160 + c) else none)
    else match pinTok pl c with
      | some b => mark (if b then o.srcA else o.srcB)
      | none => none
  | _ => none

/-- Condition 3 of readiness (R102): every register source with E = 0 is full or dead. -/
def regsHold (x : Cell) (o : OpWord) : Bool := o.srcs.all fun f => f.e || decide (24 ≤ f.x) || (x.reg f.x).st != .empty

/-- The readiness of a rule (R102). A mismatch counts when every condition on the other inputs holds (log 30). DESIGN CHOICE
(log 87): a MERGE whose selected queue has E = 1 and is empty meets condition 8, not condition 6, and raises EMPTY_READ; a rule
with both an empty source with E = 1 and a dead one raises EMPTY_READ; a STEER or MERGE that meets PRED_MISMATCH and another fault
raises PRED_MISMATCH. -/
def readiness (pl : Plane) (x : Cell) (c : Nat) (t : Trigger) (o : OpWord) (deadtrap : Bool) : Ready :=
  let miss := mismatch pl c o
  if miss.isSome && predsHold x t && queuesHold pl x c t miss.toList && dstHolds pl x c o && regsHold x o then .fault fPredMismatch
  else if !predsHold x t || !queuesHold pl x c t [] || !dstHolds pl x c o || !regsHold x o then .no
  else if o.readsPreds.any fun k => (x.pred k).2 then .no
  else if o.op.usesPin && (pinTok pl c).isNone then .no
  else
    let fs := testedSrcs x o ((pinTok pl c).getD false)
    if fs.any fun f => !f.e && srcEmpty pl x c f then .no
    else if fs.any fun f => f.e && srcEmpty pl x c f then .fault fEmptyRead
    else if deadtrap && readsDead x o fs then .fault fDeadRead
    else .yes

/-! Results landing (R106). -/

/-- One result written where it goes; a predicate's pending bit is cleared by the landing of a writer that set it (R101). -/
def landOne (c : Nat) (px : Plane × Cell) (l : Landing) : Plane × Cell :=
  match l.dst with
  | .reg r => (px.1, px.2.setReg r { v := l.v, st := .full })
  | .back r st => (px.1, px.2.setReg r { v := l.v, st := st })
  | .pred p => (px.1, px.2.setPred p (l.v.getLsbD 0, !l.long && (px.2.pred p).2))
  | .out q tag =>
    (px.1.emit (srcCell c q) (if l.isPred then .pred (l.v.getLsbD 0) else .data l.v tag) px.2.hor, px.2)

/-- Every result whose cycle has come, in the order of their cycles. DESIGN CHOICE (log 87): of two that enter one output queue
in one cycle the one sent first goes first. -/
def landDue (now c : Nat) (px : Plane × Cell) : Plane × Cell :=
  let due := (px.2.land_.filter fun l => l.at_ ≤ now).mergeSort fun a b => decide (a.at_ ≤ b.at_)
  due.foldl (landOne c) (px.1, { px.2 with land_ := px.2.land_.filter fun l => now < l.at_ })

/-! Beats. -/

/-- What a beat does. -/
inductive BeatRes where
  | done (pl : Plane) (x : Cell)
  | stall
  | fault (sub : Nat)
  deriving Repr

/-- How far into a queue a beat reads. DESIGN CHOICE (log 87): a peeked queue of a MERGE or DQBFP is counted by the reads made of
it, not by the beat's number. -/
def readIndex (o : OpWord) (r : Running) (q : Nat) : Nat := if o.peek then Tbl.getD r.pk q 0 else 0

/-- A source's value and tag in a beat, if it is there; a register's tag is none (log 28). -/
def readSrc (pl : Plane) (x : Cell) (c : Nat) (o : OpWord) (r : Running) (f : SrcField) : Option (Word × Option Nat × List Nat) :=
  if f.x < 24 then some ((x.reg f.x).v, none, [])
  else (tokAt pl c (f.x - 24) (readIndex o r (f.x - 24))).map fun t => (t.value, some t.tagOf, t.hor)

/-- A queue source's token dequeued, or counted when it is peeked. -/
def consumeSrc (c : Nat) (o : OpWord) (pr : Plane × Running) (f : SrcField) : Plane × Running :=
  if f.x < 24 then pr
  else if o.peek then (pr.1, { pr.2 with pk := Tbl.set pr.2.pk (f.x - 24) (Tbl.getD pr.2.pk (f.x - 24) 0 + 1) })
  else (pr.1.popEp (c * 8 + (f.x - 24)), pr.2)

/-- Sources read once each, though both fields name one queue. -/
def distinctSrcs (fs : List SrcField) : List SrcField :=
  fs.foldl (fun acc f => if acc.any fun g => g.x = f.x then acc else acc ++ [f]) []

/-- What a beat gives: a value for the destination with its tag, a predicate, values gathered, tokens for output queues,
and whether a value is a predicate token. -/
structure BeatVal where
  v     : Option Word := none
  tag   : Nat := 0
  pv    : Option Bool := none
  accum : List Word := []
  outq  : List (Nat × Word) := []
  isPred : Bool := false
  other : Bool := false
  deriving Repr

/-- The block of QBFP that a beat completes: tokens for output queues, or a register's value (R118). -/
def qbfpBeat (o : OpWord) (vs : List Word) (last : Bool) : BeatVal :=
  if last || vs.length * (64 / laneBits o.fmt) % 32 == 0 then
    let b := quantBlock o.fmt o.rm o.sb vs
    match o.dstKind with
    | .out q => { accum := [], outq := b.1.map (fun m => (q, m)) ++ [(q ^^^ 1, b.2)] }
    | _ => { accum := [], v := b.1.getLast? }
  else { accum := vs }

/-- The effect of one beat of every operation but DQBFP on its operands (R113-R124). `d` is the destination's running
value, `a` and `b` the operands, `at_` A's tag, `pin` the predicate token. DESIGN CHOICE (log 28): PAND, POR and PNOT of
several beats read in each a source predicate that is their destination as it stood before the rule. -/
def beatVal (x : Cell) (o : OpWord) (e4 : Bool) (accum : List Word) (last : Bool) (d a b : Word) (tagA : Option Nat)
    (pin : Bool) : BeatVal :=
  match o.op with
  | .nop | .drop => {}
  | .mov | .merge => { v := some a, tag := tagA.getD 0 }
  | .steer => { v := some a, tag := tagA.getD 0, other := !pin }
  | .tagset => { v := some a, tag := if o.sb % 8 = 7 then tagA.getD 0 else o.sb % 8 }
  | .sel => { v := some (if (x.pred 0).1 then a else b) }
  | .psend => { v := some (if (x.pred (o.sa % 4)).1 then 1 else 0), isPred := true }
  | .pset => { pv := some (o.sa % 2 == 1) }
  | .pand => { pv := some ((x.pred (o.sa % 4)).1 && (x.pred (o.sb % 4)).1) }
  | .por => { pv := some ((x.pred (o.sa % 4)).1 || (x.pred (o.sb % 4)).1) }
  | .pnot => { pv := some (!(x.pred (o.sa % 4)).1) }
  | .precv => { pv := some pin }
  | .cmpeq | .cmplt | .cmple | .fcmpeq | .fcmplt => { pv := some (compareAll o.op o.fmt a b) }
  | .cvt => { v := some (convertBeat (o.sb % 8) o.fmt o.rm e4 a) }
  | .rsum | .rmax =>
    { accum := accum ++ [a], v := if last then some (reduceBeats o.op o.fmt o.rm e4 (accum ++ [a])) else none }
  | .qbfp => qbfpBeat o (accum ++ [a]) last
  | _ => { v := some (laneWise o.op o.fmt o.rm e4 a b d) }

/-- A result put on its way. -/
def Cell.send (x : Cell) (at_ : Nat) (dst : ResDst) (v : Word) (isPred : Bool) (long : Bool := false) : Cell :=
  { x with land_ := x.land_ ++ [{ at_ := at_, dst := dst, v := v, isPred := isPred, long := long }] }

/-- Tokens still to be written that find room, in order. -/
def flushOut (pl : Plane) (c at_ : Nat) (x : Cell) : List (Nat × Word) → Cell × List (Nat × Word)
  | [] => (x, [])
  | (q, w) :: rest =>
    if outRoom pl x c q then flushOut pl c at_ (x.send at_ (.out q 0) w false) rest else (x, (q, w) :: rest)

/-- Registers that K bits free after the last beat (R99). DESIGN CHOICE (log 87): a register source that the last beat does not
read (MERGE's other source, a DQBFP source not needed) is freed too. -/
def freeKs (x : Cell) (o : OpWord) : Cell :=
  o.srcs.foldl (fun x f =>
    if f.x < 24 ∧ f.k ∧ o.dstKind ≠ .reg f.x then x.setReg f.x { x.reg f.x with st := .dead } else x) x

/-- The last beat is done: the destination's result is on its way and K bits free their registers. -/
def finishRule (now n : Nat) (x : Cell) (o : OpWord) (r : Running) : Cell :=
  let at_ := now + o.beatCycles + (o.base - 1)
  let x := freeKs x o
  let x := match o.dstKind with
    | .reg d => if r.wrote then x.send at_ (.reg d) r.cur false else x.send at_ (.back d r.old) r.cur false
    | .pred p => (match r.pv with
      | some b => x.send at_ (.pred p) (if b then 1 else 0) false (decide (1 < o.latency n))
      | none => x)
    | _ => x
  { x with run := if o.beatCycles = 1 then none else some { r with spent := true, due := now + o.beatCycles } }

/-- After a beat: the next beat falls due, or the rule finishes once its tokens are written. -/
def afterBeat (pl : Plane) (now c n : Nat) (x : Cell) (o : OpWord) (r : Running) : Cell :=
  let f := flushOut pl c (now + o.beatCycles + (o.base - 1)) x r.outq
  let r := { r with outq := f.2, due := now + o.beatCycles }
  if r.outq.isEmpty ∧ n ≤ r.beat then finishRule now n f.1 o r else { f.1 with run := some r }

/-- The room a beat's value needs in an output queue, and the queue: STEER's other queue for a token it turns aside. -/
def valueQueue (o : OpWord) (b : BeatVal) : Option Nat :=
  match b.v, o.dstKind with
  | some _, .out q => some (if b.other then q ^^^ 1 else q)
  | _, _ => none

/-- A beat's value written: into an output queue, or as the destination's running value. DESIGN CHOICE (log 87): each beat's
token enters its output queue at that beat's cycle plus the base latency, where R106 gives the rule's latency only. -/
def writeVal (now : Nat) (x : Cell) (o : OpWord) (r : Running) (b : BeatVal) : Cell × Running :=
  let r := { r with accum := b.accum, outq := r.outq ++ b.outq, pv := if b.pv.isSome then b.pv else r.pv }
  match b.v with
  | none => (x, r)
  | some v =>
    match valueQueue o b with
    | some q => (x.send (now + o.beatCycles + (o.base - 1)) (.out q b.tag) v b.isPred, r)
    | none => if b.other then (x, r) else (x, { r with cur := v, wrote := true })

/-- Whether a beat finds a source missing: a queue without the token it needs, or a register with a write pending that is not
the rule's own destination. -/
def srcMissing (pl : Plane) (x : Cell) (c : Nat) (o : OpWord) (r : Running) (f : SrcField) : Bool :=
  if f.x < 24 then (x.reg f.x).st == .empty && o.dstKind != .reg f.x else (readSrc pl x c o r f).isNone

/-- What the sources a beat reads say of it (R104, R110): a fault, a stall, or nothing. DESIGN CHOICE (log 87): a peeked queue
that holds tokens but not the one the beat needs counts as empty. -/
def srcsCheck (pl : Plane) (c : Nat) (x : Cell) (o : OpWord) (r : Running) (fs : List SrcField) : Ready :=
  if fs.any fun f => f.e && srcMissing pl x c o r f then .fault fEmptyRead
  else if r.trap && fs.any (fun f => decide (f.x < 24) && (x.reg f.x).st == .dead) then .fault fDeadRead
  else if fs.any fun f => srcMissing pl x c o r f then .no
  else .yes

/-- One beat of an operation other than DQBFP (R103, R104). -/
def plainBeat (pl : Plane) (now c n : Nat) (x : Cell) (o : OpWord) (r : Running) : BeatRes :=
  let pin := pinTok pl c
  let p := pin.getD false
  let fs := if o.op = .merge then (if pin.isNone then [] else [if p then o.srcA else o.srcB]) else o.srcs
  match srcsCheck pl c x o r fs with
  | .fault sub => .fault sub
  | .no => .stall
  | .yes =>
    if o.op.usesPin && pin.isNone then .stall
    else
      let av := match fs with | f :: _ => (readSrc pl x c o r f).getD (0, none, []) | [] => (0, none, [])
      let bv := match fs with | _ :: f :: _ => (readSrc pl x c o r f).getD (0, none, []) | _ => (0, none, [])
      let b := beatVal x o pl.e4nan r.accum (decide (n ≤ r.beat + 1)) r.cur av.1 bv.1 av.2.1 p
      let room := match valueQueue o b with | some q => outRoom pl x c q | none => true
      if !room then .stall
      else
        let pr := (distinctSrcs fs).foldl (consumeSrc c o) (pl, r)
        let pl := if o.op.usesPin then pr.1.popEp (160 + c) else pr.1
        let x := { x with hor := joinHor (joinHor x.hor av.2.2) bv.2.2 }
        let w := writeVal now x o { pr.2 with beat := pr.2.beat + 1 } b
        .done pl (afterBeat pl now c n w.1 o w.2)

/-- One token of a DQBFP rule read from a source (R119): the plane, the running rule and the value. -/
def dqRead (pl : Plane) (x : Cell) (c : Nat) (o : OpWord) (r : Running) (f : SrcField) : Option (Plane × Running × Word × List Nat) :=
  (readSrc pl x c o r f).map fun v => let pr := consumeSrc c o (pl, r) f; (pr.1, pr.2, v.1, v.2.2)

/-- How far a beat of DQBFP has come: the plane, the running rule, the block, the horizons joined and the elements made. -/
structure DqState where
  pl   : Plane
  r    : Running
  blk  : Word × Word × Nat
  hor  : List Nat := []
  vals : List Nat := []
  deriving Repr

/-- What an element of a DQBFP beat answers: it stalls on a source that is missing as far as the beat has come. -/
inductive DqRes where
  | done (d : DqState)
  | stall (d : DqState) (f : SrcField)
  | fault (sub : Nat)
  deriving Repr

/-- One element of a DQBFP beat (R119): a scale word read at its block's start, a mantissa token where one is needed. -/
def dqElement (x : Cell) (c : Nat) (o : OpWord) (d : DqState) : DqRes :=
  let pos := d.blk.2.2
  match (if pos = 0 then dqRead d.pl x c o d.r o.srcB else some (d.pl, d.r, d.blk.1, [])) with
  | none => if o.eb || (o.ea && srcMissing d.pl x c o d.r o.srcA) then .fault fEmptyRead else .stall d o.srcB
  | some (pl, r, scale, h1) =>
    match (if needsMant (scale, d.blk.2.1, pos) then dqRead pl x c o r o.srcA else some (pl, r, d.blk.2.1, [])) with
    | none => if o.ea then .fault fEmptyRead else .stall { d with pl := pl, r := r } o.srcA
    | some (pl, r, mant, h2) =>
      .done { pl := pl, r := r, blk := (scale, mant, (pos + 1) % 32), hor := joinHor (joinHor d.hor h1) h2,
              vals := d.vals ++ [dequantElt o.fmt o.rm pl.e4nan scale mant pos] }

/-- The elements of a DQBFP beat in order; a beat whose reads are not all there reads nothing. -/
def dqElements (x : Cell) (c : Nat) (o : OpWord) (d : DqState) : Nat → DqRes
  | 0 => .done d
  | n + 1 =>
    match dqElement x c o d with
    | .done d => dqElements x c o d n
    | r => r

/-- One beat of DQBFP (R103, R119): as many elements as the format has lanes, which may take several mantissa tokens and a
scale word for each block begun. -/
def dqBeat (pl : Plane) (now c n : Nat) (x : Cell) (o : OpWord) (r : Running) : BeatRes :=
  match srcsCheck pl c x o r (testedSrcs x o false) with
  | .fault sub => .fault sub
  | .no => .stall
  | .yes =>
    match dqElements x c o { pl := pl, r := r, blk := x.block o } (64 / laneBits o.fmt) with
    | .fault sub => .fault sub
    | .stall _ _ => .stall
    | .done d =>
      let room := match o.dstKind with | .out q => outRoom d.pl x c q | _ => true
      if !room then .stall
      else
        let x := { x with dq := Tbl.set x.dq o.sa d.blk, hor := joinHor x.hor d.hor }
        let w := writeVal now x o { d.r with beat := d.r.beat + 1 } { v := some (packLanes (laneBits o.fmt) d.vals) }
        .done d.pl (afterBeat d.pl now c n w.1 o w.2)

/-- The next beat of a fired rule whose tokens are written. -/
def beatOnce (pl : Plane) (now c : Nat) (x : Cell) (t : Trigger) (o : OpWord) (r : Running) : BeatRes :=
  if t.nm1 + 1 ≤ r.beat then .done pl (afterBeat pl now c (t.nm1 + 1) x o r)
  else (if o.op = .dqbfp then dqBeat else plainBeat) pl now c (t.nm1 + 1) x o r

/-- A fired rule's tokens still to be written, as many as find room: they are written whatever its next beat finds (R104, R118). -/
def writePending (pl : Plane) (now c : Nat) (x : Cell) (o : OpWord) (r : Running) : Cell × Running :=
  let f := flushOut pl c (now + o.beatCycles + (o.base - 1)) x r.outq
  let r := { r with outq := f.2 }
  ({ f.1 with run := some r }, r)

/-! Picking. -/

/-- AGELIM and DEADTRAP as last written. -/
def Plane.written (pl : Plane) : Nat × Bool :=
  match pl.nextOpt.getLast? with
  | some (_, a, d) => (a, d)
  | none => (pl.agelim, pl.deadtrap)

/-- What the picker finds (R107, R110). -/
inductive Pick where
  | fault (sub slot : Nat)
  | fire (slot : Nat)
  | idle
  deriving DecidableEq, Repr

/-- The readiness of the rule in a slot. -/
def Cell.readySlot (pl : Plane) (now c : Nat) (x : Cell) (slot : Nat) : Ready :=
  match x.ruleAt slot with
  | some (t, o) => readiness pl x c t o (pl.opts now).2
  | none => .no

/-- The slots of a cell that are ready, in increasing order. -/
def readySlots (pl : Plane) (now c : Nat) (x : Cell) : List Nat :=
  x.slots.filter fun i => x.readySlot pl now c i == .yes

/-- The role of the rule in a slot. -/
def Cell.roleOf (x : Cell) (slot : Nat) : Nat := match x.ruleAt slot with | some (t, _) => t.role | none => 4

/-- The picker's choice among ready rules (R107): promoted ones in order of promotion, then by role, then by slot. -/
def choose (x : Cell) (ready : List Nat) : Option Nat :=
  match x.promoted.find? fun i => ready.contains i with
  | some i => some i
  | none => (List.range 4).findSome? fun role => ready.find? fun i => x.roleOf i == role

/-- What happens in a picking cycle: a fault comes before any choice (R110). DESIGN CHOICE (log 87): of several rules that fault
in one cycle the lowest slot's is recorded. -/
def pickOf (pl : Plane) (now c : Nat) (x : Cell) : Pick :=
  match x.slots.findSome? fun i => match x.readySlot pl now c i with | .fault sub => some (sub, i) | _ => none with
  | some (sub, i) => .fault sub i
  | none =>
    match choose x (readySlots pl now c x) with
    | some i => .fire i
    | none => .idle

/-- Ageing counters after a picking cycle, and the slots promoted at its end (R107). -/
def ageCell (pl : Plane) (now : Nat) (x : Cell) (ready : List Nat) (fired : Option Nat) : Cell × Nat :=
  let ages : Tbl Nat := x.slots.filterMap fun i =>
    if ready.contains i && fired != some i then some (i, min (Tbl.getD x.ages i 0 + 1) 4095) else none
  let keep := x.promoted.filter fun i => ready.contains i && fired != some i
  let new := (ages.filter fun e => decide ((pl.opts now).1 ≤ e.2) && !keep.contains e.1).map fun e => e.1
  ({ x with ages := ages, promoted := keep ++ new }, new.length)

/-- A rule fires (R99, R101): its destination becomes empty or pending when its latency exceeds 1. -/
def fireRule (x : Cell) (t : Trigger) (o : OpWord) (slot : Nat) : Cell × Running :=
  let long := decide (1 < o.latency (t.nm1 + 1))
  match o.dstKind with
  | .reg d =>
    let r : Running := { slot := slot, cur := (x.reg d).v, old := (x.reg d).st }
    (if long then x.setReg d { x.reg d with st := .empty } else x, r)
  | .pred p => (if long then x.setPred p ((x.pred p).1, true) else x, { slot := slot })
  | _ => (x, { slot := slot })

/-- Whether the cell's datapath begins no beat of an earlier rule: none is fired, or one has only occupancy left that
has passed. DESIGN CHOICE (log 87): a cycle in which a fired rule's beat stalls is no picking cycle. -/
def Cell.idleAt (x : Cell) (now : Nat) : Bool :=
  match x.run with
  | none => true
  | some r => r.spent && decide (r.due ≤ now)

/-- Whether a cycle is one in which cell `c` of a plane may act: the plane is resident and runs, the cell has not
faulted, and it has not acted in this cycle (R102, R322). -/
def cellActs (s : State) (p k c : Nat) : Bool :=
  s.residentPlane p == some k && s.planeRuns p k && !(s.cell p k c).halted && (s.cell p k c).last != some s.cycle

/-- A cell and its plane with the results due in this cycle landed. -/
def landed (s : State) (p k c : Nat) : Plane × Cell := landDue s.cycle c (s.plane p k, s.cell p k c)

/-- A cell and its plane put back. -/
def putCell (s : State) (p k c : Nat) (px : Plane × Cell) : State := (s.setPlane p k px.1).setCell p k c px.2

/-- What the earlier beats of a rule have given its register or predicate stands when a later beat faults (R110). -/
def keepBeats (x : Cell) (slot : Nat) : Cell :=
  match x.run, x.ruleAt slot with
  | some r, some (t, o) =>
    let x := { x with run := none }
    (match o.dstKind with
     | .reg d => x.setReg d { v := if r.wrote then r.cur else (x.reg d).v, st := if r.wrote then .full else r.old }
     | .pred p => x.setPred p (r.pv.getD (x.pred p).1, decide (o.latency (t.nm1 + 1) ≤ 1) && (x.pred p).2)
     | _ => x)
  | _, _ => { x with run := none }

/-- The outcome of a beat put into the state. -/
def putBeat (s : State) (p k c : Nat) (pl : Plane) (x : Cell) (slot : Nat) (b : BeatRes) : State :=
  match b with
  | .done pl x => putCell s p k c (pl, { x with last := some s.cycle })
  | .stall => putCell s p k c (pl, { x with last := some s.cycle })
  | .fault sub => cellFault (putCell s p k c (pl, keepBeats x slot)) p k c sub slot

/-- An end-of-tile marker at the head of the predicate input removed (R101). -/
def dropPinEot (pl : Plane) (c : Nat) : Plane :=
  if (pl.headTok (160 + c)).map (fun t => t.k) = some .eot then pl.popEp (160 + c) else pl

/-- A picking cycle of a cell (R107); one that finds no fault removes an end-of-tile marker at the head of the predicate input
(R101). -/
def pickingCycle (s : State) (p k c : Nat) : State :=
  let px := landed s p k c
  let pl := px.1
  let x := px.2
  if !cellActs s p k c ∨ !x.idleAt s.cycle then putCell s p k c px
  else
    let x := { x with run := none }
    match pickOf pl s.cycle c x with
    | .fault sub slot => cellFault (putCell s p k c (pl, x)) p k c sub slot
    | .idle => putCell s p k c (dropPinEot pl c, { (ageCell pl s.cycle x [] none).1 with last := some s.cycle })
    | .fire slot =>
      match x.ruleAt slot with
      | none => s
      | some (t, o) =>
        let a := ageCell pl s.cycle x (readySlots pl s.cycle c x) (some slot)
        let pl := dropPinEot { pl with promo := pl.promo + BitVec.ofNat 64 a.2, fires := pl.fires + 1 } c
        let f := fireRule a.1 t o slot
        let r := { f.2 with trap := (pl.opts s.cycle).2 }
        putBeat s p k c pl { f.1 with run := some r } slot (beatOnce pl s.cycle c f.1 t o r)

/-- A later beat of a cell's fired rule (R103). -/
def laterBeat (s : State) (p k c : Nat) : State :=
  let px := landed s p k c
  match px.2.run with
  | none => putCell s p k c px
  | some r =>
    if !cellActs s p k c ∨ r.spent ∨ s.cycle < r.due then putCell s p k c px
    else
      match px.2.ruleAt r.slot with
      | none => putCell s p k c px
      | some (t, o) =>
        let w := writePending px.1 s.cycle c px.2 o r
        putBeat s p k c px.1 w.1 r.slot
          (if w.2.beat < t.nm1 + 1 ∧ !w.2.outq.isEmpty then .stall else beatOnce px.1 s.cycle c w.1 t o w.2)

/-! Events. -/

/-- PICKING_CYCLE (R107). -/
def execPickingCycle (plot plane cell : Nat) (s : State) : Out := .next (pickingCycle s plot plane cell)

/-- RULE_BEAT (R103). -/
def execRuleBeat (plot plane cell : Nat) (s : State) : Out := .next (laterBeat s plot plane cell)

/-- RULE_RESULT_LAND (R106). -/
def execRuleResultLand (plot plane cell : Nat) (s : State) : Out :=
  .next (putCell s plot plane cell (landed s plot plane cell))

/-- RULE_PROMOTION (R107): a picking cycle at whose end a rule is promoted. -/
def execRulePromotion (plot plane cell slot : Nat) (s : State) : Out :=
  let px := landed s plot plane cell
  let x := { px.2 with run := none }
  let fired := match pickOf px.1 s.cycle cell x with | .fire i => some i | _ => none
  let aged := ageCell px.1 s.cycle x (match fired with | some _ => readySlots px.1 s.cycle cell x | none => []) fired
  if cellActs s plot plane cell ∧ px.2.idleAt s.cycle ∧ !x.promoted.contains slot ∧ aged.1.promoted.contains slot then
    .next (pickingCycle s plot plane cell)
  else .next s

/-- CELL_FAULT (R110): a picking cycle that finds a fault. -/
def execCellFault (plot plane cell : Nat) (s : State) : Out :=
  let px := landed s plot plane cell
  if cellActs s plot plane cell ∧ px.2.idleAt s.cycle then
    match pickOf px.1 s.cycle cell { px.2 with run := none } with
    | .fault _ _ => .next (pickingCycle s plot plane cell)
    | _ => .next s
  else .next s

/-- Whether results are on their way to an output queue. -/
def Cell.sending (x : Cell) (q : Nat) : Bool := decide (0 < x.reserved q)

/-- MARKER_MOVE (R218): an end-of-tile marker at the head of inQ moves to outQ, behind every token written there, once
no fired rule has a beat left. -/
def execMarkerMove (plot plane cell q : Nat) (s : State) : Out :=
  let px := landed s plot plane cell
  let pl := px.1
  let x := px.2
  let head := (pl.headTok (cell * 8 + q)).map fun t => t.k
  if head = some .eot ∧ s.planeRuns plot plane ∧ !x.halted ∧ x.idleAt s.cycle ∧ !x.sending q ∧ outRoom pl x cell q then
    .next (putCell s plot plane cell ((pl.popEp (cell * 8 + q)).emit (srcCell cell q) .eot x.hor, x))
  else .next s

/-- PRED_MARKER_REMOVE (R101): a picking cycle that removes an end-of-tile marker at the head of the predicate input; one that
finds a fault leaves it. -/
def execPredMarkerRemove (plot plane cell : Nat) (s : State) : Out :=
  let px := landed s plot plane cell
  let head : Option TokKind := (px.1.headTok (160 + cell)).map fun t => t.k
  if head = some .eot ∧ cellActs s plot plane cell ∧ px.2.idleAt s.cycle then .next (pickingCycle s plot plane cell) else .next s

/-! The operations (R113-R124). Each acts in a cycle in which its slot's rule begins a beat: the picker chooses it, or
it has beats left. -/

/-- Whether the rule in a slot performs an operation. -/
def Cell.hasOp (x : Cell) (slot : Nat) (op : CellOp) : Bool :=
  match x.ruleAt slot with
  | some (_, o) => o.op == op
  | none => false

/-- A beat of operation `op` by the rule in a slot. -/
def opBeat (op : CellOp) (r : RuleAt) (s : State) : Out :=
  let px := landed s r.plot r.plane r.cell
  let x := px.2
  if !x.hasOp r.slot op then .next s
  else if x.idleAt s.cycle then
    if cellActs s r.plot r.plane r.cell ∧ pickOf px.1 s.cycle r.cell { x with run := none } = .fire r.slot then
      .next (pickingCycle s r.plot r.plane r.cell)
    else .next s
  else
    match x.run with
    | some w => if w.slot = r.slot then .next (laterBeat s r.plot r.plane r.cell) else .next s
    | none => .next s

/-- NOP (R113): none; it occupies its beats. -/
def execCellNop (r : RuleAt) (s : State) : Out := opBeat .nop r s
/-- MOV (R113). -/
def execCellMov (r : RuleAt) (s : State) : Out := opBeat .mov r s
/-- ADD (R114). -/
def execCellAdd (r : RuleAt) (s : State) : Out := opBeat .add r s
/-- SUB (R114). -/
def execCellSub (r : RuleAt) (s : State) : Out := opBeat .sub r s
/-- MUL (R114). -/
def execCellMul (r : RuleAt) (s : State) : Out := opBeat .mul r s
/-- AND (R114). -/
def execCellAnd (r : RuleAt) (s : State) : Out := opBeat .and r s
/-- OR (R114). -/
def execCellOr (r : RuleAt) (s : State) : Out := opBeat .or r s
/-- XOR (R114). -/
def execCellXor (r : RuleAt) (s : State) : Out := opBeat .xor r s
/-- SHL (R114). -/
def execCellShl (r : RuleAt) (s : State) : Out := opBeat .shl r s
/-- SHR (R114). -/
def execCellShr (r : RuleAt) (s : State) : Out := opBeat .shr r s
/-- SAR (R114). -/
def execCellSar (r : RuleAt) (s : State) : Out := opBeat .sar r s
/-- MIN (R114). -/
def execCellMin (r : RuleAt) (s : State) : Out := opBeat .min r s
/-- MAX (R114). -/
def execCellMax (r : RuleAt) (s : State) : Out := opBeat .max r s
/-- ABS (R114). -/
def execCellAbs (r : RuleAt) (s : State) : Out := opBeat .abs r s
/-- NEG (R114). -/
def execCellNeg (r : RuleAt) (s : State) : Out := opBeat .neg r s
/-- SEL (R113). -/
def execCellSel (r : RuleAt) (s : State) : Out := opBeat .sel r s
/-- CMPEQ (R115). -/
def execCellCmpeq (r : RuleAt) (s : State) : Out := opBeat .cmpeq r s
/-- CMPLT (R115). -/
def execCellCmplt (r : RuleAt) (s : State) : Out := opBeat .cmplt r s
/-- CMPLE (R115). -/
def execCellCmple (r : RuleAt) (s : State) : Out := opBeat .cmple r s
/-- FADD (R116). -/
def execCellFadd (r : RuleAt) (s : State) : Out := opBeat .fadd r s
/-- FSUB (R116). -/
def execCellFsub (r : RuleAt) (s : State) : Out := opBeat .fsub r s
/-- FMUL (R116). -/
def execCellFmul (r : RuleAt) (s : State) : Out := opBeat .fmul r s
/-- FMA (R116). -/
def execCellFma (r : RuleAt) (s : State) : Out := opBeat .fma r s
/-- FMIN (R116). -/
def execCellFmin (r : RuleAt) (s : State) : Out := opBeat .fmin r s
/-- FMAX (R116). -/
def execCellFmax (r : RuleAt) (s : State) : Out := opBeat .fmax r s
/-- FCMPEQ (R116). -/
def execCellFcmpeq (r : RuleAt) (s : State) : Out := opBeat .fcmpeq r s
/-- FCMPLT (R116). -/
def execCellFcmplt (r : RuleAt) (s : State) : Out := opBeat .fcmplt r s
/-- FABS (R116). -/
def execCellFabs (r : RuleAt) (s : State) : Out := opBeat .fabs r s
/-- FNEG (R116). -/
def execCellFneg (r : RuleAt) (s : State) : Out := opBeat .fneg r s
/-- CVT (R117). -/
def execCellCvt (r : RuleAt) (s : State) : Out := opBeat .cvt r s
/-- QBFP (R118). -/
def execCellQbfp (r : RuleAt) (s : State) : Out := opBeat .qbfp r s
/-- DQBFP (R119). -/
def execCellDqbfp (r : RuleAt) (s : State) : Out := opBeat .dqbfp r s
/-- EXP2 (R120). -/
def execCellExp2 (r : RuleAt) (s : State) : Out := opBeat .exp2 r s
/-- LOG2 (R120). -/
def execCellLog2 (r : RuleAt) (s : State) : Out := opBeat .log2 r s
/-- RCP (R120). -/
def execCellRcp (r : RuleAt) (s : State) : Out := opBeat .rcp r s
/-- RSQRT (R120). -/
def execCellRsqrt (r : RuleAt) (s : State) : Out := opBeat .rsqrt r s
/-- SQRT (R120). -/
def execCellSqrt (r : RuleAt) (s : State) : Out := opBeat .sqrt r s
/-- TANH (R120). -/
def execCellTanh (r : RuleAt) (s : State) : Out := opBeat .tanh r s
/-- SIGM (R120). -/
def execCellSigm (r : RuleAt) (s : State) : Out := opBeat .sigm r s
/-- GACT (R120). -/
def execCellGact (r : RuleAt) (s : State) : Out := opBeat .gact r s
/-- RSUM (R121). -/
def execCellRsum (r : RuleAt) (s : State) : Out := opBeat .rsum r s
/-- RMAX (R121). -/
def execCellRmax (r : RuleAt) (s : State) : Out := opBeat .rmax r s
/-- PSET (R122). -/
def execCellPset (r : RuleAt) (s : State) : Out := opBeat .pset r s
/-- PAND (R122). -/
def execCellPand (r : RuleAt) (s : State) : Out := opBeat .pand r s
/-- POR (R122). -/
def execCellPor (r : RuleAt) (s : State) : Out := opBeat .por r s
/-- PNOT (R122). -/
def execCellPnot (r : RuleAt) (s : State) : Out := opBeat .pnot r s
/-- STEER (R123). -/
def execCellSteer (r : RuleAt) (s : State) : Out := opBeat .steer r s
/-- MERGE (R123). -/
def execCellMerge (r : RuleAt) (s : State) : Out := opBeat .merge r s
/-- PSEND (R122). -/
def execCellPsend (r : RuleAt) (s : State) : Out := opBeat .psend r s
/-- PRECV (R122). -/
def execCellPrecv (r : RuleAt) (s : State) : Out := opBeat .precv r s
/-- TAGSET (R124). -/
def execCellTagset (r : RuleAt) (s : State) : Out := opBeat .tagset r s
/-- DROP (R124). -/
def execCellDrop (r : RuleAt) (s : State) : Out := opBeat .drop r s

end Sys2Proof.Machine
end

