-- ==== Sys2Proof/Machine/Accum.lean ====
section
/-! DEFINITION. The arithmetic of lattices (08_lattices): formats (R188, R65), weight slices (R190, R191, R214), chunks
(R195, R196), accumulator rows (R197, R198, R212), wide additions (R200) and read-out (R211). -/

namespace Sys2Proof.Machine

/-! Formats (Table 8.2). -/

/-- Element bits w. -/
def latW (c : Nat) : Nat :=
  match c with
  | 0 => 2 | 1 => 4 | 2 | 3 | 4 => 8 | 5 | 6 => 16 | 7 => 32 | _ => 64

/-- Significand bits s. -/
def latS (c : Nat) : Nat :=
  match c with
  | 0 => 2 | 1 => 4 | 2 => 8 | 3 => 4 | 4 => 3 | 5 => 8 | 6 => 11 | 7 => 24 | _ => 53

/-- K as an A format. -/
def latK (c : Nat) : Nat := 768 / latW c

/-- Whether a format is block floating point. -/
def isBfp (c : Nat) : Bool := decide (c ≤ 2)

/-- Whether a format is wide. -/
def isWide (c : Nat) : Bool := c == 7 || c == 8

/-- Terms per chunk (Table 8.4). -/
def chunkTerms (a b : Nat) : Nat :=
  if isBfp a && isBfp b then 32 else if a ≤ 4 then 16 else if a ≤ 6 then 8 else 1

/-- Allowed pairs (Table 3.7). -/
def pairAllowed (a b : Nat) : Bool :=
  match a with
  | 0 => b == 0
  | 1 => b == 0 || b == 1 || b == 3 || b == 4
  | 2 | 3 | 4 => decide (b ≤ 4)
  | 5 | 6 => b == 5 || b == 6
  | 7 => b == 7
  | _ => b == 8

/-- The IEEE-like format of codes 3 to 8. -/
def latFmt (c : Nat) : FFmt :=
  match c with
  | 3 => fpE4M3 | 4 => fpE5M2 | 5 => bf16 | 6 => fp16 | 7 => fp32 | _ => fp64

/-- The value of an element's bits under its block's scale (R51, R62). -/
def latVal (c scale bits : Nat) : Val :=
  if isBfp c then bfpVal (latW c) scale (signedOf (latW c) bits) else (latFmt c).val bits

/-! Weight slices. -/

/-- Dense size of a body (R190). -/
def denseSize (b kb : Nat) : Nat := 128 * kb * latW b / 8 + (if isBfp b then 128 * kb / 32 else 0)

/-- Whether a slice header is accepted (R190). -/
def sliceHdrOk (h : List Byte) : Bool :=
  let b := fieldAt h 0 1
  let fl := fieldAt h 1 1
  let kb := fieldAt h 2 2
  let body := fieldAt h 4 4
  decide (fl ≤ 1) && fieldAt h 8 8 == 0 && decide (b ≤ 8) && decide (1 ≤ kb) && decide (kb ≤ 384) && decide (kb * latS b ≤ 768) &&
  (!isBfp b || kb % 32 == 0) &&
  (if fl = 1 then body == denseSize b kb else decide (512 ≤ body) && body % 4 == 0) && decide (16 + body ≤ 393216)

/-- One block of compressed data: its length in bytes, scale and the bits of its 32 elements (R190, R191). -/
def sliceBlock (bfmt : Nat) (d : List Byte) : Nat × Nat × List Nat :=
  let mask := fieldAt d 0 4
  let sc := if isBfp bfmt then 1 else 0
  let n := ((List.range 32).filter fun i => bitAt mask i).length
  let len := (4 + sc + (n * latW bfmt + 7) / 8 + 3) / 4 * 4
  let packed := leNat ((d.drop (4 + sc)).take ((n * latW bfmt + 7) / 8))
  let elems := (List.range 32).map fun i =>
    if bitAt mask i then bitsAt packed (latW bfmt * ((List.range i).filter fun j => bitAt mask j).length) (latW bfmt) else 0
  (len, if sc = 1 then fieldAt d 4 1 else 0, elems)

/-- Blocks of a compressed column from data on, over `n` blocks left: (scale, element bits) each; none when malformed:
data runs past the body, or an element at or beyond KB is present. -/
def sliceBlocks (bfmt kb b : Nat) (d : List Byte) : Nat → Option (List (Nat × List Nat))
  | 0 => some []
  | n + 1 =>
    let r := sliceBlock bfmt d
    let mask := fieldAt d 0 4
    if d.length < 4 ∨ d.length < r.1 ∨ (kb < 32 * b + 32 ∧ mask >>> (kb - 32 * b) ≠ 0) then none
    else (sliceBlocks bfmt kb (b + 1) (d.drop r.1) n).map fun t => r.2 :: t

/-- Column `j` of a slice: per block of 32 its scale and element bits; none when malformed. -/
def WSlot.column (x : WSlot) (j : Nat) : Option (List (Nat × List Nat)) :=
  let w := latW x.bfmt
  if x.dense then
    let bits := leNat ((x.body.drop (j * x.kb * w / 8)).take (x.kb * w / 8))
    let scales := 128 * x.kb * w / 8 + j * (x.kb / 32)
    some ((List.range ((x.kb + 31) / 32)).map fun b =>
      (if isBfp x.bfmt then fieldAt x.body (scales + b) 1 else 0,
       (List.range (min 32 (x.kb - 32 * b))).map fun i => bitsAt bits (w * (32 * b + i)) w))
  else
    let off := fieldAt x.body (4 * j) 4
    if off < 512 ∨ off % 4 ≠ 0 then none
    else sliceBlocks x.bfmt x.kb 0 (x.body.drop off) ((x.kb + 31) / 32)

/-- Whether a body is well formed. -/
def WSlot.wellFormed (x : WSlot) : Bool := (List.range 128).all fun j => (x.column j).isSome

/-- The element values of a column, in K order. -/
def WSlot.colVals (x : WSlot) (j : Nat) : List (Nat × Nat) :=
  ((x.column j).getD []).flatMap fun b => b.2.map fun e => (b.1, e)

/-! Operand A. -/

/-- Scale tokens a row takes (R193). -/
def scaleTokens (a : Nat) : Nat := if isBfp a then (latK a + 255) / 256 else 0

/-- A row's elements in K order: block scale and bits. -/
def rowElems (a : Nat) (toks scales : List Word) : List (Nat × Nat) :=
  let bits := leNat (toks.flatMap fun t => leBytes 8 t.toNat)
  let sc := scales.flatMap fun t => leBytes 8 t.toNat
  (List.range (latK a)).map fun k => ((sc.getD (k / 32) 0).toNat, bitsAt bits (latW a * k) (latW a))

/-! Chunks (R195, R196). -/

/-- What a chunk delivers to one column: S, f, chunk loss, and its special products in K order. -/
structure Chunk where
  s    : Int := 0
  f    : Int := 0
  lost : Bool := false
  spec : List Val := []
  deriving DecidableEq, Repr

/-- Floor(Log2) of a nonzero finite value's magnitude. -/
def log2Val (m : Nat) (e : Int) : Int := (m.log2 : Int) + e

/-- An exact chunk of two BFP blocks. -/
def bfpChunk (a b : Nat) (xs : List ((Nat × Nat) × (Nat × Nat))) : Chunk :=
  match xs with
  | [] => {}
  | x :: _ =>
    if x.1.1 = 0xFF ∨ x.2.1 = 0xFF then { spec := [.nan] }
    else
      { s := (xs.map fun p => signedOf (latW a) p.1.2 * signedOf (latW b) p.2.2).sum,
        f := (x.1.1 : Int) + x.2.1 - 254 - ((latW a : Int) - 2) - ((latW b : Int) - 2) }

/-- A chunk of truncated products, `guard` bits below the largest. -/
def truncChunk (guard : Int) (ps : List Val) : Chunk :=
  let fin := ps.filterMap fun v => match v with | .fin s m e => if m = 0 then none else some (s, m, e) | _ => none
  let spec := ps.filter fun v => match v with | .fin _ _ _ => false | _ => true
  match fin with
  | [] => { spec := spec }
  | x :: rest =>
    let ec := rest.foldl (fun acc y => max acc (log2Val y.2.1 y.2.2)) (log2Val x.2.1 x.2.2)
    let f := ec - guard
    let ts := fin.map fun y =>
      let k : Int := roundNat .zero y.1 y.2.1 (y.2.2 - f)
      ((if y.1 then -k else k), decide (y.2.2 < f) && y.2.1 % 2 ^ (f - y.2.2).toNat != 0)
    { s := (ts.map fun t => t.1).sum, f := f, lost := ts.any fun t => t.2, spec := spec }

/-- Chunk `c` of a column (Table 8.4). -/
def chunkOf (a b : Nat) (row col : List (Nat × Nat)) (c : Nat) : Chunk :=
  let t := chunkTerms a b
  let xs := ((row.drop (c * t)).take t).zip ((col.drop (c * t)).take t)
  if isBfp a && isBfp b then bfpChunk a b xs
  else truncChunk (if a ≤ 4 then 19 else 35) (xs.map fun p => Val.mul (latVal a p.1.1 p.1.2) (latVal b p.2.1 p.2.2))

/-- SPC after one special product (R196): codes 0 finite, 1 and 2 the infinities, 3 NaN. -/
def spcAfter (c : Nat) (v : Val) : Nat :=
  match v with
  | .nan => 3
  | .inf neg => let i := if neg then 2 else 1; if c = 0 ∨ c = i then i else 3
  | .fin _ _ _ => c

/-! Accumulator rows (R197, R198). -/

/-- Mantissas and special codes of a row, 128 of each. -/
def AccRow.ms (r : AccRow) : List Int := (List.range 128).map fun j => r.m.getD j 0
def AccRow.spcs (r : AccRow) : List Nat := (List.range 128).map fun j => r.spc.getD j 0

/-- r(M): bits from bit 38 downward that equal bit 39. -/
def headroom (m : Int) : Nat :=
  let n := if m < 0 then (-m - 1).toNat else m.toNat
  39 - (if n = 0 then 0 else n.log2 + 1)

/-- The least headroom of a row's columns. -/
def minHeadroom (ms : List Int) : Nat := ms.foldl (fun h m => min h (headroom m)) 39

/-- Align (R198). -/
def alignTo (s f x : Int) : Int := if x ≤ f then s * 2 ^ (f - x).toNat else s.fdiv (2 ^ (x - f).toNat)

/-- Whether Align loses nonzero bits. -/
def alignLoses (s f x : Int) : Bool := decide (f < x) && s.fmod (2 ^ (x - f).toNat) != 0

/-- BitLen of a nonzero magnitude. -/
def bitLen (n : Nat) : Nat := if n = 0 then 0 else n.log2 + 1

/-- The 40-bit range. -/
def inMant (k : Int) : Bool := decide (-(2 : Int) ^ 39 ≤ k) && decide (k < (2 : Int) ^ 39)

/-- Whether every column's sum fits after a shift. -/
def shiftFits (ms : List Int) (cs : List Chunk) (x : Int) (d : Nat) : Bool :=
  (ms.zip cs).all fun p => inMant (roundShift p.1 d + alignTo p.2.s p.2.f (x + d))

/-- The least shift from `d` on that fits, over `fuel` shifts. -/
def rowShift (ms : List Int) (cs : List Chunk) (x : Int) (d : Nat) : Nat → Nat
  | 0 => d
  | fuel + 1 => if shiftFits ms cs x d then d else rowShift ms cs x (d + 1) fuel

/-- A saturating counter. -/
def satAdd (bits c n : Nat) : Nat := min (2 ^ bits - 1) (c + n)

/-- The infinity code that an overflow gives a column whose code is not NaN. -/
def overSpc (c : Nat) (k : Int) : Nat := if c = 3 then 3 else if k < 0 then 2 else 1

/-- A tile with a row replaced. -/
def Acc.putRow (t : Acc) (i : Nat) (r : AccRow) : Acc := { t with rows := Tbl.set t.rows i r }

/-- Row `i` of a narrow tile. -/
def Acc.row (t : Acc) (i : Nat) : AccRow := Tbl.getD t.rows i {}

/-- A renormalisation event counted. -/
def Acc.event (t : Acc) (d : Nat) : Acc := { t with renorm := satAdd 32 t.renorm 1, maxshift := min 255 (max t.maxshift d) }

/-- The sums of a chunk added at exponent `x` to mantissas, with the number of alignment losses (R198); columns in `keep`
are left unchanged. -/
def addSums (ms : List Int) (cs : List Chunk) (keep : List Bool) (x : Int) : List Int × Nat :=
  let z := (ms.zip cs).zip keep
  (z.map fun p => if p.2 then p.1.1 else p.1.1 + alignTo p.1.2.s p.1.2.f x,
   (z.filter fun p => !p.2 && !p.1.2.lost && p.1.2.s != 0 && alignLoses p.1.2.s p.1.2.f x).length)

/-- AddChunk (R198): a chunk of 128 columns enters row `i` of a tile. -/
def addChunk (t : Acc) (i : Nat) (cs : List Chunk) : Acc :=
  let r := t.row i
  let spc := (r.spcs.zip cs).map fun p => p.2.spec.foldl spcAfter p.1
  let t := { t with trunc := satAdd 64 t.trunc (cs.filter fun c => c.lost).length }
  let live := cs.filter fun c => c.s != 0
  match live with
  | [] => t.putRow i { r with spc := spc }
  | c :: rest =>
    let top : Int := rest.foldl (fun (acc : Int) c => max acc (c.f + bitLen c.s.natAbs)) (c.f + bitLen c.s.natAbs)
    let x : Int := if r.empty then top - 31 else r.x
    let ms := r.ms
    let d := rowShift ms cs x 0 2048
    let done (t : Acc) (ms : List Int) (x : Int) (spc : List Nat) (keep : List Bool) : Acc :=
      let a := addSums ms cs keep x
      { t with trunc := satAdd 64 t.trunc a.2 }.putRow i { empty := false, x := x, m := a.1, spc := spc, h := minHeadroom a.1 }
    let none_ := List.replicate 128 false
    if d = 0 then done t ms x spc none_
    else if 511 < x + d then
      let sums := (ms.zip cs).map fun p => p.1 + alignTo p.2.s p.2.f x
      let keep := sums.map fun k => !inMant k
      let spc := (spc.zip sums).map fun p => if inMant p.2 then p.1 else overSpc p.1 p.2
      done { t with ovf := true } ms x spc keep
    else done (t.event d) (ms.map fun m => roundShift m d) (x + d) spc none_

/-- The least shift of `d` or `d + 1` that leaves every column the headroom `n` (R212). -/
def normShift (ms : List Int) (n d : Nat) : Nat := if ms.all fun m => decide (n ≤ headroom (roundShift m d)) then d else d + 1

/-- MNORM of row `i` (R212). -/
def normRow (t : Acc) (target i : Nat) : Acc :=
  let r := t.row i
  if r.empty ∨ target ≤ r.h then t
  else
    let d := normShift r.ms target (target - r.h)
    if 511 < r.x + d then
      { t with ovf := true }.putRow i
        { r with spc := List.zipWith (fun c m => if m = 0 then c else overSpc c m) r.spcs r.ms }
    else
      let ms := r.ms.map fun m => roundShift m d
      (t.event d).putRow i { r with m := ms, x := r.x + d, h := minHeadroom ms }

/-! Wide mode (R200). -/

/-- The elements of row `i` of a wide tile. -/
def Acc.elems (t : Acc) (i : Nat) : List Word := let l := Tbl.getD t.elts i []; (List.range 64).map fun j => l.getD j 0

/-- An element written. -/
def Acc.putElem (t : Acc) (i j : Nat) (v : Word) : Acc := { t with elts := Tbl.set t.elts i ((t.elems i).set j v) }

/-- One addition of wide mode: the result, or none when the assist must make it. -/
def wideAdd (e : Word) (a b : Val) : Option Word :=
  let v := Val.add .rne (fp64.val e.toNat) (Val.mul a b)
  match v with
  | .fin _ m ex => if m ≠ 0 ∧ log2Val m ex < -1022 then none else some (BitVec.ofNat 64 (fp64.round .rne false v))
  | _ => some (BitVec.ofNat 64 (fp64.round .rne false v))

/-- A finite value as FP64 bits. -/
def asFp64 (v : Val) : Word := BitVec.ofNat 64 (fp64.round .rne false v)

/-! Clearing and read-out (R210, R211). -/

/-- A tile as MZERO leaves it. -/
def Acc.cleared (wide : Bool) : Acc := { wide := wide }

/-- A row as MREAD.clr leaves it. -/
def Acc.clearRow (t : Acc) (i : Nat) : Acc := { t with rows := Tbl.del t.rows i, elts := Tbl.del t.elts i }

/-- The exact values of a row (R211). -/
def Acc.rowVals (t : Acc) (i : Nat) : List Val :=
  if t.wide then (t.elems i).map fun e => fp64.val e.toNat
  else
    let r := t.row i
    (r.ms.zip r.spcs).map fun p =>
      match p.2 with
      | 3 => .nan
      | 1 => .inf false
      | 2 => .inf true
      | _ => if r.empty then .fin false 0 0 else .fin (decide (p.1 < 0)) p.1.natAbs r.x

/-- Bytes of an output element. -/
def outBytes (o : Nat) : Nat := match o with | 0 => 4 | 1 | 2 => 2 | 3 | 4 | 5 => 1 | _ => 8

/-- The format of an output code other than BFP8. -/
def outFmt (o : Nat) : FFmt := match o with | 0 => fp32 | 1 => fp16 | 2 => bf16 | 3 => fpE4M3 | 4 => fpE5M2 | _ => fp64

/-- Values cut into blocks of 32, over `n` blocks. -/
def blocks32 (xs : List Val) : Nat → List (List Val)
  | 0 => []
  | n + 1 => xs.take 32 :: blocks32 (xs.drop 32) n

/-- A row's bytes in an output format, and its scale bytes (R211). -/
def outRow (o : Nat) (e4nan : Bool) (xs : List Val) : List Byte × List Byte :=
  if o = 5 then
    let bs := (blocks32 xs (xs.length / 32)).map fun b => quantise 8 .rne b
    (bs.flatMap fun b => b.2.map fun m => BitVec.ofInt 8 m, bs.map fun b => BitVec.ofNat 8 b.1)
  else (xs.flatMap fun v => leBytes (outBytes o) ((outFmt o).round .rne e4nan v), [])

end Sys2Proof.Machine
end

