-- ==== Sys2Proof/Machine/Stream.lean ====
section
/-! DEFINITION. Planes and stream ports (06_planes_ports): configuration loads (R126, R145), stream descriptors (R135-R137),
the STREAM group (R144-R150), the events of ports, markers at ports (R149, R217, R324), and the start of commands that
have no row of their own (R141). -/

namespace Sys2Proof.Machine

/-! Descriptors. -/

/-- A stream descriptor (Table 6.4). -/
structure SDesc where
  base   : Nat
  write  : Bool
  tile   : Bool
  tag    : Nat
  fmtw   : Nat
  scope  : Nat
  rowb   : Nat
  rows1  : Nat
  rows2  : Nat
  str1   : Int
  str2   : Int
  sbase  : Nat
  spitch : Nat
  mark   : Nat
  deriving DecidableEq, Repr

/-- The fields of a descriptor. -/
def sdesc (d : List Byte) : SDesc :=
  let c := fieldAt d 8 4
  { base := fieldAt d 0 8, write := bitAt c 0, tile := bitAt c 1, tag := bitsAt c 2 3, fmtw := bitsAt c 5 2,
    scope := bitsAt c 7 3, rowb := fieldAt d 12 4, rows1 := fieldAt d 16 4, rows2 := fieldAt d 20 4,
    str1 := signedOf 64 (fieldAt d 24 8), str2 := signedOf 64 (fieldAt d 32 8), sbase := fieldAt d 40 8,
    spitch := fieldAt d 48 4, mark := fieldAt d 52 4 }

/-- Whether SBIND accepts a descriptor (R136). -/
def sdescOk (d : List Byte) : Bool :=
  let x := sdesc d
  bitsAt (fieldAt d 8 4) 10 22 == 0 && fieldAt d 56 8 == 0 &&
  (if x.tile then decide (x.base < 2 ^ 40) && bitsAt x.base 8 32 % 8 == 0 else decide (x.base < 2 ^ 56) && x.base % 8 == 0) &&
  x.tag != 7 && decide (x.scope ≤ 4) && decide (8 ≤ x.rowb) && decide (x.rowb ≤ 65536) && x.rowb % 8 == 0 &&
  decide (1 ≤ x.rows1) && decide (x.rows1 ≤ 65536) && decide (1 ≤ x.rows2) && decide (x.rows2 ≤ 65536) &&
  x.str1 % 8 == 0 && x.str2 % 8 == 0 && decide (x.mark ≤ 65536) &&
  (x.fmtw != 0 || x.sbase == 0) &&
  (x.fmtw == 0 || (!x.write && !x.tile && x.rowb * 8 % (32 * 2 ^ x.fmtw) == 0))

/-- Beats of a row, and of the whole visit (R137). -/
def SDesc.rowBeats (x : SDesc) : Nat := x.rowb / 8
def SDesc.beats (x : SDesc) : Nat := x.rowBeats * x.rows1 * x.rows2

/-- The byte offset of beat `pos` in visit order (R137). -/
def SDesc.offset (x : SDesc) (pos : Nat) : Int :=
  let row := pos / x.rowBeats
  ((row / x.rows1 : Nat) : Int) * x.str2 + ((row % x.rows1 : Nat) : Int) * x.str1 + ((8 * (pos % x.rowBeats) : Nat) : Int)

/-- The address of a beat of a memory stream. -/
def SDesc.va (x : SDesc) (pos : Nat) : Word := BitVec.ofInt 64 ((x.base : Int) + x.offset pos)

/-- The tile offset of a beat of a tile stream. -/
def SDesc.tileAt (x : SDesc) (pos : Nat) : Int := (bitsAt x.base 8 32 : Int) + x.offset pos

/-- Blocks of a row, and the address of the scale byte of block 0 of a row (R63, R137). -/
def SDesc.blocks (x : SDesc) : Nat := x.rowb * 8 / (32 * 2 ^ x.fmtw)
def SDesc.scaleVa (x : SDesc) (row : Nat) : Word :=
  BitVec.ofNat 64 (x.sbase + row * (if x.spitch = 0 then x.blocks else x.spitch))

/-- The descriptor of the stream at a port. -/
def Port.d (x : Port) : SDesc := sdesc x.desc

/-! Configuration loads. -/

/-- Bytes of the header and of what a load reads after it (Table 6.2). -/
def imageHeader : Nat := 64
def imageRest : Nat := 0x11A0 - 0x40

/-- The FAREXIT words of a header. -/
def hdrFar (h : List Byte) : List (Option Nat) :=
  (List.range 4).map fun d => let w := fieldAt h (12 + 4 * d) 4; if bitAt w 10 then some (bitsAt w 0 10) else none

/-- Whether a header passes R126, for a plane of plot `p` held by tenant `v`. -/
def hdrOk (s : State) (p v : Nat) (h : List Byte) : Bool :=
  let o := fieldAt h 4 4
  fieldAt h 0 4 == 1 && bitsAt o 0 12 != 0 && bitsAt o 14 18 == 0 && bitsAt (fieldAt h 10 1) 4 4 == 0 &&
  fieldAt h 11 1 == 0 && (List.range 4).all (fun d => bitsAt (fieldAt h (12 + 4 * d) 4) 11 21 == 0) &&
  fieldAt h 28 36 == 0 &&
  (hdrFar h).all fun e => match e with
    | some q => decide (q < 640) && s.plotOwner q == some v && q != p
    | none => true

/-- Port and lattice claims of a header. -/
def hdrPorts (h : List Byte) : Nat := fieldAt h 8 2
def hdrLats (h : List Byte) : Nat := bitsAt (fieldAt h 10 1) 0 4

/-- Whether a header claims what another plane of the plot holds (R127). -/
def claimsClash (s : State) (p k : Nat) (h : List Byte) : Bool :=
  (List.range 4).any fun j =>
    let x := s.plane p j
    j != k && x.st != .unconfigured && ((x.portmask &&& hdrPorts h) != 0 || (x.latmask &&& hdrLats h) != 0)

/-- Whether a port of a plane's claim is BOUND or CLOSED. -/
def portsBusy (s : State) (p k : Nat) : Bool :=
  (List.range 16).any fun n =>
    bitAt (s.plane p k).portmask n && ((s.port p n).st == .bound || (s.port p n).st == .closed)

/-- The lattices a command names. -/
def CmdKind.lats (k : CmdKind) : List Nat :=
  match k with
  | .mload l _ _ _ => [l]
  | .mbind b => [bitsAt b.toNat 0 2]
  | .mzero sel => (List.range 4).filter fun l => bitsAt sel.toNat (4 * l) 4 != 0
  | .mread sel _ _ _ => [bitsAt sel.toNat 2 2]
  | .mnorm sel => [bitsAt sel.toNat 2 2]
  | _ => []

/-- A lattice in the state of a new claim; a column that still waits for the assist is done for no tile. -/
def latClear (s : State) (p l : Nat) : State :=
  let x := s.plot p
  let s := s.setPlot p { x with apend := x.apend.map fun r => if r.lat = l then { r with dead := true } else r }
  { s with lats := Tbl.del s.lats (p * 4 + l),
           accs := Tbl.keep (fun k _ => !(decide (p * 16 + 4 * l ≤ k) && decide (k < p * 16 + 4 * l + 4))) s.accs }

/-- The binding that a row in progress of a lattice, a wide one that the assist holds, belongs to; a split row that waits for its
partner has begun nothing. -/
def Lat.midRow (x : Lat) : Option Binding :=
  if x.work.isSome then x.binds.find? fun b => b.active && !bitAt b.word.toNat 27 else none

/-- A lattice whose claim ends (R187): its commands that have not completed are dropped, an MZERO that names tiles of other
lattices too among them (log 92); a row that the assist holds is finished first. -/
def latReset (s : State) (p l : Nat) : State :=
  let x := s.plot p
  let drop := fun (c : Cmd) => !c.k.lats.contains l
  let s := s.setPlot p { x with cmds := x.cmds.filter drop, inflight := x.inflight.filter drop, mops := x.mops.filter drop }
  let s := (List.range 32).foldl (fun s n => endXlats s (.slice p l n)) s
  match (s.lat p l).midRow with
  | some b => s.setLat p l { s.lat p l with binds := [{ b with left := 1 }], slots := [], ending := true }
  | none => latClear s p l

/-- A FAULTED lattice whose claim a load keeps: IDLE, its binding queue empty, its bindings discarded (R203, R215). -/
def latRevive (s : State) (p l : Nat) : State :=
  let x := s.lat p l
  if x.faulted then
    let pl := s.plot p
    let keep := fun (c : Cmd) => match c.k with | .mbind b => bitsAt b.toNat 0 2 != l | _ => true
    let s := s.setPlot p { pl with cmds := pl.cmds.filter keep, mops := pl.mops.filter keep }
    s.setLat p l { slots := x.slots, free := x.free, splitCnt := x.splitCnt, actSlot := x.actSlot, actFmt := x.actFmt,
                   actBody := x.actBody, rows := x.rows }
  else s

/-- The cells of a plane at their reset state. -/
def dropCells (s : State) (p k : Nat) : State :=
  { s with cells := Tbl.keep (fun i _ => i / 16 != p * 4 + k) s.cells }

/-- FAULTED ports of a plane's claim IDLE: what a new load does to them (R138). -/
def revivePorts (s : State) (p k : Nat) : State :=
  (List.range 16).foldl (fun s n =>
    if bitAt (s.plane p k).portmask n ∧ (s.port p n).st = .faulted then s.setPort p n { plane := k } else s) s

/-- A plane gives up its claims: lattices take the state of a new claim, rings go, ports leave their states. -/
def unclaim (s : State) (p k keep : Nat) : State :=
  let x := s.plane p k
  (List.range 4).foldl (fun s l => if bitAt x.latmask l ∧ !bitAt keep l then latReset s p l else s) s

/-- A plane takes no part any more in a cut that is in progress: its nodes are cleared. -/
def dropPart (s : State) (p k : Nat) : State :=
  { s with cuts := Tbl.mapVals (fun _ c => { c with parts := c.parts.filter fun e => e != (p, k) }) s.cuts }

/-- A load is accepted: the plane is LOADING, its old rules stop, its claims become the header's (R145). -/
def loadBegin (s : State) (p k : Nat) (h : List Byte) (image : Word) (asid : Nat) (lnch : Option Nat) : State :=
  let old := s.plane p k
  let s := dropPart (dropCells (dropRings (unclaim (revivePorts s p k) p k (hdrLats h)) p k) p k) p k
  let o := fieldAt h 4 4
  let s := (List.range 4).foldl (fun s l => if bitAt (hdrLats h) l ∧ bitAt old.latmask l then latRevive s p l else s) s
  let s := match lnch with | some i => s.setCuts i { s.cutsOf i with count := 0 } | none => s
  s.setPlane p k
    { st := .loading, owner := old.owner, agelim := bitsAt o 0 12, deadtrap := bitAt o 12, e4nan := bitAt o 13, opts_ := o,
      portmask := hdrPorts h, latmask := hdrLats h, farexit := hdrFar h, image := image, asid := asid, lnch := lnch,
      fires := old.fires, promo := old.promo, cfault := old.cfault }

/-- A plane UNCONFIGURED: no rules, every endpoint unconnected, its claims given up (R125, R127). -/
def planeClear (s : State) (p k : Nat) : State :=
  let s := dropPart (dropCells (dropRings (unclaim (revivePorts s p k) p k 0) p k) p k) p k
  let x := s.plane p k
  s.setPlane p k { st := .unconfigured, owner := x.owner, scrubbing := x.scrubbing }

/-- The rule words of a slot in the bytes after the header. -/
def ruleWords (body : List Byte) (c i : Nat) : BitVec 32 × BitVec 32 :=
  let o := (c * 32 + i) * 8
  (BitVec.ofNat 32 (fieldAt body o 4), BitVec.ofNat 32 (fieldAt body (o + 4) 4))

/-- The first rule-illegal slot of an image (R34) (log 55). -/
def illegalSlot (body : List Byte) : Option (Nat × Nat) :=
  ((List.range 16).flatMap fun c => (List.range 32).map fun i => (c, i)).find? fun e =>
    let w := ruleWords body e.1 e.2
    ruleIllegal w.1 w.2

/-- The route table of an image; res0 bits read back as zero (R37). -/
def imageRoutes (body : List Byte) : List (BitVec 16) :=
  (List.range 176).map fun i => BitVec.ofNat 16 (fieldAt body (0x1000 + 2 * i) 2 / 8 * 8)

/-- A cell of a loaded plane (R98); a slot whose words are zero is not listed. -/
def loadedCell (body : List Byte) (c : Nat) : Cell :=
  { rules := (List.range 32).filterMap fun i => let w := ruleWords body c i; if w = (0, 0) then none else some (i, w) }

/-- A load ends well: the plane is CONFIGURED with the image's options, rules and routes, whatever PCELL writes came while it
was LOADING (R98, R145). -/
def configure (s : State) (p k : Nat) (body : List Byte) : State :=
  let x := s.plane p k
  let s := (List.range 16).foldl (fun s c => s.setCell p k c (loadedCell body c)) s
  s.setPlane p k { x with st := .configured, agelim := bitsAt x.opts_ 0 12, deadtrap := bitAt x.opts_ 12, nextOpt := [],
                          routes := imageRoutes body, fires := 0, promo := 0, cfault := 0, src := [], ep := [] }

/-- The tenant a plane's load reads for. -/
def State.planeTenant (s : State) (p k : Nat) : Nat := (s.planeOwner p k).getD 64

/-- Whether a plane's load has started: its SCFG, if it has one, has left the command queue. -/
def State.loadStarted (s : State) (p k : Nat) : Bool :=
  !((s.plot p).cmds.any fun c => match c.k with | .scfg k' _ _ => k' == k | _ => false)

/-- The SCFG commands of a plane completed (Table 6.6) (log 55). -/
def endLoad (s : State) (p k : Nat) : State :=
  completeCmds s p fun c => match c.k with | .scfg k' _ _ => k' == k | _ => false

/-- CONFIGURATION_LOAD_END (R145): once the lattices it claims have left their former claim (R187), the image is read; the plane
becomes CONFIGURED, or UNCONFIGURED for a rule-illegal rule, or FAULTED when a read faults, which CFAULT records too (log 55). -/
def execConfigurationLoadEnd (plot plane : Nat) (s : State) : Out :=
  let x := s.plane plot plane
  if x.st ≠ .loading ∨ !s.loadStarted plot plane ∨ (List.range 4).any (fun l => bitAt x.latmask l && (s.lat plot l).ending) then .next s
  else
    match unitRead s (.core plot) (s.planeTenant plot plane) x.asid (segsOf (x.image + 64) imageRest) with
    | ((.wait, _, _), s) => .next s
    | ((.ok _, _, body), s) =>
      match illegalSlot body with
      | some (c, i) =>
        let info := fabricInfo fRuleIllegal c i plane false false
        let s := planeClear (loadRefused s plot plane info) plot plane
        .next (endLoad (s.setPlane plot plane { s.plane plot plane with cfault := info }) plot plane)
      | none => .next (endLoad (configure s plot plane body) plot plane)
    | (_, s) =>
      let info := fabricInfo fStreamFatal 0 0 plane false true
      let s := planeFaulted (s.setPlane plot plane { s.plane plot plane with cfault := info }) plot plane
      .next (endLoad (fabricFault s plot plane 1 plane info) plot plane)

/-- SCFG (R145). -/
def execScfg (rd rs1 rs2 : Reg) (s : State) : Out :=
  let a := s.g rs1
  let w := (s.g rs2).toNat
  let k := w % 4
  let p := s.curPlot
  let v := s.curTenant
  onThread s rd <|
    if 4 ≤ w then status s rd stBADARG
    else if s.planeOwner p k ≠ some v then status s rd stDENIED
    else if a.toNat % 64 ≠ 0 then status s rd stBADARG
    else
      match dataLoad s a 64 false with
      | (.ok h, s) =>
        if !hdrOk s p v h then status s rd stBADARG
        else if (s.plane p k).st = .loading ∨ portsBusy s p k ∨ claimsClash s p k h then status s rd stBUSY
        else
          let c := s.ctx
          acceptCmd s rd (.scfg k a h) fun s => loadBegin s p k h a c.asid (some c.lnch)
      | (r, s) => dresOut s r

/-! Binding. -/

/-- The streams that an AFTER mask records: those on named ports that are not IDLE (R139, R147). -/
def afterOf (s : State) (p n mask : Nat) : List (Nat × Nat) :=
  ((List.range 16).filter fun m => m != n && bitAt mask m && (s.port p m).st != .idle).map fun m => (m, (s.port p m).serial)

/-- SBIND (R147); acknowledgements that an ended stream of the port still owes stay owed (log 92). -/
def execSbind (rd rs1 rs2 : Reg) (s : State) : Out :=
  let a := s.g rs1
  let sel := (s.g rs2).toNat
  let n := bitsAt sel 0 4
  let k := bitsAt sel 4 2
  let p := s.curPlot
  onThread s rd <|
    if bitsAt sel 6 10 ≠ 0 ∨ 2 ^ 32 ≤ sel then status s rd stBADARG
    else if s.planeOwner p k ≠ some s.curTenant ∨ !bitAt (s.plane p k).portmask n ∨ (s.plane p k).st ≠ .configured then
      status s rd stDENIED
    else if !aligned a 8 then .next (trapHere s cMisalign a (missInfo (.sbind rd rs1 rs2)))
    else
      match loadWords s a 8 [] with
      | (.ok d, s) =>
        if !sdescOk d then status s rd stBADARG
        else if (s.port p n).st ≠ .idle then status s rd stBUSY
        else
          let c := s.ctx
          let x : Port := { st := .bound, plane := k, desc := d, after := afterOf s p n (bitsAt sel 16 16),
                            serial := s.nextId, tid := s.curTid, asid := c.asid, lnch := c.lnch, hor := (s.port p n).hor,
                            ackq := (s.port p n).ackq }
          acceptCmd s rd (.sbind n k (bitsAt sel 16 16) d) fun s => s.setPort p n x
      | (r, s) => dresOut s r
/-- Whether every stream that a port's AFTER mask recorded has ended, its stores performed at package scope. -/
def afterDone (s : State) (p : Nat) (x : Port) : Bool :=
  x.after.all fun e =>
    ((s.port p e.1).st == .idle || (s.port p e.1).serial != e.2) && !(s.pend.any fun q => q.party == .port p e.1)

/-- A bound stream whose SBIND has started begins once its AFTER streams have ended; a read stream that begins during a
lodge cut is a source of its region too, and is marked (log 36). -/
def streamBegin (s : State) (p n : Nat) : State :=
  let x := s.port p n
  let queued := (s.plot p).cmds.any fun c => match c.k with | .sbind n' _ _ _ => n' == n | _ => false
  let c := s.cutsOf (s.regionKey p x.plane)
  let late := c.active && c.lodge && !x.d.write && !c.marked.contains (p * 16 + n)
  if (x.st = .bound ∨ x.st = .closed) ∧ !x.begun ∧ !queued ∧ afterDone s p x then
    let s := s.setPort p n { x with begun := true, after := [], marker := if late then some c.num else x.marker }
    if late then s.setCuts (s.regionKey p x.plane) { c with marked := c.marked ++ [p * 16 + n] } else s
  else s

/-- STREAM_BEGIN (R139). -/
def execStreamBegin (plot port : Nat) (s : State) : Out := .next (streamBegin s plot port)

/-! SCLOSE, SMARK. -/

/-- What SCLOSE and SMARK check of their port mask and plane, in order. -/
def maskCheck (s : State) (rd : Reg) (bad : Bool) (mask k : Nat) (go : Out) : Out :=
  if bad then status s rd stBADARG
  else if s.planeOwner s.curPlot k ≠ some s.curTenant then status s rd stDENIED
  else if mask &&& (s.plane s.curPlot k).portmask ≠ mask then status s rd stBADARG
  else go

/-- SCLOSE (R148). -/
def execSclose (rd rs1 : Reg) (re : Bool) (s : State) : Out :=
  let w := (s.g rs1).toNat
  onThread s rd <| maskCheck s rd (decide (2 ^ 18 ≤ w)) (bitsAt w 0 16) (bitsAt w 16 2) <|
    acceptCmd s rd (.sclose (bitsAt w 0 16) (bitsAt w 16 2) re) id

/-- SCLOSE_APPLY (R148): named BOUND ports become CLOSED, or with `.re` CLOSED ports BOUND. A beat is one event, so that
a port stops at once. The ports are those of the numbers named, whichever plane has claimed them by then (log 92). -/
def execScloseApply (tid : Nat) (s : State) : Out :=
  match popCmd s tid false fun k => match k with | .sclose _ _ _ => true | _ => false with
  | some (c, s) =>
    match c.k with
    | .sclose mask _ re =>
      .next ((portsIn mask).foldl (fun s n =>
        let x := s.port (tid / 8) n
        if re then (if x.st = .closed then s.setPort (tid / 8) n { x with st := .bound } else s)
        else if x.st = .bound then s.setPort (tid / 8) n { x with st := .closed } else s) s)
    | _ => .next s
  | none => .next s

/-- Whether a port holds a stream. -/
def Port.holds (x : Port) : Bool := x.st == .bound || x.st == .closed

/-- Ports that accepted SMARKs of a plane have still to mark. -/
def smarkQueued (s : State) (p n : Nat) : Bool :=
  (s.plot p).cmds.any fun c => match c.k with | .smark mask _ _ => bitAt mask n | _ => false

/-- SMARK (R149); a named port that is FAULTED gets no marker and refuses none (log 92). -/
def execSmark (rd rs1 : Reg) (s : State) : Out :=
  let w := (s.g rs1).toNat
  let mask := bitsAt w 0 16
  let k := bitsAt w 16 2
  let n := bitsAt w 32 16
  let p := s.curPlot
  let c := s.cutsOf (s.regionKey p k)
  let ports := (portsIn mask).filter fun i => (s.port p i).holds
  onThread s rd <| maskCheck s rd (bitsAt w 18 14 != 0 || decide (2 ^ 48 ≤ w)) mask k <|
    if 0x8000 ≤ n ∨ ports.any (fun i => (s.port p i).d.write) ∨
        (c.active ∧ c.num = n ∧ ports.any (fun i => c.marked.contains (p * 16 + i))) then status s rd stBADARG
    else if ports.any (fun i => (s.port p i).marker.isSome || smarkQueued s p i) ∨ (c.active ∧ c.num ≠ n) then status s rd stBUSY
    else acceptCmd s rd (.smark mask k n) id

/-- Markers pending at ports, as the SMARK or the lodge leaves them (R149, R324). -/
def markPorts (s : State) (p k n : Nat) (ports : List Nat) : State :=
  let r := s.regionKey p k
  let s := ports.foldl (fun s i => s.setPort p i { s.port p i with marker := some n }) s
  let c := s.cutsOf r
  s.setCuts r { c with marked := c.marked ++ ports.map fun i => p * 16 + i }

/-- SMARK_INJECT (R149): the first SMARK that injects a cut's marker into a port begins the cut; while a cut of another number
is under way the command waits (log 53). -/
def execSmarkInject (tid : Nat) (s : State) : Out :=
  match popCmd s tid true fun k => match k with | .smark _ _ _ => true | _ => false with
  | some (c, s') =>
    match c.k with
    | .smark mask k n =>
      let p := tid / 8
      let r := s.regionKey p k
      let cut := s.cutsOf r
      if cut.active ∧ cut.num ≠ n then .next s
      else
        let ports := (portsIn mask).filter fun i => (s'.port p i).holds && !(s'.port p i).d.write
        if ports.isEmpty then .next s'
        else
          let s' := if cut.active then s' else beginCut s' r n false false
          .next (markPorts (beginCmd s' p c) p k n ports)
    | _ => .next s
  | none => .next s

/-! Ring producers at ports (R217, R219). -/

/-- Slot WIDX fills in one step (R219). -/
def fillRing (s : State) (p r : Nat) : State :=
  let g := s.ring p r
  let h := g.slotHandle
  let s := s.setTile p h { s.tile p h with st := .ready }
  s.setRing p r { g with filled := g.filled + 1, w := g.w + 1, marks := [] }

/-- Whether a cut completion must release a fill of the ring (R334). -/
def ringRollback (s : State) (p r : Nat) : Bool := s.isRollback (s.plane p (s.ring p r).plane).lnch

/-- A marker of a producer outside the region kept for a rollback, which replays it (R332). -/
def noteReplay (s : State) (p r : Nat) (pr : Producer) : State :=
  match pr with
  | .port _ => s
  | .chan c =>
    let key := s.regionKey p (s.ring p r).plane
    if (s.cutsOf key).exists_ then s.setCuts key { s.cutsOf key with replay := (s.cutsOf key).replay ++ [(p * 16 + r, c)] } else s

/-- A producer delivers its marker for slot WIDX; with F producers the slot fills, in a launch with the rollback flag
when its next cut completes. -/
def ringMark (s : State) (p r : Nat) (pr : Producer) : State :=
  let g := s.ring p r
  let g := (g.setIndex pr (g.w + 1))
  let g := { g with marks := if g.marks.contains pr then g.marks else g.marks ++ [pr] }
  let s := noteReplay (s.setRing p r g) p r pr
  if g.marks.length < g.fan then s
  else if ringRollback s p r then
    let key := s.regionKey p g.plane
    let c := s.cutsOf key
    s.setCuts key { c with held := c.held ++ [.fill (p * 16 + r) (match pr with | .chan _ => true | _ => false)] }
  else fillRing s p r

/-- A port producer that other producers overtook begins the slot being filled (R217, log 25). -/
def syncPort (s : State) (p n r : Nat) : State :=
  let g := s.ring p r
  let x := s.port p n
  if g.indexOf (.port n) < g.w then
    (s.setRing p r (g.setIndex (.port n) g.w)).setPort p n { x with pos := 0, acked := 0, stores := [] }
  else s

/-! Port events. -/

/-- A port that may access: bound and begun, its plane running, no fatal outcome pending, its horizon performed. -/
def portReady (s : State) (p : Nat) (x : Port) : Bool :=
  x.st == .bound && x.begun && !x.ended && x.fatal.isNone && s.planeRuns p x.plane && s.horizonDone x.hor

/-- The sources of a port that its stream writes tokens to. -/
def portSources (n : Nat) (d : SDesc) : List Nat := if d.fmtw = 0 then [srcPort n false] else [srcPort n false, srcPort n true]

/-- A marker emitted on a port's sources, when they have room: an end-of-tile marker on both (R137), a cut marker on the
scale source only if the stream has scales (R324). -/
def emitMarker (s : State) (p n : Nat) (k : TokKind) : Option State :=
  let x := s.port p n
  let pl := s.plane p x.plane
  let srcs := if k = .eot then [srcPort n false, srcPort n true] else portSources n x.d
  if srcs.all fun q => decide (0 < pl.srcRoom q) then
    some (s.setPlane p x.plane (srcs.foldl (fun pl q => pl.emit q k x.hor) pl))
  else none

/-- The cut marker pending at a read port emitted; the port's position is recorded (R324) (log 53). -/
def emitCut (s : State) (p n cut : Nat) : State :=
  match emitMarker s p n (.cut cut) with
  | none => s
  | some s =>
    let s := snapPort s p n cut
    endSmarks (s.setPort p n { s.port p n with marker := none, cutSeen := some cut }) p

/-- What a port does with the head of its own endpoint before a row: a row trigger taken, a marker consumed. None when
it must wait. -/
def takeTrigger (s : State) (p n : Nat) : Option State :=
  let x := s.port p n
  let pl := s.plane p x.plane
  match pl.headTok (136 + n) with
  | none => none
  | some t =>
    let s := s.setPlane p x.plane (pl.popEp (136 + n))
    some (if t.marker then s else s.setPort p n { x with trig := true, hor := joinHor x.hor t.hor })

/-- A port's outcome that is not a value: a stall, a fatal outcome pending, or an uncorrectable error. -/
def portStop (s : State) (p n : Nat) (r : XRes) (va : Word) : State :=
  let x := s.port p n
  match r with
  | .wait => s.setPort p n { x with stalled := s.waitsPage (.port p n) }
  | .fatal _ _ | .lost _ => s.setPort p n { x with fatal := some va, stalled := false }
  | .uncorr a => portUncorr s p n a va
  | .ok _ => s

/-- The bytes of the beat a read port is at. -/
def readBeat (s : State) (p n : Nat) : Except State (List Byte × State) :=
  let x := s.port p n
  let d := x.d
  if d.tile then
    match tileRead s p (d.base % 256) (d.tileAt x.pos) 8 with
    | .ok bs => .ok (bs, s)
    | .stall => .error s
    | .fatal => .error (s.setPort p n { x with fatal := some 0 })
  else
    match unitLoad s (.port p n) 0 (s.planeTenant p x.plane) x.asid [(d.va x.pos, 8)] [] with
    | ((.ok _, _, bs), s) => .ok (bs, s)
    | ((r, va, _), s) => .error (portStop s p n r va)

/-- The scale token that goes with a beat (R137): 8 blocks of 4n beats begin there; its bytes in block order, the row's
last token zero-padded (log 52). -/
def readScale (s : State) (p n : Nat) : Except State (Option Word × State) :=
  let x := s.port p n
  let d := x.d
  let b := x.pos % d.rowBeats
  let u := b / (4 * 2 ^ d.fmtw)
  if d.fmtw = 0 ∨ b % (4 * 2 ^ d.fmtw) ≠ 0 then .ok (none, s)
  else
    let va := d.scaleVa (x.pos / d.rowBeats) + BitVec.ofNat 64 (8 * u)
    match unitLoad s (.port p n) 1 (s.planeTenant p x.plane) x.asid (segsOf va (min 8 (d.blocks - 8 * u))) [] with
    | ((.ok _, _, bs), s) => .ok (some (leWord bs), s)
    | ((r, va, _), s) => .error (portStop s p n r va)

/-- Whether an end-of-tile marker follows the row that ends with the beat before `pos`. -/
def SDesc.markAfter (d : SDesc) (pos : Nat) : Bool :=
  let row := pos / d.rowBeats
  d.mark != 0 && pos % d.rowBeats == 0 && (row % d.mark == 0 || pos == d.beats)

/-- Tokens of one beat emitted: data, and scale when one goes with it. DESIGN CHOICE: a scale token carries the descriptor's
TAG too (log 52). -/
def emitBeat (s : State) (p n : Nat) (v : Word) (scale : Option Word) : State :=
  let x := s.port p n
  let pl := (s.plane p x.plane).emit (srcPort n false) (.data v x.d.tag) x.hor
  s.setPlane p x.plane (match scale with | some w => pl.emit (srcPort n true) (.data w x.d.tag) x.hor | none => pl)

/-- The next beat of a read stream; a full source buffer stalls the port (R398). -/
def readOne (s : State) (p n : Nat) : State :=
  let x := s.port p n
  let d := x.d
  let pl := s.plane p x.plane
  if d.beats ≤ x.pos then s
  else if x.pos % d.rowBeats = 0 ∧ !x.trig ∧ pl.connected (136 + n) then (takeTrigger s p n).getD s
  else if (portSources n d).any fun q => pl.srcRoom q == 0 then s
  else
    match readScale s p n with
    | .error s => s
    | .ok (scale, s) =>
      match readBeat s p n with
      | .error s => s
      | .ok (bs, s) =>
        let s := emitBeat (endReach s (.port p n)) p n (leWord bs) scale
        let x := s.port p n
        s.setPort p n { x with pos := x.pos + 1, count := x.count + 1, stalled := false,
                               trig := if (x.pos + 1) % d.rowBeats = 0 then false else x.trig,
                               eotDue := d.markAfter (x.pos + 1) }

/-- A cut marker at the head of a read port's own endpoint consumed without effect (R324). -/
def dropTriggerCut (s : State) (p n : Nat) : State :=
  let x := s.port p n
  let pl := s.plane p x.plane
  match pl.headTok (136 + n) with
  | some t => match t.k with | .cut _ => s.setPlane p x.plane (pl.popEp (136 + n)) | _ => s
  | none => s

/-- An end-of-tile marker that is due emitted on the port's sources. -/
def emitEot (s : State) (p n : Nat) : State :=
  match emitMarker s p n .eot with
  | some s => s.setPort p n { s.port p n with eotDue := false }
  | none => s

/-- PORT_READ_BEAT (R137): a pending cut marker, an end-of-tile marker that is due, or the next beat. -/
def execPortReadBeat (plot port : Nat) (s : State) : Out :=
  let x := s.port plot port
  if !x.holds ∨ x.d.write ∨ !s.planeRuns plot x.plane then .next s
  else
    let s := dropTriggerCut s plot port
    match x.marker with
    | some n => .next (emitCut s plot port n)
    | none =>
      .next (if !portReady s plot x then s else if x.eotDue then emitEot s plot port else readOne s plot port)

/-- Whether a store counts as performed at a stream's SCOPE (Table 6.4): at plot scope as it issues. -/
def storeDone (s : State) (scope id : Nat) : Bool := scope == 0 || s.performed id

/-- A beat stored by a write port at its position; none when it must wait or has stopped. -/
def writeBeat (s : State) (p n h : Nat) (bs : List Byte) : Except State State :=
  let x := s.port p n
  let d := x.d
  if d.tile then
    match tileWrite s p h (d.tileAt x.pos) bs with
    | .ok s => .ok s
    | .stall => .error s
    | .fatal => .error (s.setPort p n { x with fatal := some 0 })
  else
    match unitStore s (.port p n) (s.planeTenant p x.plane) x.asid (some x.lnch) (d.va x.pos) bs with
    | ((.ok _, id), s) =>
      let hor := if d.scope = 0 then [id] else []
      .ok (s.setPort p n { x with stores := x.stores ++ [(x.pos / d.rowBeats, id)], hor := joinHor x.hor hor })
    | ((r, _), s) => .error (portStop s p n r (d.va x.pos))

/-- The next data token of a write stream stored, into the ring's slot for a ring producer. -/
def writeOne (s : State) (p n : Nat) (t : Tok) : State :=
  let s := match s.ringOfPort p n with | some r => syncPort s p n r | none => s
  let x := s.port p n
  let d := x.d
  let h := match s.ringOfPort p n with | some r => (s.ring p r).slotHandle | none => d.base % 256
  let shut : Bool := match s.ringOfPort p n with | some r => !ringOpen s p r (.port n) | none => false
  if d.beats ≤ x.pos ∨ shut then s
  else
    match writeBeat (s.setPort p n { x with hor := joinHor x.hor t.hor }) p n h (leBytes 8 t.value.toNat) with
    | .error s => s
    | .ok s =>
      let x := s.port p n
      let s := s.setPort p n { x with pos := x.pos + 1, count := x.count + 1, stalled := false }
      s.setPlane p x.plane ((s.plane p x.plane).popEp (136 + n))

/-- A write port consumes cut marker `n` once the stores ahead of it are performed at SCOPE, and its position is recorded
(R324); one that has the marker twice before that is skewed (R325). -/
def writeCut (s : State) (p n cut : Nat) : State :=
  let x := s.port p n
  if ((s.plane p x.plane).epBuf (136 + n)).tail.any fun t => t.k == .cut cut then portFault s p n fMarkerSkew
  else if x.stores.all fun e => storeDone s x.d.scope e.2 then
    let s := snapPort s p n cut
    (s.setPort p n { s.port p n with cutSeen := some cut, cutAt := s.nextId }).setPlane p x.plane ((s.plane p x.plane).popEp (136 + n))
  else s

/-- PORT_WRITE_BEAT (R137, R218): the token at the head of the port's endpoint. -/
def execPortWriteBeat (plot port : Nat) (s : State) : Out :=
  let x := s.port plot port
  if !x.holds ∨ !x.d.write ∨ !s.planeRuns plot x.plane then .next s
  else
    match (s.plane plot x.plane).headTok (136 + port) with
    | none => .next s
    | some t =>
      match t.k with
      | .cut n => .next (writeCut s plot port n)
      | .eot =>
        if (s.ringOfPort plot port).isSome ∨ !portReady s plot x then .next s
        else .next (s.setPlane plot x.plane ((s.plane plot x.plane).popEp (136 + port)))
      | _ =>
        if portReady s plot { x with hor := joinHor x.hor t.hor } then .next (writeOne s plot port t) else .next s

/-- EOT_MARKER_CONSUME (R217): a ring producer's port consumes an end-of-tile marker once every store of the slot is
performed and every row acknowledged, delivers its marker and begins the next slot's visit. -/
def execEotMarkerConsume (plot port : Nat) (s : State) : Out :=
  match s.ringOfPort plot port with
  | none => .next s
  | some r =>
    let s := syncPort s plot port r
    let x := s.port plot port
    let head := ((s.plane plot x.plane).headTok (136 + port)).map fun t => t.k
    if head = some .eot ∧ portReady s plot x ∧ ringOpen s plot r (.port port) ∧ x.acked = x.pos / x.d.rowBeats then
      let s := s.setPlane plot x.plane ((s.plane plot x.plane).popEp (136 + port))
      let s := s.setPort plot port { x with pos := 0, acked := 0, stores := [] }
      .next (ringMark s plot r (.port port))
    else .next s

/-- Whether row `acked` of a write stream has been stored and performed at SCOPE. -/
def rowDone (s : State) (x : Port) : Bool :=
  decide ((x.acked + 1) * x.d.rowBeats ≤ x.pos) && (x.stores.filter fun e => e.1 = x.acked).all fun e => storeDone s x.d.scope e.2

/-- ROW_ACKNOWLEDGEMENT (R137): the acknowledgements of an ended stream first, then the next row's. -/
def execRowAcknowledgement (plot port : Nat) (s : State) : Out :=
  let x := s.port plot port
  let pl := s.plane plot x.plane
  if !s.planeRuns plot x.plane ∨ pl.srcRoom (srcPort port false) = 0 then .next s
  else
    match x.ackq with
    | a :: rest =>
      .next ((s.setPlane plot x.plane (pl.emit (srcPort port false) (.data a.1 a.2.1) a.2.2)).setPort plot port { x with ackq := rest })
    | [] =>
      if x.holds ∧ x.d.write ∧ rowDone s x then
        .next ((s.setPlane plot x.plane (pl.emit (srcPort port false) (.data (BitVec.ofNat 64 x.acked) x.d.tag) x.hor)).setPort
          plot port { x with acked := x.acked + 1, stores := x.stores.filter fun e => e.1 ≠ x.acked })
      else .next s

/-- Whether a stream has done all it will do (R139): a read stream's tokens have entered its sources, a write stream's
stores are performed at SCOPE. A ring producer's stream never ends by count. -/
def streamDone (s : State) (p n : Nat) : Bool :=
  let x := s.port p n
  let d := x.d
  x.holds && x.begun && x.pos == d.beats && x.marker.isNone &&
  (if d.write then (s.ringOfPort p n).isNone && x.stores.all (fun e => storeDone s d.scope e.2)
   else !x.eotDue)

/-- A stream ended: the port is IDLE, a filled tile READY, acknowledgements still owed kept. -/
def endStream (s : State) (p n : Nat) : State :=
  let x := s.port p n
  let d := x.d
  let owed := if d.write then (List.range (d.rows1 * d.rows2 - x.acked)).map fun i =>
    (BitVec.ofNat 64 (x.acked + i), d.tag, x.hor) else []
  let s := endXlats (s.setPort p n { x with st := .idle, ended := false, ackq := x.ackq ++ owed, stores := [], stalled := false }) (.port p n)
  if d.write ∧ d.tile then tileFilled s p (d.base % 256) else s

/-- STREAM_END (R139), on a plot that is resident (R379); a write stream's end in a launch with the rollback flag is held until a cut completes (R334). -/
def execStreamEnd (plot port : Nat) (s : State) : Out :=
  let x := s.port plot port
  if !streamDone s plot port ∨ x.ended ∨ !(s.plot plot).resident then .next s
  else if x.d.write ∧ s.isRollback (s.plane plot x.plane).lnch then
    let r := s.regionKey plot x.plane
    let c := s.cutsOf r
    .next ((s.setCuts r { c with held := c.held ++ [.streamEnd (plot * 16 + port)] }).setPort plot port { x with ended := true })
  else .next (endStream s plot port)

/-- STREAM_FATAL (R138), on a plot that is resident (R379). -/
def execStreamFatal (plot port : Nat) (s : State) : Out :=
  if (s.port plot port).fatal.isSome ∧ (s.port plot port).holds ∧ (s.plot plot).resident then .next (portFault s plot port fStreamFatal) else .next s

/-! SWAIT (R150). -/

/-- An acquire at a stream's SCOPE. -/
def acquireAt (s : State) (scope : Nat) : State := if scope = 0 then s else acquire s

/-- SWAIT: the plane that its selector names and the one that has claimed the port must both be held (log 53). -/
def execSwait (rd rs1 rs2 : Reg) (s : State) : Out :=
  let i : Instr := .swait rd rs1 rs2
  let sel := (s.g rs1).toNat
  let k := bitsAt sel 4 2
  let p := s.curPlot
  let x := s.port p (bitsAt sel 0 4)
  onThread s rd <|
    if 64 ≤ sel then status s rd stBADARG
    else if s.planeOwner p k ≠ some s.curTenant ∨ ((s.portPlane p (bitsAt sel 0 4)).any fun j => s.planeOwner p j ≠ some s.curTenant) then
      status s rd stDENIED
    else if x.st = .faulted then status s rd stDENIED
    else if x.st = .idle then status (acquireAt s x.d.scope) rd stOK
    else if expired s i (s.g rs2) then status s rd stBUSY
    else waitIn s i 0

/-! The start of commands (R141). -/

/-- What a command's unit does when it starts; a matrix command joins its lattice's queue, a gate expectation is
complete. -/
def startCmd (s : State) (p : Nat) (c : Cmd) : State :=
  match c.k with
  | .scfg _ _ _ | .tfill _ _ | .tdrain _ _ => beginCmd s p c
  | .sbind n _ _ _ => streamBegin s p n
  | .mload _ _ _ _ | .mbind _ | .mzero _ | .mread _ _ _ _ | .mnorm _ =>
    { s.setPlot p { s.plot p with mops := (s.plot p).mops ++ [{ c with begun := s.nextId }] } with nextId := s.nextId + 1 }
  | _ => s

/-- Whether COMMAND_START starts a command: it has no start row of its own. -/
def CmdKind.plain (k : CmdKind) : Bool :=
  match k with
  | .sclose _ _ _ | .smark _ _ _ | .rrel _ | .garr _ | .ckick _ _ | .nbdot _ _ => false
  | _ => true

/-- COMMAND_START (R141): the thread's oldest accepted command of the class leaves its entry. -/
def execCommandStart (tid : Nat) (signal : Bool) (s : State) : Out :=
  match popCmd s tid signal CmdKind.plain with
  | some (c, s) => .next (startCmd s (tid / 8) c)
  | none => .next s

end Sys2Proof.Machine
end

