-- ==== Sys2Proof/Machine/Lattice.lean ====
section
/-! DEFINITION. Lattices (08_lattices): the MATRIX group (R207-R213), command order (R204), slice loads, bindings and
reloads (R189-R192, R215), rows (R193-R199), wide rows and the assist (R200, R201), and read-out. -/

namespace Sys2Proof.Machine

/-! Words. -/

/-- A binding word's fields (R209). -/
def bLat (b : Word) : Nat := bitsAt b.toNat 0 2
def bSlot (b : Word) : Nat := bitsAt b.toNat 2 5
def bFmt (b : Word) : Nat := bitsAt b.toNat 7 4
def bTile (b : Word) : Nat := bitsAt b.toNat 11 4
def bRow0 (b : Word) : Nat := bitsAt b.toNat 15 6
def bRows (b : Word) : Nat := bitsAt b.toNat 21 6 + 1
def bSplit (b : Word) : Bool := bitAt b.toNat 27

/-- The tiles a binding adds to. -/
def bTiles (b : Word) : List Nat := if isWide (bFmt b) then [bTile b, bTile b + 1] else [bTile b]

/-- The accumulator tiles a command names. -/
def CmdKind.accTiles (k : CmdKind) : List Nat :=
  match k with
  | .mbind b => bTiles b
  | .mzero sel => (List.range 16).filter fun n => bitAt sel.toNat n
  | .mread sel _ _ _ => [bitsAt sel.toNat 0 4]
  | .mnorm sel => [bitsAt sel.toNat 0 4]
  | _ => []

/-- Weight slot `n` of a lattice. -/
def Lat.slot (x : Lat) (n : Nat) : WSlot := Tbl.getD x.slots n {}

/-- Whether a slot is named by a binding that has not completed. -/
def Lat.named (x : Lat) (n : Nat) : Bool := x.binds.any fun b => bSlot b.word == n

/-- Whether a lattice runs: not FAULTED, its plane CONFIGURED and not halted (R187, R203). -/
def State.latRuns (s : State) (p l : Nat) : Bool :=
  !(s.lat p l).faulted && !(s.lat p l).ending && (match s.latPlane p l with | some k => s.planeRuns p k | none => false)

/-- Whether the issuing thread may name a lattice: claimed and not FAULTED. -/
def State.latUsable (s : State) (p l : Nat) : Bool := s.latClaimed p l s.curTenant && !(s.lat p l).faulted

/-- A lattice fault (R203). -/
def latFault (s : State) (p l sub slot : Nat) : State :=
  let k := (s.latPlane p l).getD 0
  let s := s.setLat p l { s.lat p l with faulted := true }
  fabricFault s p k 3 l (fabricInfo sub l slot k true false)

/-! Instructions. -/

/-- Lines a slice takes (R189). -/
def sliceLines (body : Nat) : Nat := (16 + body + 63) / 64

/-- A slot LOADING as MLOAD's acceptance leaves it (R208). -/
def takeSlot (s : State) (p l n : Nat) (h : List Byte) (src : Word) (tile : Bool) : State :=
  let x := s.lat p l
  let body := fieldAt h 4 4
  let need := sliceLines body
  let w : WSlot := { st := .loading, bfmt := fieldAt h 0 1, dense := bitAt (fieldAt h 1 1) 0, kb := fieldAt h 2 2, lines := need,
                     blen := body, src := src, tile := tile, asid := s.ctx.asid, tid := s.curTid, cmd := s.nextId }
  s.setLat p l { x with slots := Tbl.set x.slots n w, free := x.free + (x.slot n).lines - need }

/-- What MLOAD checks once it has the slice header, in order. -/
def mloadGo (s : State) (rd : Reg) (l n : Nat) (h : List Byte) (src : Word) (tile : Bool) : Out :=
  let p := s.curPlot
  let x := s.lat p l
  if !sliceHdrOk h then status s rd stBADARG
  else if (x.slot n).st = .loading ∨ x.named n then status s rd stBUSY
  else if x.free + (x.slot n).lines < sliceLines (fieldAt h 4 4) then status s rd stNOSPACE
  else acceptCmd s rd (.mload l n src tile) fun s => takeSlot s p l n h src tile

/-- MLOAD (R208). -/
def execMload (rd rs1 rs2 : Reg) (s : State) : Out :=
  let sel := (s.g rs1).toNat
  let src := s.g rs2
  let l := bitsAt sel 0 2
  let n := bitsAt sel 4 5
  let p := s.curPlot
  onThread s rd <|
    if 2 ^ 9 ≤ sel ∨ bitAt sel 3 then status s rd stBADARG
    else if !s.latUsable p l then status s rd stDENIED
    else if bitAt sel 2 then
      let t := s.tile p (src.toNat % 256)
      let off := bitsAt src.toNat 8 32
      if 2 ^ 40 ≤ src.toNat ∨ off % 16 ≠ 0 ∨ t.st = .free then status s rd stBADARG
      else if t.st ≠ .ready then status s rd stBUSY
      else
        let h := Mem.read t.bytes off 16
        if t.size < off + 16 + fieldAt h 4 4 then status s rd stBADARG else mloadGo s rd l n h src true
    else if src.toNat % 16 ≠ 0 ∨ 2 ^ 56 ≤ src.toNat then status s rd stBADARG
    else
      match dataLoad s src 16 false with
      | (.ok h, s) => mloadGo s rd l n h src false
      | (r, s) => dresOut s r

/-- Whether MBIND accepts a binding word on the plot's state (R209). -/
def mbindOk (s : State) (p : Nat) (b : Word) : Bool :=
  let l := bLat b
  let w := (s.lat p l).slot (bSlot b)
  let a := bFmt b
  let k := (s.latPlane p l).getD 0
  let x := s.plane p k
  (w.st == .loading || w.st == .valid) && pairAllowed a w.bfmt && w.kb == latK a && decide (bRow0 b + bRows b ≤ 64) &&
  (if isWide a then !bSplit b && bTile b / 4 == l && bTile b % 2 == 0
   else if !bSplit b || l % 2 == 0 then bTile b / 4 == l
   else bTile b / 4 == l - 1 && s.latPlane p (l - 1) == s.latPlane p l) &&
  x.connected (128 + l) && (!isBfp a || x.connected (132 + l))

/-- MBIND (R209). -/
def execMbind (rd rs1 : Reg) (s : State) : Out :=
  let b := s.g rs1
  let l := bLat b
  let p := s.curPlot
  let x := s.lat p l
  onThread s rd <|
    if 2 ^ 28 ≤ b.toNat ∨ 8 < bFmt b then status s rd stBADARG
    else if !s.latUsable p l then status s rd stDENIED
    else if !mbindOk s p b then status s rd stBADARG
    else if 4 ≤ x.binds.length then status s rd stBUSY
    else acceptCmd s rd (.mbind b) fun s =>
      s.setLat p l { x with binds := x.binds ++ [{ cmd := s.nextId, word := b, left := bRows b }] }

/-- MZERO (R210). -/
def execMzero (rd rs1 : Reg) (s : State) : Out :=
  let sel := s.g rs1
  let p := s.curPlot
  onThread s rd <|
    if 2 ^ 17 ≤ sel.toNat ∨ sel.toNat % 65536 = 0 then status s rd stBADARG
    else if (CmdKind.mzero sel).accTiles.any fun n => !s.latUsable p (n / 4) then status s rd stDENIED
    else acceptCmd s rd (.mzero sel) id

/-- The fields of MREAD's selector (R211). -/
def mrTile (sel : Nat) : Nat := bitsAt sel 0 4
def mrRow0 (sel : Nat) : Nat := bitsAt sel 4 6
def mrRows (sel : Nat) : Nat := bitsAt sel 10 6 + 1
def mrFmt (sel : Nat) : Nat := bitsAt sel 16 3
def mrSource (sel : Nat) : Bool := bitAt sel 19
def mrWide (sel : Nat) : Bool := bitAt sel 20

/-- Row bytes of a read-out. -/
def mrRowBytes (sel : Nat) : Nat := (if mrWide sel then 64 else 128) * outBytes (mrFmt sel)

/-- MREAD to tiles: the checks of its destination word, in order. -/
def mreadDst (s : State) (sel dst : Nat) : Option Nat :=
  let p := s.curPlot
  let off := bitsAt dst 16 32
  let o := mrFmt sel
  let t := s.tile p (dst % 256)
  let u := s.tile p (bitsAt dst 8 8)
  let end_ := off + mrRows sel * mrRowBytes sel
  let busy (x : Tile) : Bool := x.st == .filling || x.st == .draining
  if 2 ^ 48 ≤ dst ∨ off % (if o = 5 then 32 else 8) ≠ 0 ∨ (bitsAt dst 8 8 ≠ 0 ∧ o ≠ 5) then some stBADARG
  else if t.st = .free then some stBADARG
  else if busy t then some stBUSY
  else if o = 5 ∧ u.st = .free then some stBADARG
  else if o = 5 ∧ busy u then some stBUSY
  else if t.size < end_ ∨ (o = 5 ∧ u.size < end_ / 32) then some stBADARG
  else none

/-- MREAD (R211). -/
def execMread (rd rs1 rs2 : Reg) (clr e4nan : Bool) (s : State) : Out :=
  let sel := (s.g rs1).toNat
  let dst := (s.g rs2).toNat
  let go := acceptCmd s rd (.mread (s.g rs1) (s.g rs2) clr e4nan) id
  onThread s rd <|
    if 2 ^ 21 ≤ sel ∨ mrFmt sel = 7 ∨ 64 < mrRow0 sel + mrRows sel then status s rd stBADARG
    else if !s.latUsable s.curPlot (mrTile sel / 4) then status s rd stDENIED
    else if mrSource sel then (if dst ≠ 0 then status s rd stBADARG else go)
    else
      match mreadDst s sel dst with
      | some code => status s rd code
      | none => go

/-- MNORM (R212). -/
def execMnorm (rd rs1 : Reg) (s : State) : Out :=
  let sel := (s.g rs1).toNat
  onThread s rd <|
    if 2 ^ 22 ≤ sel ∨ 39 < bitsAt sel 16 6 ∨ 64 < bitsAt sel 4 6 + bitsAt sel 10 6 + 1 then status s rd stBADARG
    else if !s.latUsable s.curPlot (bitsAt sel 2 2) then status s rd stDENIED
    else acceptCmd s rd (.mnorm (s.g rs1)) id

/-- The state word of a row (R213). -/
def headWord (t : Acc) (i : Nat) : Word :=
  if t.wide then
    let odd := (t.elems i).any fun e => match fp64.val e.toNat with | .fin _ _ _ => false | _ => true
    BitVec.ofNat 64 (2 ^ 18 + (if odd then 2 ^ 17 else 0))
  else
    let r := t.row i
    BitVec.ofNat 64 (wrapBits 10 r.x + r.h * 2 ^ 10 + (if r.empty then 2 ^ 16 else 0) +
      (if r.spcs.any fun c => c != 0 then 2 ^ 17 else 0))

/-- MHEAD (R213). -/
def execMhead (rd rs1 : Reg) (s : State) : Out :=
  let sel := (s.g rs1).toNat
  let n := bitsAt sel 0 4
  let p := s.curPlot
  finish s rd (if !s.isThread ∨ 2 ^ 10 ≤ sel ∨ !s.latClaimed p (n / 4) s.curTenant then noState
    else headWord (s.acc p n) (bitsAt sel 4 6)) 4

/-! Command order (R204). -/

/-- The started commands of a plot ahead of one. -/
def Plot.opsBefore (x : Plot) (id : Nat) : List Cmd := x.mops.takeWhile fun c => c.id ≠ id

/-- Whether a command's turn on tiles has come: no command started before it, and not completed, names one of them. -/
def State.turnOf (s : State) (p id : Nat) (tiles : List Nat) (skip : CmdKind → Bool) : Bool :=
  !((s.plot p).opsBefore id).any fun c => !skip c.k && c.k.accTiles.any fun n => tiles.contains n && !c.cleared.contains n

/-- The started command with an id. -/
def State.opOf (s : State) (p id : Nat) : Option CmdKind := ((s.plot p).mops.find? fun c => c.id = id).map fun c => c.k

/-- The tiles a started MZERO has cleared. -/
def State.clearedBy (s : State) (p id : Nat) : List Nat := (((s.plot p).mops.find? fun c => c.id = id).map fun c => c.cleared).getD []

/-- Tiles noted as cleared by a started MZERO. -/
def noteCleared (s : State) (p id : Nat) (ns : List Nat) : State :=
  let x := s.plot p
  s.setPlot p { x with mops := x.mops.map fun c => if c.id = id then { c with cleared := c.cleared ++ ns } else c }

/-- A matrix command completed. -/
def endOp (s : State) (p id : Nat) : State := completeCmds s p fun c => c.id == id

/-- MZERO_CLEAR (R210): every named tile whose turn has come is cleared; the command completes with the last. -/
def execMzeroClear (plot id : Nat) (s : State) : Out :=
  match s.opOf plot id with
  | some (.mzero sel) =>
    let left := (CmdKind.mzero sel).accTiles.filter fun n => !(s.clearedBy plot id).contains n
    let now := left.filter fun n => s.latRuns plot (n / 4) && s.turnOf plot id [n] fun _ => false
    let s := now.foldl (fun s n => s.setAcc plot n (Acc.cleared (bitAt sel.toNat 16))) s
    .next (if left.all now.contains then endOp s plot id else noteCleared s plot id now)
  | _ => .next s

/-- MNORM_APPLY (R212). -/
def execMnormApply (plot id : Nat) (s : State) : Out :=
  match s.opOf plot id with
  | some (.mnorm sel) =>
    let w := sel.toNat
    let n := bitsAt w 0 4
    if !s.latRuns plot (n / 4) ∨ !s.turnOf plot id [n] fun _ => false then .next s
    else
      let t := s.acc plot n
      let rows := (List.range (bitsAt w 10 6 + 1)).map fun i => bitsAt w 4 6 + i
      let t := if t.wide then t else rows.foldl (fun t i => normRow t (bitsAt w 16 6) i) t
      .next (endOp (s.setAcc plot n t) plot id)
  | _ => .next s

/-! Read-out (R211). -/

/-- The bytes of a read-out's row. -/
def readRowOut (t : Acc) (sel : Nat) (e4nan : Bool) (i : Nat) : List Byte × List Byte :=
  outRow (mrFmt sel) e4nan (t.rowVals (mrRow0 sel + i))

/-- Rows of a tile cleared as MREAD.clr clears them. -/
def clearRows (t : Acc) (sel n : Nat) : Acc := (List.range n).foldl (fun t i => t.clearRow (mrRow0 sel + i)) t

/-- A read-out into tiles: every row at once; none while a destination is busy. A tile it fills is READY when it
completes. -/
def readToTiles (s : State) (p id : Nat) (sel dst : Nat) (clr e4nan : Bool) : Option State :=
  let n := mrTile sel
  let t := s.acc p n
  let rows := (List.range (mrRows sel)).map fun i => readRowOut t sel e4nan i
  let off := bitsAt dst 16 32
  match tileWrite s p (dst % 256) off (rows.flatMap fun r => r.1) with
  | .ok s1 =>
    let s2? := if mrFmt sel = 5 then
        (match tileWrite s1 p (bitsAt dst 8 8) ((off / 32 : Nat) : Int) (rows.flatMap fun r => r.2) with | .ok s2 => some s2 | _ => none)
      else some s1
    s2?.map fun s =>
      let s := tileFilled s p (dst % 256)
      let s := if mrFmt sel = 5 then tileFilled s p (bitsAt dst 8 8) else s
      endOp (s.setAcc p n (if clr then clearRows t sel (mrRows sel) else t)) p id
  | _ => none

/-- Whether a read-out is the first of its lattice that goes to its sources. -/
def firstReader (s : State) (p id l : Nat) : Bool :=
  !((s.plot p).opsBefore id).any fun c =>
    match c.k with | .mread sel _ _ _ => mrSource sel.toNat && mrTile sel.toNat / 4 == l | _ => false

/-- The next token of a read-out to its lattice's sources, and the markers after the last (R211, R218). -/
def readToken (s : State) (p id sel : Nat) (clr e4nan : Bool) : State :=
  let n := mrTile sel
  let l := n / 4
  let x := s.lat p l
  let k := (s.latPlane p l).getD 0
  let pl := s.plane p k
  let per := mrRowBytes sel / 8
  let row := x.readPos / per
  let i := x.readPos % per
  let room := decide (0 < pl.srcRoom (srcLat l false)) && decide (0 < pl.srcRoom (srcLat l true))
  if !room then s
  else if row = mrRows sel then
    let pl := (pl.emit (srcLat l false) .eot x.hor).emit (srcLat l true) .eot x.hor
    endOp ((s.setPlane p k pl).setLat p l { x with readPos := 0 }) p id
  else
    let t := s.acc p n
    let out := readRowOut t sel e4nan row
    let pl := pl.emit (srcLat l false) (.data (leWord ((out.1.drop (8 * i)).take 8)) 0) x.hor
    let pl := if mrFmt sel = 5 ∧ i = 0 then pl.emit (srcLat l true) (.data (leWord out.2) 0) x.hor else pl
    let t := if clr ∧ i + 1 = per then t.clearRow (mrRow0 sel + row) else t
    ((s.setPlane p k pl).setAcc p n t).setLat p l { x with readPos := x.readPos + 1 }

/-- MREAD_READOUT (R211): in its turn, the rows into their tiles, or the next token into the read-out source; a WIDE
mismatch faults the lattice and reads nothing. -/
def execMreadReadout (plot id : Nat) (s : State) : Out :=
  match s.opOf plot id with
  | some (.mread selw dst clr e4nan) =>
    let sel := selw.toNat
    let n := mrTile sel
    let l := n / 4
    if !s.latRuns plot l ∨ !s.turnOf plot id [n] fun _ => false then .next s
    else if (s.acc plot n).wide ≠ mrWide sel then .next (latFault (endOp s plot id) plot l fRuleIllegal 0)
    else if mrSource sel then .next (if firstReader s plot id l then readToken s plot id sel clr e4nan else s)
    else .next ((readToTiles s plot id sel dst.toNat clr e4nan).getD s)
  | _ => .next s

/-! Slices and bindings. -/

/-- The bytes of a slot's body from its source. -/
def sliceBody (s : State) (p l n : Nat) (w : WSlot) : (TRes (List Byte) × XRes × Word) × State :=
  if w.tile then
    ((tileRead s p (w.src.toNat % 256) ((bitsAt w.src.toNat 8 32 + 16 : Nat) : Int) w.blen, .wait, 0), s)
  else
    match unitRead s (.slice p l n) ((s.plotOwner p).getD 64) w.asid (segsOf (w.src + 16) w.blen) with
    | ((.ok _, _, bs), s) => ((.ok bs, .wait, 0), s)
    | ((.wait, _, _), s) => ((.stall, .wait, 0), s)
    | ((r, va, _), s) => ((.fatal, r, va), s)

/-- A slice load that failed: the slot FAILED and without lines, the lattice FAULTED (R203); an uncorrectable error is
recorded as such, but of the second tier (R258, log 27). -/
def sliceFail (s : State) (p l n : Nat) (w : WSlot) (r : XRes) (va : Word) : State :=
  let x := s.lat p l
  let s := endXlats s (.slice p l n)
  let s := s.setLat p l { x with slots := Tbl.set x.slots n { w with st := .failed, lines := 0, body := [] }, free := x.free + w.lines }
  match r with
  | .uncorr a =>
    if isTier2 a then latFault s p l fStreamFatal n
    else
    let k := (s.latPlane p l).getD 0
    let key := s.regionKey p k
    let s := s.setLat p l { s.lat p l with faulted := true }
    let s := faultRecord s ((s.planeOwner p k).getD 64) cUncorr 3 (if key < 16384 then key else 0xFFFF) (p + l * 1024)
      (lineInfo a) va
    if key < 16384 then s.setSlot key { s.slot key with status := 3 } else s
  | _ => latFault s p l fStreamFatal n

/-- The binding that has started and whose slice is not yet active. -/
def Lat.starting (x : Lat) : Option Binding := x.binds.find? fun b => b.started && !b.active

/-- The running binding. -/
def Lat.running (x : Lat) : Option Binding := x.binds.find? fun b => b.active

/-- A binding replaced in its lattice's queue. -/
def Lat.putBind (x : Lat) (b : Binding) : Lat := { x with binds := x.binds.map fun c => if c.cmd = b.cmd then b else c }

/-- The shadow plane filled from a started binding's slot, once the slot is VALID (R192, R215). -/
def Lat.fillShadow (x : Lat) : Lat :=
  match x.starting with
  | some b => if (x.slot (bSlot b.word)).st = .valid ∧ x.shadow.isNone then { x with shadow := some (x.slot (bSlot b.word)) } else x
  | none => x

/-- SLICE_LOAD_END (R208): a slot's load ends; one without a command reloads a restored slot (R206). -/
def execSliceLoadEnd (plot lat slot : Nat) (s : State) : Out :=
  let w := (s.lat plot lat).slot slot
  if w.st ≠ .loading ∨ (w.cmd ≠ 0 ∧ (s.opOf plot w.cmd).isNone) ∨ (s.latPlane plot lat).isNone then .next s
  else
    match sliceBody s plot lat slot w with
    | ((.stall, _, _), s) => .next s
    | ((.fatal, r, va), s) => .next (endOp (sliceFail s plot lat slot w r va) plot w.cmd)
    | ((.ok bs, _, _), s) =>
      let v := { w with body := bs, st := .valid }
      if v.wellFormed then
        let x := s.lat plot lat
        .next (endOp ((endXlats s (.slice plot lat slot)).setLat plot lat { x with slots := Tbl.set x.slots slot v }.fillShadow) plot w.cmd)
      else .next (endOp (sliceFail s plot lat slot w .wait 0) plot w.cmd)

/-- Chunks of a binding's row. -/
def bChunks (x : Lat) (b : Binding) : Nat := latK (bFmt b.word) / chunkTerms (bFmt b.word) (x.slot (bSlot b.word)).bfmt

/-- The other lattice of a pair (R199). -/
def mateLat (l : Nat) : Nat := if l % 2 = 0 then l + 1 else l - 1

/-- The binding of the other lattice that a started split binding pairs with, once it has started. -/
def splitMate (s : State) (p l : Nat) (b : Binding) : Option Binding :=
  (s.lat p (mateLat l)).binds.find? fun c => bSplit c.word && c.started && c.ord == b.ord

/-- Whether paired bindings match (R199). -/
def pairMatch (s : State) (p l : Nat) (b c : Binding) : Bool :=
  bTile b.word == bTile c.word && bRow0 b.word == bRow0 c.word && bRows b.word == bRows c.word &&
  bChunks (s.lat p l) b == bChunks (s.lat p (mateLat l)) c

/-- Whether the modes of a binding's tiles agree with its format group (R203). -/
def modesOk (s : State) (p : Nat) (b : Word) : Bool := (bTiles b).all fun n => (s.acc p n).wide == isWide (bFmt b)

/-- The binding of a lattice that starts next: the first, in the order commands started, that has not. -/
def nextBind (s : State) (p l : Nat) : Option Binding :=
  ((s.plot p).mops.filterMap fun c => (s.lat p l).binds.find? fun b => b.cmd = c.id && !b.started).head?

/-- BINDING_START (R209): the checks a binding makes when it starts, then the decompression into the shadow. -/
def execBindingStart (plot lat : Nat) (s : State) : Out :=
  let x := s.lat plot lat
  match nextBind s plot lat with
  | none => .next s
  | some b =>
    let isBind (k : CmdKind) : Bool := match k with | .mbind _ => true | _ => false
    if !s.latRuns plot lat ∨ x.starting.isSome ∨ !s.turnOf plot b.cmd (bTiles b.word) isBind then .next s
    else if !modesOk s plot b.word then .next (latFault s plot lat fRuleIllegal 0)
    else
      let b := { b with started := true, ord := if bSplit b.word then x.splitCnt else 0 }
      let x := { x with splitCnt := if bSplit b.word then x.splitCnt + 1 else x.splitCnt }
      let s := s.setLat plot lat (x.putBind b).fillShadow
      match (if bSplit b.word then splitMate s plot lat b else none) with
      | some c =>
        .next (if pairMatch s plot lat b c then s
          else latFault (latFault s plot lat fRuleIllegal 0) plot (mateLat lat) fRuleIllegal 0)
      | none => .next s

/-- WEIGHT_RELOAD (R192): at a row boundary after the previous binding has completed, the complete shadow becomes the
active plane. -/
def execWeightReload (plot lat : Nat) (s : State) : Out :=
  let x := s.lat plot lat
  match x.starting, x.shadow with
  | some b, some w =>
    if !s.latRuns plot lat ∨ x.running.isSome ∨ x.work.isSome then .next s
    else
      let x := { x with shadow := none, actBody := some w, actSlot := bSlot b.word, actFmt := some w.bfmt }
      .next (s.setLat plot lat (x.putBind { b with active := true }))
  | _, _ => .next s

/-! Rows. -/

/-- The columns of the active plane. -/
def Lat.cols (x : Lat) : List (List (Nat × Nat)) :=
  match x.actBody with
  | some w => (List.range 128).map fun j => w.colVals j
  | none => List.replicate 128 []

/-- The chunks of a row, each over the 128 columns. -/
def rowChunks (x : Lat) (a : Nat) (w : RowWork) : List (List Chunk) :=
  let b := x.actFmt.getD 0
  let row := rowElems a w.a w.scale
  let cols := x.cols
  (List.range (latK a / chunkTerms a b)).map fun c => cols.map fun col => chunkOf a b row col c

/-- Two lists taken in turn. -/
def interleave {α : Type} : List α → List α → List α
  | [], ys => ys
  | x :: xs, ys => x :: (match ys with | [] => xs | y :: ys => y :: interleave xs ys)

/-- The tile row a binding adds to next. -/
def Binding.rowAt (b : Binding) : Nat := bRow0 b.word + (bRows b.word - b.left)

/-- A row of a binding done: the binding completes with its last; a lattice whose claim has ended takes the state of a new one
(R187). -/
def rowDoneBind (s : State) (p l : Nat) (b : Binding) : State :=
  let x := { s.lat p l with work := none }
  if x.ending then latClear s p l
  else if b.left ≤ 1 then endOp (s.setLat p l { x with binds := x.binds.filter fun c => c.cmd ≠ b.cmd }) p b.cmd
  else s.setLat p l (x.putBind { b with left := b.left - 1 })

/-- Chunks added to a tile row in order. -/
def addChunks (s : State) (p n i : Nat) (cs : List (List Chunk)) : State := s.setAcc p n (cs.foldl (fun t c => addChunk t i c) (s.acc p n))

/-- A split row: it waits for its partner's, then the chunks of the pair enter in turn, those of the even lattice first
(R199). -/
def splitRow (s : State) (p l : Nat) (b : Binding) : State :=
  let m := mateLat l
  match splitMate s p l b, (s.lat p l).work, (s.lat p m).work with
  | some c, some w, some v =>
    if !c.active then s
    else
      let own := rowChunks (s.lat p l) (bFmt b.word) w
      let other := rowChunks (s.lat p m) (bFmt c.word) v
      let cs := if l % 2 = 0 then interleave own other else interleave other own
      rowDoneBind (rowDoneBind (addChunks s p (bTile b.word) b.rowAt cs) p l b) p m c
  | _, _, _ => s

/-- One step of a wide row over a lattice's 128 columns: the elements written, and the columns the assist must do. -/
def wideStep (s : State) (p l : Nat) (b : Binding) (a : Val) (bs : List Val) : State × List AssistReq :=
  let i := b.rowAt
  let one (s : State) (n lo : Nat) : State × List AssistReq :=
    let es := (s.acc p n).elems i
    let rs := (List.range 64).map fun j => wideAdd (es.getD j 0) a (bs.getD (lo + j) (.fin false 0 0))
    let new := (es.zip rs).map fun e => e.2.getD e.1
    let reqs := (List.range 64).filterMap fun j =>
      if (rs.getD j (some 0)).isNone then
        some ({ lat := l, tile := n, row := i, col := j, acc := es.getD j 0, a := asFp64 a,
                b := asFp64 (bs.getD (lo + j) (.fin false 0 0)), at_ := s.cycle } : AssistReq)
      else none
    let t := s.acc p n
    (s.setAcc p n { t with elts := Tbl.set t.elts i new, assist := !reqs.isEmpty }, reqs)
  let r := one s (bTile b.word) 0
  let q := one r.1 (bTile b.word + 1) 64
  (q.1, r.2 ++ q.2)

/-- Columns that wait for the assist, in the order their tiles stopped and by tile number among those of one cycle (R201); the
column presented stays first. -/
def queueAssist (x : Plot) (new : List AssistReq) : List AssistReq :=
  let sort (l : List AssistReq) := l.mergeSort fun a b => decide (a.at_ < b.at_) || (a.at_ == b.at_ && decide (a.tile ≤ b.tile))
  if x.assist.st = .free && !x.await then sort (x.apend ++ new) else x.apend.take 1 ++ sort (x.apend.drop 1 ++ new)

/-- Steps of a wide row from `k` on, over `n` steps left; it stops where the assist is needed. -/
def wideRun (s : State) (p l : Nat) (b : Binding) (row : List Val) (cols : List (List Val)) (k : Nat) : Nat → State
  | 0 => rowDoneBind s p l b
  | n + 1 =>
    let zero : Val := .fin false 0 0
    let r := wideStep s p l b (row.getD k zero) (cols.map fun c => c.getD k zero)
    if r.2.isEmpty then wideRun r.1 p l b row cols (k + 1) n
    else
      let s := r.1
      let x := s.lat p l
      let pl := s.plot p
      let s := s.setLat p l { x with work := x.work.map fun w => { w with k := k + 1 } }
      s.setPlot p { pl with apend := queueAssist pl r.2 }

/-- The wide row in progress of a lattice carried on. -/
def wideRow (s : State) (p l : Nat) (b : Binding) : State :=
  let x := s.lat p l
  match x.work with
  | none => s
  | some w =>
    let a := bFmt b.word
    let f := latFmt a
    let row := (rowElems a w.a []).map fun e => f.val e.2
    let cols := x.cols.map fun c => c.map fun e => f.val e.2
    wideRun s p l b row cols w.k (latK a - w.k)

/-- A channel of a lattice without its first `n` tokens. -/
def dropToks (s : State) (p k ep n : Nat) : State :=
  let x := s.plane p k
  s.setPlane p k (x.setEp ep ((x.epBuf ep).drop n))

/-- The row at the head of a lattice's channels fired (R194). -/
def fireRow (s : State) (p l k : Nat) (b : Binding) : State :=
  let pl := s.plane p k
  let a := bFmt b.word
  let toks := (pl.epBuf (128 + l)).take 12
  let scs := (pl.epBuf (132 + l)).take (scaleTokens a)
  let hor := (toks ++ scs).foldl (fun h t => joinHor h t.hor) (s.lat p l).hor
  let s := dropToks (dropToks s p k (128 + l) 12) p k (132 + l) (scaleTokens a)
  let w : RowWork := { a := toks.map Tok.value, scale := scs.map Tok.value, k := 0 }
  let x := s.lat p l
  let s := s.setLat p l { x with work := some w, rows := x.rows + 1, lastFire := some s.cycle, span := latS a, hor := hor }
  if isWide a then wideRow s p l b
  else if bSplit b.word then splitRow s p l b
  else rowDoneBind (addChunks s p (bTile b.word) b.rowAt (rowChunks (s.lat p l) a w)) p l b

/-- What stands at the head of a channel: nothing, tokens, an end-of-tile marker or a cut marker. -/
inductive ChanHead where
  | none
  | toks (n : Nat) (closed : Bool)
  | eot
  | cut
  deriving DecidableEq, Repr

/-- The head of a channel; `closed` says that a marker stands behind the tokens. -/
def chanHead (b : List Tok) : ChanHead :=
  match b with
  | [] => .none
  | t :: _ =>
    match t.k with
    | .eot => .eot
    | .cut _ => .cut
    | _ => .toks (ahead b).length (decide ((ahead b).length < b.length))

/-- What a lattice does with its channels at a row boundary. -/
inductive RowAct where
  | wait | fire | skew
  | eot (a sc : Bool)
  deriving DecidableEq, Repr

/-- Marker rules of R193, for a running binding of A format `fmt` or none; `scaled` says that a scale channel is
connected. Without a binding an end-of-tile marker is consumed once every connected channel holds one (log 50). -/
def rowAct (fmt : Option Nat) (scaled : Bool) (a sc : ChanHead) : RowAct :=
  let bfp := match fmt with | some f => isBfp f | none => false
  let need := match fmt with | some f => scaleTokens f | none => 0
  let full := match a with | .toks n _ => decide (12 ≤ n) | _ => false
  match a with
  | .toks n closed =>
    if n < 12 ∧ closed then .skew
    else if bfp then
      match sc with
      | .eot | .cut => if full then .skew else .wait
      | .toks m c => if m < need then (if c then .skew else .wait) else if full then .fire else .wait
      | .none => .wait
    else if full ∧ fmt.isSome then .fire else .wait
  | .eot =>
    if bfp then
      match sc with
      | .eot => .eot true true
      | .none => .wait
      | _ => .skew
    else if fmt.isSome ∨ !scaled then .eot true (sc == .eot)
    else if sc = .eot then .eot true true else .wait
  | .cut => if bfp then (match sc with | .toks _ _ | .eot => .skew | _ => .wait) else .wait
  | .none => if bfp then .wait else if fmt.isSome ∧ sc = .eot then .eot false true else .wait

/-- ROW_FIRE (R193, R194): once the row fired last has occupied the lattice its cycles, the next row of the running binding, an end-of-tile marker consumed, or a skewed marker's
fault (log 50). -/
def execRowFire (plot lat : Nat) (s : State) : Out :=
  let x := s.lat plot lat
  match s.latPlane plot lat with
  | none => .next s
  | some k =>
    let pl := s.plane plot k
    let act := rowAct (x.running.map fun b => bFmt b.word) (pl.connected (132 + lat)) (chanHead (pl.epBuf (128 + lat)))
      (chanHead (pl.epBuf (132 + lat)))
    if !s.latRuns plot lat ∨ x.work.isSome ∨ s.withheldNow plot then .next s
    else
      match act with
      | .wait => .next s
      | .skew => .next (latFault s plot lat fMarkerSkew 0)
      | .eot a sc =>
        let s := if a then dropToks s plot k (128 + lat) 1 else s
        .next (if sc then dropToks s plot k (132 + lat) 1 else s)
      | .fire =>
        match x.running with
        | none => .next s
        | some b =>
          let mate (c : CmdKind) : Bool := match c with | .mbind v => bSplit v && bSplit b.word && bLat v == mateLat lat | _ => false
          let rested : Bool := match x.lastFire with | some t => decide (t + x.span ≤ s.cycle) | none => true
          if rested && s.turnOf plot b.cmd (bTiles b.word) mate then .next (fireRow s plot lat k b) else .next s

/-! The assist (R201). -/

/-- The column presented to the assist context. -/
def Plot.presented (x : Plot) : Option AssistReq := if x.await then none else x.apend.head?

/-- The result of the presented column written to its element; the tile takes it as written, unless its claim has ended. -/
def assistResult (s : State) (p : Nat) (v : Word) : State :=
  let x := s.plot p
  match x.presented with
  | none => s
  | some r =>
    let s := if r.dead then s else s.setAcc p r.tile ((s.acc p r.tile).putElem r.row r.col v)
    s.setPlot p { s.plot p with acnt := x.acnt + 1, await := true }

/-- ASSISTRES_WRITE (R201). -/
def execAssistresWrite (plot : Nat) (v : Word) (s : State) : Out := .next (assistResult s plot v)

/-- After a completed column: its tile is released when no column of it is left, its lattice's row goes on when none of
its columns is left, and the next column is presented. -/
def assistNext (s : State) (p : Nat) : State :=
  let x := s.plot p
  match x.apend with
  | [] => s.setPlot p { x with await := false }
  | r :: rest =>
    let s := s.setPlot p { x with apend := rest, await := false }
    let s := if r.dead || rest.any (fun q => q.tile == r.tile && !q.dead) then s
      else s.setAcc p r.tile { s.acc p r.tile with assist := false }
    let s := if r.dead || rest.any (fun q => q.lat == r.lat && !q.dead) then s
      else match (s.lat p r.lat).running with | some b => wideRow s p r.lat b | none => s
    presentAssist s p

/-- ASSIST_RESUME (R201): the next queued column is presented, or the tile resumes. -/
def execAssistResume (plot : Nat) (s : State) : Out :=
  .next (if (s.plot plot).await then assistNext s plot else presentAssist s plot)

end Sys2Proof.Machine
end

