-- ==== Sys2Proof/Machine/Gates.lean ====
section
/-! DEFINITION. Gates (R220-R222): evaluation, GINIT, GARR, GEXP, GWAIT, and transaction completions. -/

namespace Sys2Proof.Machine

/-- The plot and gate of a selector; its res0 bits are checked apart (R220). -/
def gatePlot (sel : Word) : Nat := bitsAt sel.toNat 5 10
def gateNum (sel : Word) : Nat := bitsAt sel.toNat 0 5

/-- Whether a selector's res0 bits are zero. -/
def gateSelOk (sel : Word) : Bool := decide (sel.toNat < 2 ^ 15)

/-- Whether a tenant holds the plot of a selector. -/
def State.gateHeld (s : State) (sel : Word) (v : Nat) : Bool := s.plotOwner (gatePlot sel) == some v

/-- The gate of a selector. -/
def State.gateOf (s : State) (sel : Word) : Gate := s.gate (gatePlot sel) (gateNum sel)

/-- A signal held until the next cut of a launch's region completes (R334). -/
def holdSignal (s : State) (r : Nat) (h : HeldSig) : State :=
  let c := s.cutsOf r
  if c.held.contains h then s else s.setCuts r { c with held := c.held ++ [h] }

/-- Whether both counts of a phase have run out. -/
def Gate.spent (x : Gate) : Bool := x.arrinit != 0 && x.arr == 0 && x.txn == 0

/-- Whether a gate's phase is completing: the merge of its arrivers' buffers is under way, and no other operation on the gate
takes effect before it (R221). -/
def Gate.due (x : Gate) : Bool := x.spent && x.deferBy.isEmpty

/-- Every GWAIT that waits on a gate for another phase than `n` is released (R221): whatever comes after, it returns OK. -/
def releaseGwaits (s : State) (p g n : Nat) : State :=
  markWaits s fun c i => match i with
    | .gwait _ rs1 rs2 => gateSelOk (c.get rs1) && gatePlot (c.get rs1) == p && gateNum (c.get rs1) == g && (c.get rs2).toNat != n
    | _ => false

/-- A phase advances (R221). -/
def gateTurn (s : State) (p g : Nat) : State :=
  let x := s.gate p g
  releaseGwaits (s.setGate p g { x with phase := x.phase + 1, arr := x.arrinit, overrun := false, arrivers := [] }) p g (x.phase + 1).toNat

/-- The gate's evaluation (R221): a phase whose both counts have run out completes once its arrivers' buffers are merged,
unless R334 holds the advance for a launch's next cut. -/
def gateEval (s : State) (p g : Nat) : State :=
  let x := s.gate p g
  if !x.spent then s
  else
    match x.deferBy with
    | i :: _ => holdSignal s i (.phase (p * 32 + g))
    | [] =>
      match mergePoint s x.arrivers with
      | (true, s) => gateTurn s p g
      | (false, s) => s

/-- The launches that defer a gate's phase, with one whose rollback flag is set (R334). -/
def deferOf (s : State) (x : Gate) (lnch : Nat) : List Nat :=
  if s.isRollback (some lnch) && !x.deferBy.contains lnch then x.deferBy ++ [lnch] else x.deferBy

/-- The bounds of TXN (R220). -/
def txnMin : Int := -8388608
def txnMax : Int := 8388607

/-- A transaction completion of a launch (R221, R227): TXN decreased and the gate evaluated; none while it would fall
below its minimum, its plot is not resident (R379) or a phase is completing; discarded when the gate is uninitialised or not held. -/
def gateDone (s : State) (sel : Word) (v lnch : Nat) : Option State :=
  let p := gatePlot sel
  let g := gateNum sel
  let x := s.gate p g
  if !s.gateHeld sel v ∨ x.arrinit = 0 then some s
  else if x.txn = txnMin ∨ !(s.plot p).resident ∨ x.due then none
  else some (gateEval (s.setGate p g { x with txn := x.txn - 1, deferBy := deferOf s x lnch }) p g)

/-- GINIT (R234): a GWAIT that waits for another phase than 0 is released. -/
def execGinit (rd rs1 rs2 : Reg) (s : State) : Out :=
  let sel := s.g rs1
  let n := (s.g rs2).toNat
  onThread s rd <|
    if !gateSelOk sel ∨ 2 ^ 16 ≤ n ∨ n = 0 then status s rd stBADARG
    else if !s.gateHeld sel s.curTenant then status s rd stDENIED
    else if !(s.plot (gatePlot sel)).resident ∨ (s.gateOf sel).due then .next s
    else
      let p := gatePlot sel
      let g := gateNum sel
      status (releaseGwaits (s.setGate p g { arrinit := n, arr := n }) p g 0) rd stOK

/-- What GARR, GEXP and GWAIT check of their gate, in order; an access to a plot that is not resident waits (R379), as does
one to a gate whose phase is completing (R221). -/
def gateCheck (s : State) (rd : Reg) (sel : Word) (bad : Bool) (go : Out) : Out :=
  if !gateSelOk sel || bad then status s rd stBADARG
  else if !s.gateHeld sel s.curTenant ∨ (s.gateOf sel).arrinit = 0 then status s rd stDENIED
  else if !(s.plot (gatePlot sel)).resident ∨ (s.gateOf sel).due then .next s
  else go

/-- GARR (R235). -/
def execGarr (rd rs1 : Reg) (s : State) : Out :=
  let sel := s.g rs1
  onThread s rd <| gateCheck s rd sel false <|
    acceptCmd s rd (.garr sel.toNat) id

/-- An arrival of a thread at a gate (R235) (log 31). -/
def gateArrive (s : State) (p g tid lnch : Nat) : State :=
  let x := s.gate p g
  if x.arrinit = 0 then s
  else if x.arr = 0 then s.setGate p g { x with overrun := true }
  else
    let who := if x.arrivers.contains tid then x.arrivers else x.arrivers ++ [tid]
    gateEval (s.setGate p g { x with arr := x.arr - 1, arrivers := who, deferBy := deferOf s x lnch }) p g

/-- GARR_START (R235): the thread's earlier accesses are performed, then it arrives. -/
def execGarrStart (tid : Nat) (s : State) : Out :=
  let go (k : CmdKind) : Bool := match k with
    | .garr sel => (s.plot (bitsAt sel 5 10)).resident && !(s.gate (bitsAt sel 5 10) (bitsAt sel 0 5)).due
    | _ => false
  match popCmd s tid true go with
  | some (c, s') =>
    match c.k with
    | .garr sel => .next (gateArrive (releaseThread s' c.tid) (bitsAt sel 5 10) (bitsAt sel 0 5) c.tid c.lnch)
    | _ => .next s
  | none => .next s

/-- The field a GEXP adds to, raised; none when it would leave its range (R236). -/
def Gate.expect (x : Gate) (arr : Bool) (n : Nat) : Option Gate :=
  if arr then (if 65535 < x.arr + n then none else some { x with arr := x.arr + n })
  else if txnMax < x.txn + n then none else some { x with txn := x.txn + n }

/-- GEXP (R236). -/
def execGexp (rd rs1 rs2 : Reg) (arr : Bool) (s : State) : Out :=
  let sel := s.g rs1
  let n := (s.g rs2).toNat
  let p := gatePlot sel
  let g := gateNum sel
  onThread s rd <| gateCheck s rd sel (decide ((if arr then 65535 else 8388607) < n)) <|
    match (s.gate p g).expect arr n with
    | none =>
      if (s.plot s.curPlot).occupied true < classSize true then
        .next (trapHere s cExpect 0 (missInfo (.gexp rd rs1 rs2 arr)))
      else acceptCmd s rd (.gexp sel.toNat) id
    | some x => acceptCmd s rd (.gexp sel.toNat) fun s => gateEval (s.setGate p g x) p g

/-- GWAIT (R237); one that an advance has released is marked (R221). -/
def execGwait (rd rs1 rs2 : Reg) (s : State) : Out :=
  let i : Instr := .gwait rd rs1 rs2
  let sel := s.g rs1
  let n := (s.g rs2).toNat
  onThread s rd <| if markOf s i = some 1 then status (acquire s) rd stOK else gateCheck s rd sel (decide (2 ^ 32 ≤ n)) <|
    if (s.gateOf sel).phase.toNat ≠ n then status (acquire s) rd stOK else waitIn s i 0

end Sys2Proof.Machine
end

