-- ==== Sys2Proof/Machine/Rings.lean ====
section
/-! DEFINITION. Rings (R216, R219, R230-R233) and copy channels (R223-R227, R238-R240). -/

namespace Sys2Proof.Machine

/-! Rings. -/

/-- A ring that is ACTIVE and held by a tenant: the one that holds its plane (R216). -/
def State.ringHeld (s : State) (p r v : Nat) : Bool :=
  (s.ring p r).active && s.planeOwner p (s.ring p r).plane == some v

/-- Whether a producer of a ring is still at work: a port of PMASK that holds a stream, or a channel's record. -/
def ringBusy (s : State) (p r : Nat) : Bool :=
  let g := s.ring p r
  (List.range 16).any (fun n => bitAt g.pmask n && (s.port p n).plane == g.plane && (s.port p n).holds) ||
  s.chans.any fun e => e.2.writes p r

/-- Bits set in a mask of 16. -/
def popcount16 (m : Nat) : Nat := ((List.range 16).filter fun i => bitAt m i).length

/-- RINIT (R230). -/
def execRinit (rd rs1 rs2 : Reg) (s : State) : Out :=
  let w := (s.g rs1).toNat
  let mask := (s.g rs2).toNat
  let r := bitsAt w 0 4
  let k := bitsAt w 4 2
  let h0 := bitsAt w 8 8
  let ns := bitsAt w 16 5 + 1
  let fan := bitsAt w 21 4 + 1
  let p := s.curPlot
  let v := s.curTenant
  let slots := (List.range ns).map fun i => h0 + i
  onThread s rd <|
    if 2 ^ 25 ≤ w ∨ bitAt w 7 ∨ 2 ^ 16 ≤ mask then status s rd stBADARG
    else if s.planeOwner p k ≠ some v ∨ (s.plane p k).st ≠ .configured then status s rd stDENIED
    else if bitAt w 6 then
      if !s.ringHeld p r v then status s rd stBADARG
      else if ringBusy s p r then status s rd stBUSY
      else status { s with rings := Tbl.del s.rings (p * 16 + r) } rd stOK
    else if (s.ring p r).active then status s rd stBUSY
    else if 255 < h0 + ns - 1 ∨ fan < popcount16 mask ∨ mask &&& (s.plane p k).portmask ≠ mask then status s rd stBADARG
    else if slots.any fun h => (s.tile p h).st == .free then status s rd stBADARG
    else if slots.any fun h => (s.tile p h).st != .empty || s.referenced p h then status s rd stBUSY
    else status (s.setRing p r { active := true, plane := k, h0 := h0, ns := ns, fan := fan, pmask := mask }) rd stOK

/-- RAWAIT (R231). -/
def execRawait (rd rs1 rs2 : Reg) (s : State) : Out :=
  let i : Instr := .rawait rd rs1 rs2
  let w := (s.g rs1).toNat
  let p := s.curPlot
  let r := bitsAt w 0 4
  let j := bitsAt w 4 5
  let g := s.ring p r
  onThread s rd <|
    if 2 ^ 9 ≤ w then status s rd stBADARG
    else if !s.ringHeld p r s.curTenant then status s rd stDENIED
    else if g.ns ≤ j then status s rd stBADARG
    else if j < g.filled then status (acquire s) rd stOK
    else if expired s i (s.g rs2) then status s rd stBUSY
    else waitIn s i 0

/-- RRELs of a ring accepted and not yet started. -/
def State.rrelsOf (s : State) (p r : Nat) : Nat :=
  ((s.plot p).cmds.filter fun c => match c.k with | .rrel r' => r' == r | _ => false).length

/-- RREL (R232). -/
def execRrel (rd rs1 : Reg) (s : State) : Out :=
  let w := (s.g rs1).toNat
  let p := s.curPlot
  let r := bitsAt w 0 4
  onThread s rd <|
    if 16 ≤ w then status s rd stBADARG
    else if !s.ringHeld p r s.curTenant then status s rd stDENIED
    else if (s.ring p r).filled ≤ s.rrelsOf p r then status s rd stBADARG
    else acceptCmd s rd (.rrel r) id

/-- Slot RIDX released (R232); a ring that has left ACTIVE, or holds no filled slot any more, is left alone. -/
def ringRelease (s : State) (p r : Nat) : State :=
  let g := s.ring p r
  if g.active ∧ 0 < g.filled then
    let h := g.h0 + g.rc % g.ns
    (s.setTile p h { s.tile p h with st := .empty }).setRing p r { g with rc := g.rc + 1, filled := g.filled - 1 }
  else s

/-- RREL_START (R232): a release of the thread's earlier accesses. -/
def execRrelStart (tid : Nat) (s : State) : Out :=
  match popCmd s tid true fun k => match k with | .rrel _ => true | _ => false with
  | some (c, s) =>
    match c.k with
    | .rrel r => .next (ringRelease (releaseThread s c.tid) (tid / 8) r)
    | _ => .next s
  | none => .next s

/-- The state word of a ring (R233). -/
def ringWord (s : State) (p r v : Nat) : Word :=
  let g := s.ring p r
  if s.ringHeld p r v then
    BitVec.ofNat 64 (1 + g.plane * 4 + g.h0 * 2 ^ 4 + (g.ns - 1) * 2 ^ 12 + g.rc % g.ns * 2 ^ 17 + g.filled * 2 ^ 22 +
      (g.fan - 1) * 2 ^ 28 + g.pmask * 2 ^ 32 + g.marks.length * 2 ^ 48)
  else 0

/-- RPEEK (R233). -/
def execRpeek (rd rs1 : Reg) (s : State) : Out :=
  let w := (s.g rs1).toNat
  finish s rd (if !s.isThread ∨ 16 ≤ w then noState else ringWord s s.curPlot w s.curTenant) 4

/-! Transfer records (R224, R225). -/

/-- A transfer record. -/
structure Rec where
  next  : Nat
  own   : Bool
  dkind : Nat
  stile : Bool
  mark  : Bool
  gdone : Bool
  scope : Nat
  conv  : Nat
  rowb  : Nat
  src   : Nat
  dst   : Nat
  rows  : Nat
  sstr  : Int
  dstr  : Int
  ring  : Nat
  rplot : Nat
  gate  : Nat
  deriving DecidableEq, Repr

/-- The fields of a record (Table 10.1). -/
def recOf (b : List Byte) : Rec :=
  let c := fieldAt b 8 4
  let r := fieldAt b 0x38 4
  { next := fieldAt b 0 8, own := bitAt c 0, dkind := bitsAt c 1 2, stile := bitAt c 3, mark := bitAt c 4,
    gdone := bitAt c 5, scope := bitsAt c 6 3, conv := bitsAt c 9 3, rowb := fieldAt b 0x0C 4, src := fieldAt b 0x10 8,
    dst := fieldAt b 0x18 8, rows := fieldAt b 0x20 4, sstr := signedOf 64 (fieldAt b 0x28 8),
    dstr := signedOf 64 (fieldAt b 0x30 8), ring := bitsAt r 0 4, rplot := bitsAt r 4 10,
    gate := bitsAt (fieldAt b 0x3C 4) 0 15 }

/-- Whether every res0 bit of a record is zero. -/
def recZeros (b : List Byte) : Bool :=
  let x := recOf b
  bitsAt (fieldAt b 8 4) 12 20 == 0 && fieldAt b 0x24 4 == 0 && bitsAt (fieldAt b 0x38 4) 14 18 == 0 &&
  bitsAt (fieldAt b 0x3C 4) 15 17 == 0 &&
  (if x.stile then decide (x.src < 2 ^ 50) else decide (x.src < 2 ^ 56)) &&
  (match x.dkind with
   | 0 => decide (x.dst < 2 ^ 56)
   | 1 => decide (x.dst < 2 ^ 50)
   | _ => decide (x.dst < 2 ^ 40) && x.dst % 256 == 0)

/-- Bytes of a destination row (R224). -/
def Rec.dstRow (x : Rec) : Nat :=
  match x.conv with
  | 1 | 2 => x.rowb / 2
  | 3 => x.rowb / 4
  | 4 | 5 => x.rowb * 2
  | _ => x.rowb

/-- Whether fields lie in their ranges. -/
def Rec.ranges (x : Rec) : Bool :=
  x.next % 64 == 0 && x.dkind != 3 && decide (x.scope ≤ 4) && decide (x.conv ≤ 5) && decide (8 ≤ x.rowb) &&
  decide (x.rowb ≤ 65536) && x.rowb % 8 == 0 && decide (1 ≤ x.rows) && decide (x.rows ≤ 65536) && x.sstr % 8 == 0 &&
  x.dstr % 8 == 0 && x.dstRow % 8 == 0 && (!x.mark || x.dkind == 2)

/-- Whether rows of `n` bytes, `stride` apart, lie within a tile from an offset on. -/
def rowsFit (t : Tile) (off rows : Nat) (stride : Int) (n : Nat) : Bool :=
  let last := (off : Int) + ((rows : Int) - 1) * stride
  !t.outside off n && !t.outside last n

/-- Whether a tile that a record names in bits [7:0], [39:8] and [49:40] of a word is held, not FREE and long enough. -/
def recTileOk (s : State) (v w rows : Nat) (stride : Int) (n : Nat) : Bool :=
  let p := bitsAt w 40 10
  let t := s.tile p (w % 256)
  s.plotOwner p == some v && t.st != .free && rowsFit t (bitsAt w 8 32) rows stride n

/-- The handle of a channel's slot in a ring (R217). -/
def chanSlot (s : State) (p r c : Nat) : Nat :=
  let g := s.ring p r
  g.h0 + max (g.indexOf (.chan c)) g.w % g.ns

/-- Whether a record is valid for channel `c` of tenant `v` (R225). -/
def recValid (s : State) (c v : Nat) (b : List Byte) : Bool :=
  let x := recOf b
  recZeros b && x.ranges && (!x.stile || recTileOk s v x.src x.rows x.sstr x.rowb) &&
  (x.dkind != 1 || recTileOk s v x.dst x.rows x.dstr x.dstRow) &&
  (x.dkind != 2 || (s.ringHeld x.rplot x.ring v &&
    rowsFit (s.tile x.rplot (chanSlot s x.rplot x.ring c)) (bitsAt x.dst 8 32) x.rows x.dstr x.dstRow)) &&
  (!x.gdone || s.gateHeld (BitVec.ofNat 64 x.gate) v)

/-! Channels. -/

/-- A channel's tenant. -/
def Chan.tenant (x : Chan) : Nat := if x.scrubbing then 64 else x.owner.getD 64

/-- Whether a tenant holds a channel. -/
def State.chanHeld (s : State) (c v : Nat) : Bool := decide (c < 256) && (s.chan c).tenant == v && decide (v < 64)

/-- Whether a channel's launch is halted by DBGCTL (R347). -/
def State.chanHalted (s : State) (c : Nat) : Bool := (s.slot (s.chan c).lnch).halted

/-- A channel's record given up: a tile it was filling is EMPTY (Table 7.1, log 57), it holds no translation and awaits nothing
(R253). -/
def dropRecord (s : State) (c : Nat) : State :=
  let x := s.chan c
  let s := withdraw (endXlats s (.chan c)) (.chan c)
  let s := s.setChan c { x with recRun := false, waitSlot := false, held := false, marked := false, counted := false,
                                lost := false, stalled := false }
  let d := fieldAt x.record 0x18 8
  if x.recRun && bitsAt (fieldAt x.record 8 4) 1 2 == 1 then tileFailed s (bitsAt d 40 10) (d % 256) else s

/-- A channel FAULTED, with its fault recorded (R225, R227). -/
def chanFault (s : State) (c cause : Nat) (einfo faddr : Word) (invalid : Bool) : State :=
  let s := dropRecord s c
  let x := s.chan c
  faultRecord (s.setChan c { x with st := 3, invalid := invalid }) x.tenant cause 4 (if x.lnch < 16384 then x.lnch else 0xFFFF) c einfo faddr

/-- BAD_RECORD (R225). -/
def badRecord (s : State) (c : Nat) : State := chanFault s c cFabric (BitVec.ofNat 64 fBadRecord) (s.chan c).cur true

/-- What an access of a channel that did not succeed does: a wait, a stall where it is for a translation, or a fault. -/
def chanStop (s : State) (c cause : Nat) (r : XRes) (va : Word) : State :=
  let asid := (s.chan c).asid
  match r with
  | .wait => s.setChan c { s.chan c with stalled := s.waitsPage (.chan c) }
  | .fatal rs lvl => chanFault s c cause (xlatInfo asid rs lvl) va false
  | .lost _ => chanFault s c cause (xlatInfo asid .undelivered 0) va false
  | .uncorr a => let e := uncorrRecord a; chanFault s c e.1 e.2 va false
  | .ok _ => s

/-- What the slot that a channel's record writes is to it now (R217): writable, not writable, or nothing that the record can be
written to, because it is too short or its ring left ACTIVE while the channel waited (R225). -/
inductive SlotRes where
  | open_ (s : State)
  | shut (s : State)
  | short (s : State)
  deriving Repr

/-- A channel producer before a store or a marker: overtaken by others, it takes the ring's count; the slot's handle is kept.
One that has lost its ring keeps the slot it had (R226), unless it was waiting for it: its record is invalid (R225). -/
def chanSync (s : State) (c : Nat) (x : Rec) : SlotRes :=
  let ch := s.chan c
  if ch.lost ∨ !s.ringHeld x.rplot x.ring ch.tenant then (if ch.waitSlot then .short s else .open_ s)
  else
    let g := s.ring x.rplot x.ring
    let s := if g.indexOf (.chan c) < g.w then s.setRing x.rplot x.ring (g.setIndex (.chan c) g.w) else s
    if !ringOpen s x.rplot x.ring (.chan c) then .shut s
    else if !rowsFit (s.tile x.rplot g.slotHandle) (bitsAt x.dst 8 32) x.rows x.dstr x.dstRow then .short s
    else .open_ (s.setChan c { ch with slot := g.slotHandle })

/-- A record begins, for a ring once the channel's slot is writable (R217, R268); a ring that leaves ACTIVE meanwhile makes the
record invalid (R225). -/
def recBegin (s : State) (c : Nat) : State :=
  let x := recOf (s.chan c).record
  let go (s : State) : State := s.setChan c { s.chan c with recRun := true, waitSlot := false, pos := 0, stalled := false }
  if x.dkind ≠ 2 then go s
  else if (s.chan c).lost ∨ !s.ringHeld x.rplot x.ring (s.chan c).tenant then badRecord s c
  else
    match chanSync s c x with
    | .open_ s => go s
    | .shut s => s.setChan c { s.chan c with waitSlot := true, stalled := false }
    | .short s => badRecord s c

/-- CHANNEL_RECORD_START (R227): the record at the channel's address is read and checked, and begun. -/
def execChannelRecordStart (chan : Nat) (s : State) : Out :=
  let ch := s.chan chan
  if ch.st ≠ 1 ∨ ch.recRun ∨ ch.stopping ∨ s.chanHalted chan then .next s
  else if ch.waitSlot then .next (recBegin s chan)
  else
    match unitRead s (.chan chan) ch.tenant ch.asid (segsOf ch.cur 64) with
    | ((.ok _, _, b), s) =>
      let ch := { s.chan chan with record := b, stalled := false, lost := false }
      let s := s.setChan chan ch
      if !(recOf b).own then .next (s.setChan chan { ch with st := 0, unowned := true })
      else if !recValid s chan ch.tenant b then .next (badRecord s chan)
      else .next (recBegin s chan)
    | ((r, va, _), s) => .next (chanStop s chan cLoad r va)

/-- Bytes cut into elements of `n` bytes, as numbers. -/
def elemsOf (n : Nat) : List Byte → Nat → List Nat
  | _, 0 => []
  | bs, m + 1 => leNat (bs.take n) :: elemsOf n (bs.drop n) m

/-- A row's bytes converted element by element, with RNE and E4NAN = 0 (Table 10.1). -/
def convRow (conv : Nat) (bs : List Byte) : List Byte :=
  let go (F : FFmt) (m : Nat) (G : FFmt) (n : Nat) : List Byte :=
    (elemsOf m bs (bs.length / m)).flatMap fun b => leBytes n (G.round .rne false (F.val b))
  match conv with
  | 1 => go fp32 4 bf16 2
  | 2 => go fp32 4 fp16 2
  | 3 => go fp32 4 fpE4M3 1
  | 4 => go bf16 2 fp32 4
  | 5 => go fp16 2 fp32 4
  | _ => bs

/-- The virtual address of row `i` of a record's memory side. -/
def rowVa (base : Nat) (stride : Int) (i : Nat) : Word := BitVec.ofInt 64 ((base : Int) + (i : Int) * stride)

/-- The tile offset of row `i` of a record's tile side. -/
def rowOff (off : Nat) (stride : Int) (i : Nat) : Int := (off : Int) + (i : Int) * stride

/-- What copying rows answers: done, waiting, or stopped by an access. -/
inductive CopyRes where
  | done (s : State)
  | wait (s : State)
  | stop (cause : Nat) (r : XRes) (va : Word) (s : State)
  | bad (s : State)
  deriving Repr

/-- Source bytes copied together: the beat or beats that make one or more whole destination beats. -/
def Rec.step (x : Rec) : Nat := max 8 (8 * x.rowb / max 1 x.dstRow)

/-- Destination bytes that they make. -/
def Rec.dstStep (x : Rec) : Nat := x.step * x.dstRow / max 1 x.rowb

/-- Pieces of a row, and of a record. -/
def Rec.perRow (x : Rec) : Nat := max 1 (x.rowb / x.step)
def Rec.pieces (x : Rec) : Nat := x.rows * x.perRow

/-- Piece `n` of a record's source (R226). -/
def readPiece (s : State) (c : Nat) (x : Rec) (n : Nat) : Except CopyRes (List Byte × State) :=
  let i := n / x.perRow
  let o := n % x.perRow * x.step
  if x.stile then
    match tileRead s (bitsAt x.src 40 10) (x.src % 256) (rowOff (bitsAt x.src 8 32) x.sstr i + (o : Int)) x.step with
    | .ok bs => .ok (bs, s)
    | .stall => .error (.wait s)
    | .fatal => .error (.bad s)
  else
    match unitLoad s (.chan c) 0 (s.chan c).tenant (s.chan c).asid
        (segsOf (rowVa x.src x.sstr i + BitVec.ofNat 64 o) x.step) [] with
    | ((.ok _, _, bs), s) => .ok (bs, endReach s (.chan c))
    | ((r, va, _), s) => .error (.stop cLoad r va s)

/-- Bytes stored at a virtual address by a channel, in pieces that no page boundary cuts. -/
def storePieces (s : State) (c lnch : Nat) : List (Word × List Byte) → Except CopyRes State
  | [] => .ok s
  | (va, bs) :: rest =>
    match unitStore s (.chan c) (s.chan c).tenant (s.chan c).asid (if lnch < 16384 then some lnch else none) va bs with
    | ((.ok _, _), s) => storePieces s c lnch rest
    | ((r, _), s) => .error (.stop cStore r va s)

/-- The pieces of the beats of a row. -/
def piecesOf (va : Word) (bs : List Byte) : List (Word × List Byte) :=
  ((beatsOf bs (bs.length / 8)).zipIdx).flatMap fun e =>
    let a := va + BitVec.ofNat 64 (8 * e.2)
    ((segsOf a 8).foldl (fun (acc : List (Word × List Byte) × List Byte) g =>
      (acc.1 ++ [(g.1, acc.2.take g.2)], acc.2.drop g.2)) ([], e.1)).1

/-- Piece `n` of a record's destination written (R226). -/
def writePiece (s : State) (c : Nat) (x : Rec) (n : Nat) (bs : List Byte) : Except CopyRes State :=
  let i := n / x.perRow
  let o := n % x.perRow * x.dstStep
  let tile (p h : Nat) : Except CopyRes State :=
    match tileWrite s p h (rowOff (bitsAt x.dst 8 32) x.dstr i + (o : Int)) bs with
    | .ok s => .ok s
    | .stall => .error (.wait s)
    | .fatal => .error (.bad s)
  match x.dkind with
  | 0 => storePieces s c (s.chan c).lnch (piecesOf (rowVa x.dst x.dstr i + BitVec.ofNat 64 o) bs)
  | 1 => tile (bitsAt x.dst 40 10) (x.dst % 256)
  | _ => tile x.rplot (s.chan c).slot

/-- Whether a page that piece `n` stores to is still to be translated: the piece is not read before. -/
def pieceWaits (s : State) (c : Nat) (x : Rec) (n : Nat) : Bool × State :=
  let ch := s.chan c
  if x.dkind = 0 then
    pagesWait s (.chan c) ch.tenant ch.asid .write
      (segsOf (rowVa x.dst x.dstr (n / x.perRow) + BitVec.ofNat 64 (n % x.perRow * x.dstStep)) x.dstStep)
  else (false, s)

/-- The next piece of a record copied, for a ring into the slot that is the channel's then (R217). -/
def copyPiece (s : State) (c : Nat) (x : Rec) : CopyRes :=
  let n := (s.chan c).pos
  let go (s : State) : CopyRes :=
    match pieceWaits s c x n with
    | (true, s) => .stop cStore .wait 0 s
    | (false, s) =>
      match readPiece s c x n with
      | .error r => r
      | .ok (bs, s) =>
        match writePiece s c x n (convRow x.conv bs) with
        | .error r => r
        | .ok s => .done (s.setChan c { s.chan c with pos := n + 1, stalled := false })
  if x.dkind ≠ 2 then go s
  else
    match chanSync s c x with
    | .open_ s => go (s.setChan c { s.chan c with waitSlot := false })
    | .shut s => .wait (s.setChan c { s.chan c with waitSlot := true })
    | .short s => .bad s

/-- Up to `n` pieces copied (log 57). -/
def copyPieces (s : State) (c : Nat) (x : Rec) : Nat → CopyRes
  | 0 => .done s
  | n + 1 =>
    match copyPiece s c x with
    | .done s => copyPieces s c x n
    | r => r

/-- The next record of a chain after one has completed: NEXT is read then; 0 ends the chain (R227). -/
def chanNext (s : State) (c : Nat) : State :=
  let ch := s.chan c
  match unitRead s (.chan c) ch.tenant ch.asid [(ch.cur, 8)] with
  | ((.ok _, _, b), s) =>
    let ch := { s.chan c with recRun := false, waitSlot := false, held := false, marked := false, counted := false, lost := false, stalled := false }
    if leNat b = 0 then endXlats (s.setChan c { ch with st := 0 }) (.chan c) else s.setChan c { ch with cur := leWord b }
  | ((r, va, _), s) => chanStop s c cLoad r va

/-- The gate decrement of a record, then the next record; while the gate holds it back the channel waits. -/
def recGate (s : State) (c : Nat) : State :=
  let ch := s.chan c
  let x := recOf ch.record
  if x.gdone ∧ !ch.counted then
    match gateDone s (BitVec.ofNat 64 x.gate) ch.tenant ch.lnch with
    | some s => chanNext (s.setChan c { s.chan c with counted := true }) c
    | none => s.setChan c { ch with stalled := false }
  else chanNext s c

/-- The marker of a record, for the slot that is the channel's then (R217); none for a ring that it has lost. -/
def recMark (s : State) (c : Nat) : State :=
  let ch := s.chan c
  let x := recOf ch.record
  if !x.mark ∨ ch.marked ∨ ch.lost ∨ !s.ringHeld x.rplot x.ring ch.tenant then recGate s c
  else
    match chanSync s c x with
    | .shut s => s.setChan c { s.chan c with stalled := false }
    | .open_ s | .short s =>
      let s := ringMark s x.rplot x.ring (.chan c)
      recGate (s.setChan c { s.chan c with marked := true }) c

/-- OWN cleared, the marker delivered, the gate decremented, in that order (R227). -/
def recComplete (s : State) (c : Nat) : State :=
  let ch := s.chan c
  let x := recOf ch.record
  if ch.held then recMark s c
  else
    let s := drainParty s (.chan c)
    let ctl := leBytes 4 (fieldAt ch.record 8 4 - 1)
    match storePieces s c ch.lnch [(ch.cur + 8, ctl)] with
    | .error (.stop cause r va s) => chanStop s c cause r va
    | .error _ => s
    | .ok s =>
      let s := drainParty s (.chan c)
      let s := if x.dkind = 1 then tileFilled s (bitsAt x.dst 40 10) (x.dst % 256) else s
      recMark (s.setChan c { s.chan c with held := true, stalled := false }) c

/-- Whether every plot whose tiles, ring or gate a record touches is resident (R379). -/
def recResident (s : State) (x : Rec) : Bool :=
  (!x.stile || (s.plot (bitsAt x.src 40 10)).resident) && (x.dkind != 1 || (s.plot (bitsAt x.dst 40 10)).resident) &&
  (x.dkind != 2 || (s.plot x.rplot).resident) && (!x.gdone || (s.plot (gatePlot (BitVec.ofNat 64 x.gate))).resident)

/-- CHANNEL_RECORD_COMPLETE (R226, R227): further pieces of the record are copied, how many is left open; once all are and its
stores are performed the record completes (log 57). -/
def execChannelRecordComplete (chan : Nat) (s : State) : Out :=
  let ch := s.chan chan
  let x := recOf ch.record
  if ch.st ≠ 1 ∨ !ch.recRun ∨ ch.stopping ∨ s.chanHalted chan ∨ !recResident s x then .next s
  else
    let left := x.pieces - ch.pos
    let n := if left = 0 then 0 else 1 + (Config.freeWord s.free).toNat % left
    match copyPieces { s with free := s.free + 1 } chan x n with
    | .done s => .next (if (s.chan chan).pos < x.pieces then s else recComplete s chan)
    | .wait s => .next (s.setChan chan { s.chan chan with stalled := false })
    | .stop cause .wait va s => .next (chanStop s chan cause .wait va)
    | .stop cause r va s => .next (chanStop (drainParty s (.chan chan)) chan cause r va)
    | .bad s => .next (badRecord (drainParty s (.chan chan)) chan)

/-! COPY (R238-R240). -/

/-- Whether a CKICK of a channel is accepted and not yet started. -/
def State.kickQueued (s : State) (c : Nat) : Bool :=
  s.plots.any fun e => e.2.cmds.any fun d => match d.k with | .ckick c' _ => c' == c | _ => false

/-- CKICK (R238). -/
def execCkick (rd rs1 rs2 : Reg) (s : State) : Out :=
  let c := (s.g rs1).toNat
  let head := s.g rs2
  onThread s rd <|
    if 256 ≤ c ∨ head.toNat % 64 ≠ 0 ∨ 2 ^ 56 ≤ head.toNat then status s rd stBADARG
    else if !s.chanHeld c s.curTenant then status s rd stDENIED
    else if (s.chan c).st ≠ 0 ∨ s.kickQueued c then status s rd stBUSY
    else acceptCmd s rd (.ckick c head) id

/-- A channel RUNNING from the head of a chain; with no record it is IDLE at once (R238). -/
def chanStart (s : State) (c : Nat) (head : Word) (d : Cmd) : State :=
  let x := s.chan c
  if x.tenant ≠ d.tenant then s
  else
    s.setChan c { owner := x.owner, scrubbing := x.scrubbing, st := if head = 0 then 0 else 1,
                  cur := if head = 0 then x.cur else head, asid := d.asid, tid := d.tid % 8192, lnch := d.lnch }

/-- CKICK_START (R238): a release toward every access of the chain. -/
def execCkickStart (tid : Nat) (s : State) : Out :=
  match popCmd s tid false fun k => match k with | .ckick _ _ => true | _ => false with
  | some (d, s) =>
    match d.k with
    | .ckick c head => .next (chanStart (releaseThread s d.tid) c head d)
    | _ => .next s
  | none => .next s

/-- The state word of a channel (R239). -/
def chanWord (x : Chan) : Word :=
  BitVec.ofNat 64 (x.st + (if x.stalled then 4 else 0) + (if x.unowned then 8 else 0) + (if x.invalid then 16 else 0) +
    bitsAt x.cur.toNat 6 50 * 64)

/-- CSTAT (R239). -/
def execCstat (rd rs1 : Reg) (s : State) : Out :=
  let c := (s.g rs1).toNat
  finish s rd (if !s.isThread ∨ !s.chanHeld c s.curTenant then noState else chanWord (s.chan c)) 4

/-- A channel stopped: the record in progress is abandoned, its issued stores stand (R240). -/
def chanHalt (s : State) (c : Nat) : State :=
  let s := dropRecord s c
  s.setChan c { s.chan c with stopping := true }

/-- A stopped channel IDLE. -/
def chanIdle (s : State) (c : Nat) : State := s.setChan c { s.chan c with st := 0, invalid := false, stopping := false }

/-- Whether a store that a channel issued has still to be performed. -/
def State.chanPend (s : State) (c : Nat) : Bool := s.pend.any fun p => p.party == .chan c

/-- CSTOP (R240); one that waits returns once the channel it stopped is IDLE. -/
def execCstop (rd rs1 : Reg) (s : State) : Out :=
  let i : Instr := .cstop rd rs1
  let c := (s.g rs1).toNat
  onThread s rd <|
    if 256 ≤ c then status s rd stBADARG
    else if !s.chanHeld c s.curTenant then status s rd stDENIED
    else
      if (markOf s i).isSome ∧ !(s.chan c).stopping then status (acquire s) rd stOK
      else
        let s := if (markOf s i).isSome then s else chanHalt s c
        if s.chanPend c then waitIn s i 0 else status (acquire (chanIdle s c)) rd stOK

/-- CSTOP_DONE (R240): a stopped channel's stores are performed, and it is IDLE. -/
def execCstopDone (chan : Nat) (s : State) : Out :=
  .next (if (s.chan chan).stopping then chanIdle (drainParty s (.chan chan)) chan else s)

end Sys2Proof.Machine
end

