-- ==== Sys2Proof/Machine/Sets.lean ====
section
/-! DEFINITION. Sets (R88-R92): their counters, JOIN, LEAVE, SBAR, phase completion, the removal of an ending thread's
memberships, and the end of a thread (R94). -/

namespace Sys2Proof.Machine

/-- Set slots of the package (R88). -/
def setSlots : Nat := 16384

/-- The set of a tenant and key. -/
def State.findSet (s : State) (v key : Nat) : Option MSet := s.sets.find? fun x => x.tenant = v ∧ x.key = key

/-- The sets of a tenant. -/
def State.setCount (s : State) (v : Nat) : Nat := (s.sets.filter fun x => x.tenant = v).length

/-- A thread's membership. -/
def MSet.member (x : MSet) (tid : Nat) : Option Member := x.mem.find? fun m => m.tid = tid

/-- A set put back; one that no thread belongs to any more is dissolved (R89). -/
def putSet (s : State) (x : MSet) : State :=
  let rest := s.sets.filter fun y => !(y.tenant == x.tenant && y.key == x.key)
  { s with sets := if x.cur = 0 then rest else rest ++ [x] }

/-- One completed phase (R89): waiting members are released, pending memberships become current. -/
def MSet.turnPhase (x : MSet) : MSet :=
  { x with cur := x.cur - x.left + x.nxt, arr := x.nxtarr, left := 0, nxt := 0, nxtarr := 0, phase := x.phase + 1,
           mem := x.mem.map (fun m => if m.current then { m with arrived := false } else { m with current := true }),
           arrivers := x.nextArr, nextArr := [] }

/-- Complete(S) (R89): the set after the phases that complete, and the arrivers of each, over `fuel` phases. -/
def MSet.complete (x : MSet) : Nat → MSet × List (List Nat)
  | 0 => (x, [])
  | fuel + 1 =>
    if 0 < x.cur ∧ x.arr = x.cur then
      let r := x.turnPhase.complete fuel
      (r.1, x.arrivers :: r.2)
    else (x, [])

/-- Whether a phase is completing (R89): until its arrivers' buffers are merged (R176), no other operation on the set takes
effect (R90). -/
def MSet.due (x : MSet) : Bool := decide (0 < x.cur) && x.arr == x.cur

/-- `MSet.complete` in the package, over `fuel` phases: each phase completes once its arrivers' buffers are merged (R176). -/
def settleOn (s : State) (x : MSet) : Nat → State
  | 0 => putSet s x
  | fuel + 1 =>
    if x.due then
      match mergePoint s x.arrivers with
      | (true, s) => settleOn s x.turnPhase fuel
      | (false, s) => putSet s x
    else putSet s x

/-- A set after an operation. -/
def settle (s : State) (x : MSet) : State := settleOn s x 4

/-- The sets whose phases are completing tried again. -/
def settleDue (s : State) : State := (s.sets.filter MSet.due).foldl settle s

/-- SETCNT of a thread changed. -/
def setCount (s : State) (tid : Nat) (f : Nat → Nat) : State :=
  s.setThread tid { s.thread tid with setcnt := f (s.thread tid).setcnt }

/-- JOIN (R89). -/
def execJoin (rd rs1 : Reg) (s : State) : Out :=
  let key := (s.g rs1).toNat
  let v := s.curTenant
  let t := s.curTid
  onThread s rd <|
    if 2 ^ 32 ≤ key then status s rd stBADARG
    else
      match s.findSet v key with
      | some x =>
        if x.due then .next s
        else if (x.member t).isSome then status s rd stBADARG
        else if s.ctx.setcnt = 8 then status s rd stNOSPACE
        else
          let x := if x.arr = 0 then { x with cur := x.cur + 1, mem := x.mem ++ [{ tid := t, current := true, arrived := false }] }
            else { x with nxt := x.nxt + 1, mem := x.mem ++ [{ tid := t, current := false, arrived := false }] }
          status (setCount (putSet s x) t (· + 1)) rd stOK
      | none =>
        if s.ctx.setcnt = 8 then status s rd stNOSPACE
        else if (s.tenant v).setq ≤ s.setCount v then status s rd stQUOTA
        else if setSlots ≤ s.sets.length then status s rd stNOSPACE
        else
          let x : MSet := { tenant := v, key := key, cur := 1, mem := [{ tid := t, current := true, arrived := false }] }
          status (setCount (putSet s x) t (· + 1)) rd stOK

/-- A membership removed as LEAVE removes it (R89): a current one arrives. -/
def MSet.leave (x : MSet) (m : Member) : MSet :=
  let mem := x.mem.filter fun y => y.tid ≠ m.tid
  if m.current then { x with arr := x.arr + 1, left := x.left + 1, mem := mem, arrivers := x.arrivers ++ [m.tid] }
  else { x with nxt := x.nxt - 1, mem := mem }

/-- LEAVE (R89): an arrival is a release (R91). -/
def execLeave (rd rs1 : Reg) (s : State) : Out :=
  let key := (s.g rs1).toNat
  let t := s.curTid
  onThread s rd <|
    if 2 ^ 32 ≤ key then status s rd stBADARG
    else
      match s.findSet s.curTenant key with
      | none => status s rd stBADARG
      | some x =>
        if x.due then .next s
        else
        match x.member t with
        | none => status s rd stBADARG
        | some m =>
          let s := if m.current then releaseThread s t else s
          status (settle (setCount s t (· - 1)) (x.leave m)) rd stOK

/-- An arrival at a set by SBAR (R89). -/
def MSet.arrive (x : MSet) (m : Member) : MSet :=
  let mem := x.mem.map fun y => if y.tid = m.tid then { y with arrived := true } else y
  if m.current then { x with arr := x.arr + 1, mem := mem, arrivers := x.arrivers ++ [m.tid] }
  else { x with nxtarr := x.nxtarr + 1, mem := mem, nextArr := x.nextArr ++ [m.tid] }

/-- SBAR (R89): it arrives when it begins, with the phase its arrival belongs to as its mark, and waits for the end of
that phase. A return is an acquire (R91). -/
def execSbar (rd rs1 : Reg) (s : State) : Out :=
  let i : Instr := .sbar rd rs1
  let key := (s.g rs1).toNat
  let t := s.curTid
  onThread s rd <|
    match markOf s i with
    | some mark =>
      match s.findSet s.curTenant key with
      | some x => if mark < x.phase then status (acquire s) rd stOK else waitIn s i mark
      | none => status (acquire s) rd stOK
    | none =>
      if 2 ^ 32 ≤ key then status s rd stBADARG
      else
        match s.findSet s.curTenant key with
        | none => status s rd stBADARG
        | some x =>
          if x.due then .next s
          else
          match x.member t with
          | none => status s rd stBADARG
          | some m =>
            let mark := if m.current then x.phase else x.phase + 1
            let s := settle (releaseThread s t) (x.arrive m)
            match s.findSet s.curTenant key with
            | some x => if mark < x.phase then status (acquire s) rd stOK else waitIn s i mark
            | none => status (acquire s) rd stOK

/-- The removal of a membership when its thread ends (R90). -/
def MSet.remove (x : MSet) (m : Member) : MSet :=
  let mem := x.mem.filter fun y => y.tid ≠ m.tid
  if m.current then
    if m.arrived then { x with left := x.left + 1, mem := mem } else x.leave m
  else if m.arrived then
    { x with nxt := x.nxt - 1, nxtarr := x.nxtarr - 1, mem := mem, nextArr := x.nextArr.filter fun t => t ≠ m.tid }
  else { x with nxt := x.nxt - 1, mem := mem }

/-- The memberships of a thread of a tenant removed in increasing key order (R90). -/
def leaveAllOf (s : State) (v tid : Nat) : State :=
  let keys := ((s.sets.filter fun x => x.tenant = v ∧ (x.member tid).isSome).map fun x => x.key).mergeSort
    fun a b => decide (a ≤ b)
  keys.foldl (fun s key =>
    match s.findSet v key with
    | some x => (match x.member tid with | some m => settle s (x.remove m) | none => s)
    | none => s) s

/-- An ending thread's memberships removed. -/
def leaveAll (s : State) (tid : Nat) : State := leaveAllOf s ((s.thread tid).tenant.getD 64) tid

/-- What a derived region knows a thread by changed. -/
def Region.rename (r : Region) (f : Holder → Holder) : Region :=
  let l := fun (l : List DUpd) => l.map fun u => { u with party := f u.party }
  { r with queue := l r.queue, held := l r.held, reflects := r.reflects.map fun e => (e.1, f e.2.1, e.2.2) }

/-- What the commands that a cut saved know their threads by changed. -/
def Snap.rename (v : Snap) (f : Nat → Nat) : Snap :=
  let l := fun (l : List Cmd) => l.map fun c => { c with tid := f c.tid }
  { v with ops := l v.ops, queued := l v.queued, cmds := l v.cmds }

/-- What sets, gates, derived regions, posted invalidations, commands accepted or saved, what a thread has acquired and accesses on
their way to other packages know a thread by changed: its context may go to another thread. -/
def renameThread (s : State) (old new : Nat) : State :=
  let f := fun t => if t = old then new else t
  let l := fun (l : List Nat) => l.map f
  let g := fun (h : Holder) => match h with | .thread t => Holder.thread (f t) | h => h
  { s with sets := s.sets.map fun x => { x with mem := x.mem.map (fun m => { m with tid := f m.tid }), arrivers := l x.arrivers,
                                                nextArr := l x.nextArr },
           gates := Tbl.mapVals (fun _ x => { x with arrivers := l x.arrivers }) s.gates,
           regions := Tbl.mapVals (fun _ r => r.rename g) s.regions,
           invals := s.invals.map fun i => { i with tid := f i.tid },
           pend := s.pend.map fun p => { p with party := g p.party },
           remotes := s.remotes.map fun r => { r with party := g r.party },
           plots := Tbl.mapVals (fun _ x =>
             let l := fun (l : List Cmd) => l.map fun c => { c with tid := f c.tid }
             { x with cmds := l x.cmds, inflight := l x.inflight, mops := l x.mops }) s.plots,
           cuts := Tbl.mapVals (fun _ c => { c with last := c.last.rename f, saving := c.saving.rename f }) s.cuts,
           seen := s.seen.map fun e => (f e.1, e.2),
           knows := match Tbl.get? s.knows old with | some c => Tbl.set (Tbl.del s.knows old) new c | none => s.knows }

/-- What a context `c` of thread `tid` leaves: its buffered FADDs outside its carve-out wait for the phases at which it arrived
or the completion of its launch (R176), and its carve-out is in the zeroing queue (R157). -/
def leaveBehind (s : State) (tid : Nat) (c : Ctx) : State :=
  let left := c.fadd.filterMap fun e =>
    match c.target e.addr with
    | .virt va => some (tid, { e with addr := va })
    | .carve _ => none
  let l := s.slot c.lnch
  let s := if left.isEmpty then s else s.setSlot c.lnch { l with fadds := l.fadds ++ left }
  let x := s.plot (tid / 8)
  s.setPlot (tid / 8) { x with gzero := x.gzero + c.carve / 4096 }

/-- A thread's context FREE, with its registers cleared (R94). -/
def freeContext (s : State) (tid : Nat) : State :=
  let c := s.thread tid
  let s := withdraw (leaveBehind s tid c) (.thread tid)
  renameThread { s with threads := Tbl.del s.threads tid, knows := Tbl.del s.knows tid,
                        remotes := s.remotes.filter fun r => r.party != .thread tid } tid (endedId c.lnch tid)

/-- The end of a thread (R94): the thread's accesses are performed, its memberships removed, its context FREE. -/
def endThread (s : State) (tid : Nat) : State :=
  let s := leaveAll (releaseThread s tid) tid
  let i := (s.thread tid).lnch
  let s := freeContext s tid
  s.setSlot i { s.slot i with threads := (s.slot i).threads.filter fun t => t ≠ tid }

end Sys2Proof.Machine
end

