-- ==== Sys2Proof/Machine/Launch.lean ====
section
/-! DEFINITION. Queues and launches (R297-R308): launch records and pipeline declarations and their checks, submission,
completion, the LAUNCH group (R314-R316), dispatch (R319), the watchdog and the stage balancer. -/

namespace Sys2Proof.Machine

/-! Launch records (Table 15.2). -/

/-- A record's bytes, all 256. -/
def recBytes (b : List Byte) : List Byte := (List.range 256).map fun i => b.getD i 0

/-- The fields of a launch record. -/
structure LRec where
  version  : Nat
  flags    : Nat
  entry    : Nat
  config   : Nat
  pipeline : Nat
  threads  : Nat
  plane    : Nat
  prio     : Nat
  qclass   : Nat
  cring    : Nat
  asid     : Nat
  wd       : Nat
  carve    : Nat
  ovfstride : Nat
  patch    : Nat
  ovfbase  : Nat
  plots    : List Nat
  privbase : Nat
  tag      : Nat
  rest     : Nat
  deriving DecidableEq, Repr

/-- A record's fields. -/
def lrec (b : List Byte) : LRec :=
  let map := fieldAt b 0x60 80
  { version := fieldAt b 0 4, flags := fieldAt b 4 4, entry := fieldAt b 8 8, config := fieldAt b 0x10 8,
    pipeline := fieldAt b 0x18 8, threads := fieldAt b 0x40 2, plane := fieldAt b 0x42 1, prio := fieldAt b 0x43 1,
    qclass := fieldAt b 0x44 1, cring := fieldAt b 0x45 1, asid := fieldAt b 0x46 2, wd := fieldAt b 0x48 4,
    carve := fieldAt b 0x4C 4, ovfstride := fieldAt b 0x50 4, patch := fieldAt b 0x54 4, ovfbase := fieldAt b 0x58 8,
    plots := (List.range 640).filter fun p => bitAt map p, privbase := fieldAt b 0xB0 8, tag := fieldAt b 0xB8 8,
    rest := fieldAt b 0xC0 64 }

/-- The record of a slot. -/
def Slot.lr (x : Slot) : LRec := lrec x.record

/-- A slot's tenant: that of the queue of its last submission. -/
def Slot.tenant (x : Slot) : Nat := x.queue / 64

/-- Whether a slot lies in a tenant's RECRANGE (R300). -/
def State.inRecRange (s : State) (v i : Nat) : Bool :=
  let t := s.tenant v
  decide (t.recFirst ≤ i) && decide (i < t.recFirst + t.recCount)

/-- Whether a record passes Table 15.2 and R3 for a tenant; pipelines are checked apart. -/
def recordOk (s : State) (v : Nat) (b : List Byte) : Bool :=
  let r := lrec b
  r.version == 1 && decide (r.flags < 16) && r.entry % 4 == 0 && decide (r.entry < 2 ^ 56) &&
  (r.pipeline == 0 || r.entry == 0) && r.config % 64 == 0 && r.pipeline % 64 == 0 && decide (1 ≤ r.threads) &&
  decide (r.threads ≤ 8 * r.plots.length) && decide (r.plane < 4) && decide (r.prio ≤ 7) && decide (r.qclass ≤ 15) &&
  decide (r.cring < 64) && (s.cring v r.cring).en && r.carve % 4096 == 0 && decide (r.carve ≤ 262144) &&
  r.ovfstride % 4096 == 0 && decide (r.patch < 65536) && r.ovfbase % 4096 == 0 && !r.plots.isEmpty &&
  r.plots.all (fun p => s.plotOwner p == some v && s.planeOwner p r.plane == some v) && r.privbase % 4096 == 0 && r.rest == 0

/-! Pipelines (R305, R306). -/

/-- Bytes of a declaration with the counts of a header. -/
def pipeLen (h : List Byte) : Nat := 16 + 32 * fieldAt h 5 1 + 32 * fieldAt h 4 1

/-- The stage and queue counts, and the entries of a declaration. -/
def pipeNS (d : List Byte) : Nat := fieldAt d 4 1
def pipeNQ (d : List Byte) : Nat := fieldAt d 5 1
def pipeQ (d : List Byte) (j : Nat) : List Byte := (d.drop (16 + 32 * j)).take 32
def pipeS (d : List Byte) (i : Nat) : List Byte := (d.drop (16 + 32 * pipeNQ d + 32 * i)).take 32

/-- Whether a queue entry's fields lie in their ranges. -/
def pipeQOk (q : List Byte) : Bool :=
  let depth := fieldAt q 0x10 4
  let item := fieldAt q 0x14 2
  let hi := fieldAt q 0x16 2
  let lo := fieldAt q 0x18 2
  let win := fieldAt q 0x1C 4
  fieldAt q 0 8 % 64 == 0 && fieldAt q 8 8 % 16 == 0 && decide (2 ≤ depth) && decide (depth ≤ 65536) &&
  2 ^ depth.log2 == depth && item % 8 == 0 && decide (8 ≤ item) && decide (item ≤ 4096) && decide (1 ≤ hi) && decide (hi ≤ depth) &&
  decide (lo < hi) && fieldAt q 0x1A 2 == 0 && decide (1 ≤ win) && decide (win ≤ 1000000)

/-- A stage's IN and OUT queues. -/
def stageIn (x : List Byte) : Option Nat := let j := fieldAt x 8 1; if j = 0xFF then none else some j
def stageOut (x : List Byte) : Option Nat := let j := fieldAt x 9 1; if j = 0xFF then none else some j

/-- Whether a stage entry's fields lie in their ranges; an ENTRY is an instruction's address, so a multiple of 4 below 2^56 as
a record's is (R15, log 88). -/
def pipeSOk (nq : Nat) (x : List Byte) : Bool :=
  let ok (j : Option Nat) : Bool := match j with | some j => decide (j < nq) | none => true
  fieldAt x 0 8 % 4 == 0 && decide (fieldAt x 0 8 < 2 ^ 56) && ok (stageIn x) && ok (stageOut x) && decide (fieldAt x 0x0A 1 ≤ 63) && fieldAt x 0x0B 21 == 0

/-- Whether a walk from queue `j` along IN-to-OUT edges is still on a queue after `n` edges. -/
def pipeWalk (stages : List (List Byte)) (j : Nat) : Nat → Bool
  | 0 => true
  | n + 1 =>
    match stages.find? fun x => stageIn x == some j with
    | none => false
    | some x => match stageOut x with | some k => pipeWalk stages k n | none => false

/-- Whether a declaration is accepted for a record of `threads` threads (R306). -/
def pipeOk (d : List Byte) (threads : Nat) : Bool :=
  let ns := pipeNS d
  let nq := pipeNQ d
  let stages := (List.range ns).map fun i => pipeS d i
  let once (f : List Byte → Option Nat) : Bool :=
    (List.range nq).all fun j => decide ((stages.filter fun x => f x == some j).length ≤ 1)
  fieldAt d 0 4 == 1 && decide (1 ≤ ns) && decide (ns ≤ 16) && decide (1 ≤ nq) && decide (nq ≤ 32) && fieldAt d 6 10 == 0 &&
  threads == ns && (List.range nq).all (fun j => pipeQOk (pipeQ d j)) && stages.all (pipeSOk nq) && once stageIn && once stageOut &&
  !(List.range nq).any fun j => pipeWalk stages j nq

/-- A declaration's bytes read under a record's ASID: none while a page is missing, empty when a read faults. -/
def pipeRead (s : State) (h : Holder) (v asid addr : Nat) : Option (List Byte) × State :=
  match unitLoad s h 0 v asid (segsOf (BitVec.ofNat 64 addr) 16) [] with
  | ((.wait, _, _), s) => (none, s)
  | ((.ok _, _, hd), s) =>
    if 16 < pipeNS hd ∨ 32 < pipeNQ hd then (some hd, s)
    else
      match unitRead s h v asid (segsOf (BitVec.ofNat 64 addr) (pipeLen hd)) with
      | ((.wait, _, _), s) => (none, s)
      | ((.ok _, _, d), s) => (some d, s)
      | (_, s) => (some [], s)
  | (_, s) => (some [], s)

/-- What the checks of a record answer. -/
inductive RecRes where
  /-- Its declaration cannot be read yet. -/
  | wait
  /-- It is refused with BADARG. -/
  | bad
  /-- It is accepted, with its declaration; one without a pipeline has none. -/
  | ok (decl : List Byte)
  deriving DecidableEq, Repr

/-- The checks of a record (R301, R306). -/
def checkRecord (s : State) (h : Holder) (v : Nat) (b : List Byte) : RecRes × State :=
  let r := lrec b
  if !recordOk s v b then (.bad, s)
  else if r.pipeline = 0 then (.ok [], s)
  else
    match pipeRead s h v r.asid r.pipeline with
    | (none, s) => (.wait, s)
    | (some d, s) => (if pipeOk d r.threads then .ok d else .bad, s)

/-! Submission. -/

/-- Whether a slot's launch counts against its class (R304). -/
def Slot.counts (x : Slot) (v c : Nat) : Bool :=
  (x.st == .queued || x.st == .running) && x.tenant == v && x.lr.qclass == c

/-- Launches of a tenant's class queued or running. -/
def State.classUse (s : State) (v c : Nat) : Nat := (s.slots.filter fun e => e.2.counts v c).length

/-- LMAX of a class; none set is 0 (Table 18.1). -/
def State.lmaxOf (s : State) (v c : Nat) : Nat := Tbl.getD (s.tenant v).lmax c 0

/-- Bit `n` of word `v` of the pending-kick bitmap set (R298) (log 68). -/
def setKick (s : State) (v n : Nat) : State :=
  { s with kicks := Tbl.set s.kicks v (Tbl.getD s.kicks v 0 ||| BitVec.ofNat 64 (2 ^ (n % 64))) }

/-- A slot QUEUED on queue `q` after every submission already accepted; its progress flags clear (R350). The pipeline
declaration stays as its check read it: the manual does not say whether it is read again at dispatch or by the balancer, and
the model keeps the one that was checked (R3, log 88). -/
def submit (s : State) (i q : Nat) (host : Bool) (decl : List Byte) : State :=
  let x := s.slot i
  let hq := s.queue q
  let y : Slot := { st := .queued, record := recBytes x.record, queue := q, host := host, cause := x.cause, decl := decl }
  (s.setSlot i y).setQueue q { hq with subs := hq.subs ++ [i], live := hq.live ++ [i] }

/-! LAUNCH. -/

/-- Offset and size of a numbered field, but PLOTMAP (Table 15.2). -/
def lfield (f : Nat) : Option (Nat × Nat) :=
  match f with
  | 0 => some (0x08, 8) | 1 => some (0x10, 8) | 2 => some (0x18, 8) | 3 => some (0x20, 8) | 4 => some (0x28, 8)
  | 5 => some (0x30, 8) | 6 => some (0x38, 8) | 7 => some (0x40, 2) | 8 => some (0x42, 1) | 9 => some (0x43, 1)
  | 10 => some (0x45, 1) | 11 => some (0x48, 4) | 12 => some (0x4C, 4) | 13 => some (0x58, 8) | 15 => some (0xB8, 8)
  | _ => none

/-- A field of a slot's record written; none when the value does not fit it. -/
def patchField (b : List Byte) (f v : Nat) : Option (List Byte) :=
  match lfield f with
  | some (o, n) => if v < 2 ^ (8 * n) then some (fieldSet b o n v) else none
  | none =>
    let first := bitsAt v 0 10
    let n := bitsAt v 10 10 + 1
    if 2 ^ 20 ≤ v ∨ 640 < first + n then none else some (fieldSet b 0x60 80 ((2 ^ n - 1) * 2 ^ first))

/-- LPATCH (R314). -/
def execLpatch (rd rs1 rs2 : Reg) (s : State) : Out :=
  let w := (s.g rs1).toNat
  let i := bitsAt w 0 14
  let f := bitsAt w 14 5
  let x := s.slot i
  let b := recBytes x.record
  let a := s.g rs2
  let user := s.ctx.priv == .u
  onThread s rd <|
    if 2 ^ 19 ≤ w then status s rd stBADARG
    else if !s.inRecRange s.curTenant i then status s rd stDENIED
    else if x.st ≠ .idle then status s rd stBUSY
    else if f = 31 then
      if user then status s rd stDENIED
      else if a.toNat % 64 ≠ 0 ∨ 2 ^ 56 ≤ a.toNat then status s rd stBADARG
      else
        match loadWords s a 32 [] with
        | (.ok bs, s) => status (s.setSlot i { s.slot i with record := bs }) rd stOK
        | (r, s) => dresOut s r
    else if 15 < f then status s rd stBADARG
    else if user ∧ !bitAt (lrec b).patch f then status s rd stDENIED
    else
      match patchField b f a.toNat with
      | some b => status (s.setSlot i { x with record := b }) rd stOK
      | none => status s rd stBADARG

/-- LARM (R315). -/
def execLarm (rd rs1 rs2 : Reg) (s : State) : Out :=
  let i := (s.g rs1).toNat
  let n := (s.g rs2).toNat
  let v := s.curTenant
  let x := s.slot i
  onThread s rd <|
    if 2 ^ 14 ≤ i ∨ 64 ≤ n then status s rd stBADARG
    else if !s.inRecRange v i ∨ x.st ≠ .idle ∨ !(s.queue (v * 64 + n)).en then status s rd stDENIED
    else
      match checkRecord s (.thread s.curTid) v x.record with
      | (.wait, s) => .next s
      | (.bad, s) => status s rd stBADARG
      | (.ok decl, s) =>
        let c := x.lr.qclass
        if s.lmaxOf v c ≤ s.classUse v c then status s rd stQUOTA
        else status (setKick (submit (releaseThread s s.curTid) i (v * 64 + n) false decl) v n) rd stOK

/-- The state code of a slot (R316). -/
def LSt.code : LSt → Nat
  | .idle => 0 | .queued => 1 | .running => 2 | .done => 3

/-- LSTAT (R316). -/
def execLstat (rd rs1 : Reg) (s : State) : Out :=
  let i := (s.g rs1).toNat
  let x := s.slot i
  finish s rd (if !s.isThread ∨ 2 ^ 14 ≤ i ∨ !s.inRecRange s.curTenant i then noState
    else BitVec.ofNat 64 (x.st.code + x.queue % 64 * 2 ^ 8 + x.cause % 256 * 2 ^ 16)) 4

/-! Completion (R303). -/

/-- Whether a phase that is completing has yet to merge the buffer of one of some arrivers (R176). -/
def State.merging (s : State) (ids : List Nat) : Bool :=
  s.sets.any (fun x => x.due && x.arrivers.any ids.contains) || s.gates.any fun e => e.2.due && e.2.arrivers.any ids.contains

/-- Once its commands have completed, everything a launch's threads, units and commands have stored is performed; then the buffers of
its ended threads and of those in `more` are merged in increasing thread id, and its held updates follow (R176, R287, R303):
whether all are (log 56). -/
def releaseLaunch (s : State) (i : Nat) (more : List Nat) : Bool × State :=
  if s.launchCmds i then (false, s)
  else
  let s := drainIf s fun p => p.lnch == some i
  let ids := ((s.slot i).fadds.map fun e => endedId i e.1).eraseDups ++ more
  if s.merging ids then (false, s)
  else
    match mergeMembers s ids with
    | (false, s) => (false, s)
    | (true, s) =>
      (true, mergeStreams (applyHeld s fun u => u.lnch == some i && (match u.party with | .thread _ => true | _ => false)) i
        fun _ => true)

/-- What knows a launch by its slot knows it no more: channels its threads started, and arrivers at sets and gates whose buffers
have been merged (R351). -/
def forgetLaunch (s : State) (i : Nat) : State :=
  let keep := fun (l : List Nat) => l.filter fun id => id < 8192 || (s.arriver id).2 != i
  { s with chans := Tbl.mapVals (fun _ x => if x.lnch = i then { x with lnch := 16384 } else x) s.chans,
           sets := s.sets.map fun x => { x with arrivers := keep x.arrivers, nextArr := keep x.nextArr },
           gates := Tbl.mapVals (fun _ x => { x with arrivers := keep x.arrivers }) s.gates }

/-- A held signal takes effect. -/
def releaseSignal (s : State) (h : HeldSig) : State :=
  match h with
  | .fill k _ =>
    let g := s.ring (k / 16) (k % 16)
    if g.active ∧ g.fan ≤ g.marks.length then fillRing s (k / 16) (k % 16) else s
  | .phase k => gateEval s (k / 32) (k % 32)
  | .streamEnd k => if (s.port (k / 16) (k % 16)).ended then endStream s (k / 16) (k % 16) else s

/-- A launch's planes belong to no running launch any more: their region goes on under a number of its own, with the signals that
its next cut is to release and the gates that wait for it (R334); where there is no region left to cut, nothing is held. -/
def leavePlanes (s : State) (i : Nat) : State :=
  let key := regionBase + s.nextId
  let mine := s.planes.any fun e => e.2.lnch == some i
  let cuts := Tbl.del s.cuts i
  let by_ := fun (l : List Nat) => if mine then l.map fun j => if j = i then key else j else l.filter fun j => j ≠ i
  let t := { s with
    gates := Tbl.mapVals (fun _ x => { x with deferBy := by_ x.deferBy }) s.gates,
    planes := Tbl.mapVals (fun _ x => if x.lnch = some i then { x with lnch := none, region := some key } else x) s.planes,
    cuts := if mine then Tbl.set cuts key { s.cutsOf i with replay := [] } else cuts, nextId := s.nextId + 1 }
  if mine then t else (s.cutsOf i).held.foldl releaseSignal t

/-- A slot's completion posted or held, if it can be; the launch then leaves its queue. -/
def postSlot (s : State) (i : Nat) (c : Completion) : Option State :=
  (tryPost s c).map fun s =>
    let q := s.queue c.queue
    leavePlanes (forgetLaunch (s.setQueue c.queue { q with live := q.live.filter fun j => j ≠ i }) i) i

/-- The ring of a refused host submission: its CRING if that exists, else ring 0 (R301). -/
def refusalRing (s : State) (v : Nat) (b : List Byte) : Nat :=
  let r := (lrec b).cring
  if r < 64 ∧ (s.cring v r).en then r else 0

/-- The completion of a slot with a status; a BADARG completion of a host submission goes to ring 0 when CRING names no ring
(R301). -/
def completionOf (s : State) (i status : Nat) : Completion :=
  let x := s.slot i
  { tenant := x.tenant, ring := if x.host ∧ status = 1 then refusalRing s x.tenant x.record else x.lr.cring, status := status,
    cause := x.first, slot := i, queue := x.queue, tag := BitVec.ofNat 64 x.lr.tag, ns := nsOf (s.cycle - x.start), frees := true }

/-- A slot's completion posted, or left to be posted. -/
def completeSlot (s : State) (i : Nat) (c : Completion) : State :=
  match postSlot s i c with
  | some s => s
  | none => s.setSlot i { s.slot i with st := .running, comp := some c }

/-- A launch without threads left completes, as soon as its completion can be posted or held (log 56). -/
def finishLaunch (s : State) (i : Nat) : State :=
  match releaseLaunch s i [] with
  | (true, s) => (postSlot s i (completionOf s i (s.slot i).status)).getD s
  | (false, s) => s

/-- The last thread of a launch without commands under way ends with the launch's completion: its memberships are removed and
everything is released; while the completion can be neither posted nor held, the context stays ENDING (R303, R318). -/
def endLast (s : State) (tid i : Nat) : State :=
  match releaseLaunch (leaveAll (releaseThread s tid) tid) i [tid] with
  | (true, s) => let e := endThread s tid; (postSlot e i (completionOf e i (e.slot i).status)).getD s
  | (false, s) => s

/-- THREAD_END (R94, R303): a launch whose commands have not completed completes when they have. -/
def execThreadEnd (tid : Nat) (s : State) : Out :=
  let i := (s.thread tid).lnch
  let x := s.slot i
  .next (if (s.thread tid).st ≠ .ending then s
    else if x.threads = [tid] ∧ x.st = .running ∧ !x.stopped ∧ !s.launchCmds i then endLast s tid i
    else endThread s tid)

/-- The oldest held completion of a ring, if it is that of a slot and the ring is held no more, posted (R318). -/
def postHeld (s : State) (i : Nat) : State :=
  match s.held.find? fun c => c.slot = i ∧ !(s.cring c.tenant c.ring).hold with
  | none => s
  | some c =>
    let r := s.cring c.tenant c.ring
    let first := (s.held.find? fun d => d.tenant = c.tenant ∧ d.ring = c.ring) = some c
    if first ∧ (!r.en ∨ r.room) then freeSlot (writeCompletion { s with held := s.held.erase c } c) c else s

/-- COMPLETION_POST (R303, R318): a slot's completion that had to wait, or that of a launch without threads left. -/
def execCompletionPost (slot : Nat) (s : State) : Out :=
  let x := s.slot slot
  match x.comp with
  | some c => .next ((postSlot s slot c).getD s)
  | none =>
    if x.st = .running ∧ x.threads.isEmpty ∧ !x.stopped ∧ !x.preempted then .next (finishLaunch s slot)
    else .next (postHeld s slot)

/-! Hardware queues (R297-R299). -/

/-- A completion that no slot's submission stands behind (R297, R301). -/
def bareCompletion (q recidx status ring : Nat) : Completion :=
  { tenant := q / 64, ring := ring, status := status, cause := 0, slot := recidx, queue := q, tag := 0, ns := 0, frees := false }

/-- How a queue's list of submissions shows a NOP entry. -/
def nopMark : Nat := 65536

/-- NOP entries at the head of a queue complete, over `fuel` of them (R298). -/
def popNops (s : State) (q : Nat) : Nat → State
  | 0 => s
  | fuel + 1 =>
    let hq := s.queue q
    match hq.subs with
    | [] => s
    | j :: rest =>
      if j < nopMark then s
      else
        match tryPost s (bareCompletion q (j - nopMark) 0 0) with
        | none => s
        | some s => popNops (s.setQueue q { s.queue q with subs := rest }) q fuel

/-- The address of a queue's header. -/
def HQueue.base (hq : HQueue) (t : Tenant) : Nat := t.pbase + hq.qbase

/-- The entry at the head of a queue, taken: TAKE advances (R297). -/
def advanceTake (s : State) (q take : Nat) : State :=
  putMem s ((s.queue q).base (s.tenant (q / 64)) + 4) (leBytes 4 (take + 1))

/-- The record that an entry submits: the slot's, or a copied image, which has failed when it is refused. -/
def entryRecord (s : State) (q : Nat) (e : List Byte) : Reach × List Byte × State :=
  let im := fieldAt e 8 8
  let t := s.tenant (q / 64)
  if bitAt (fieldAt e 1 1) 0 then
    if im % 64 ≠ 0 ∨ !praOk t im 256 ∨ s.isBad (t.pbase + im) 256 then (.failed, [], s)
    else devRead s (queueParty q) (t.pbase + im) 256
  else (.here, recBytes (s.slot (fieldAt e 2 2)).record, s)

/-- A LAUNCH entry: its record copied, checked and submitted, or refused; `take` takes the entry. While its image or its declaration
cannot be read the entry stays, with what it waits for requested (R242, R248). -/
def launchEntry (s : State) (q : Nat) (e : List Byte) (take : State → State) : State :=
  let v := q / 64
  let i := fieldAt e 2 2
  let bad (ring : Nat) (s : State) : State := (tryPost (take s) (bareCompletion q i 1 ring)).getD s
  if 16384 ≤ i ∨ !s.inRecRange v i ∨ (s.slot i).st ≠ .idle then bad 0 s
  else
    match entryRecord s q e with
    | (.wait, _, s) => s
    | (.failed, _, s) => bad 0 s
    | (.here, b, s) =>
      let copied (s : State) : State := s.setSlot i { s.slot i with record := b }
      match checkRecord s (.core ((lrec b).plots.headD 0)) v b with
      | (.wait, s) => s
      | (.bad, s) => bad (refusalRing s v b) (copied s)
      | (.ok decl, s) => submit (take (copied s)) i q true decl

/-- The entry at the head of a queue, whose bytes are `e`, taken if it can be (R297). -/
def takeEntry (s : State) (q take : Nat) (e : List Byte) : State :=
  let hq := s.queue q
  let opc := fieldAt e 0 1
  let go (s : State) : State := advanceTake (endReach s (queueParty q)) q take
  if (opc ≠ 1 ∧ opc ≠ 2) ∨ 1 < fieldAt e 1 1 ∨ fieldAt e 4 4 ≠ 0 ∨ fieldAt e 16 48 ≠ 0 then
    (tryPost (go s) (bareCompletion q (fieldAt e 2 2) 1 0)).getD s
  else if opc = 2 then
    popNops ((go s).setQueue q { hq with subs := hq.subs ++ [nopMark + fieldAt e 2 2] }) q (hq.subs.length + 1)
  else launchEntry s q e go

/-- QUEUE_ENTRY_TAKE (R297, R299): one entry taken at the head of a queue, or the queue found broken. A read that another package
does not answer in time is made again. -/
def execQueueEntryTake (q : Nat) (s : State) : Out :=
  let s := popNops s q (s.queue q).subs.length
  let hq := s.queue q
  let v := q / 64
  let a := hq.base (s.tenant v)
  let h := queueParty q
  if !hq.en ∨ hq.err ∨ !praOk (s.tenant v) hq.qbase (64 + 64 * 2 ^ hq.qlog) then .next s
  else
    match devRead s h a 8 with
    | (.wait, _, s) => .next s
    | (.failed, _, s) => .next (endReach s h)
    | (.here, hd, s) =>
      let take := fieldAt hd 4 4
      let n := (fieldAt hd 0 4 + 2 ^ 32 - take) % 2 ^ 32
      if n = 0 then .next (endReach s h)
      else if 2 ^ hq.qlog < n then
        .next (faultRecord ((endReach s h).setQueue q { hq with err := true }) v cQueue 6 0xFFFF q 0 0)
      else
        match devRead s h (a + 64 + 64 * (take % 2 ^ hq.qlog)) 64 with
        | (.wait, _, s) => .next s
        | (.failed, _, s) => .next (endReach s h)
        | (.here, e, s) => .next (takeEntry s q take e)

/-! Dispatch (R71-R73, R157, R319). -/

/-- The lowest free contexts of a plot. -/
def State.freeCtxs (s : State) (p : Nat) : List Nat :=
  ((List.range 8).map fun i => p * 8 + i).filter fun t => (s.thread t).st == .free

/-- Threads a launch places on the plot at index `j` of its list. -/
def threadsOn (n m j : Nat) : Nat := (n + m - 1 - j) / m

/-- Whether contexts and zeroed granules suffice on every plot (R71, R157). -/
def roomFor (s : State) (r : LRec) : Bool :=
  let m := r.plots.length
  r.plots.zipIdx.all fun e =>
    let n := threadsOn r.threads m e.2
    decide (n ≤ (s.freeCtxs e.1).length) && decide (n * (r.carve / 4096) ≤ (s.plot e.1).gfree)

/-- Where a launch's thread starts and its STAGEID: of a pipeline, its stage's entry (R306, R312). -/
def startOfThread (r : LRec) (decl : List Byte) (k : Nat) : Word × Word :=
  if r.pipeline = 0 then (BitVec.ofNat 64 r.entry, 0)
  else (BitVec.ofNat 64 (fieldAt (pipeS decl k) 0 8), BitVec.ofNat 64 (k + 2 ^ 11))

/-- A thread started on the lowest free context of a plot, in the state of Table 4.1; its start is an acquire (R73). -/
def startThread (s : State) (i p lidx : Nat) (pc stageid : Word) : State :=
  match (s.freeCtxs p).head? with
  | none => s
  | some t =>
    let x := s.slot i
    let r := x.lr
    let arg (k : Nat) : Word := BitVec.ofNat 64 (fieldAt x.record (0x20 + 8 * k) 8)
    let regs := ((((Vector.replicate 32 (0 : Word)).set 2 (BitVec.ofNat 64 (r.privbase + r.carve))).set 4 (arg 0)).set 5 (arg 1)).set 6 (arg 2)
    let c : Ctx := { st := .running, regs := regs.set 7 (arg 3), pc := pc, lidx := lidx, nthr := r.threads, lnch := i,
                     privbase := BitVec.ofNat 64 r.privbase, carve := r.carve,
                     ovfptr := BitVec.ofNat 64 (r.ovfbase + lidx * r.ovfstride), asid := r.asid, tenant := some x.tenant,
                     stageid := stageid }
    let s := dropCache { s.setThread t c with knows := Tbl.set s.knows t s.cycle } p
    let pl := s.plot p
    let s := s.setPlot p { pl with gfree := pl.gfree - r.carve / 4096 }
    s.setSlot i { s.slot i with threads := (s.slot i).threads ++ [t] }

/-- Every thread of a launch started. -/
def startThreads (s : State) (i : Nat) (r : LRec) (decl : List Byte) : State :=
  (List.range r.threads).foldl (fun s k =>
    let w := startOfThread r decl k
    startThread s i (r.plots.getD (k % r.plots.length) 0) k w.1 w.2) s

/-- Why a configuration image cannot be loaded at dispatch, or that it can: `rule` names the first rule-illegal slot. -/
inductive ConfRes where
  | none
  | load (img : List Byte)
  | busy
  | refuse (rule : Option (Nat × Nat))
  deriving Repr

/-- The image of a launch read and checked for every plot of its list (R126, R34, R301); it waits for a lattice that still finishes
a row of an earlier claim (R187). -/
def confRead (s : State) (v : Nat) (r : LRec) : ConfRes × State :=
  if r.config = 0 then (.none, s)
  else
    match unitRead s (.core (r.plots.headD 0)) v r.asid (segsOf (BitVec.ofNat 64 r.config) (imageHeader + imageRest)) with
    | ((.wait, _, _), s) => (.busy, s)
    | ((.ok _, _, img), s) =>
      let h := img.take imageHeader
      let ok (p : Nat) : Bool :=
        hdrOk s p v h && (s.plane p r.plane).st != .loading && !portsBusy s p r.plane && !claimsClash s p r.plane h
      if r.plots.any fun p => (List.range 4).any fun l => bitAt (hdrLats h) l && (s.lat p l).ending then (.busy, s)
      else if !r.plots.all ok then (.refuse none, s)
      else match illegalSlot (img.drop imageHeader) with
        | some e => (.refuse (some e), s)
        | none => (.load img, s)
    | (_, s) => (.refuse none, s)

/-- The image loaded into the launch's plane of every plot. -/
def confLoad (s : State) (i : Nat) (r : LRec) (img : List Byte) : State :=
  r.plots.foldl (fun s p =>
    configure (loadBegin s p r.plane (img.take imageHeader) (BitVec.ofNat 64 r.config) r.asid (some i)) p r.plane
      (img.drop imageHeader)) s

/-- A launch refused at dispatch: it leaves its queue with STATUS BADARG and starts no thread; a rule-illegal image also
writes its record and leaves the plane it was loaded into unconfigured: that of the first plot, after which no other is loaded
(R34, R301) (log 33). -/
def refuseLaunch (s : State) (i : Nat) (r : LRec) (rule : Option (Nat × Nat)) : State :=
  let s := s.setSlot i { s.slot i with start := s.cycle }
  let s := match rule with
    | some (c, n) =>
      let info := fabricInfo fRuleIllegal c n r.plane false false
      let p := r.plots.headD 0
      let s := planeClear (faultRecord s (s.slot i).tenant cFabric 1 i (p + r.plane * 1024) info 0) p r.plane
      s.setPlane p r.plane { s.plane p r.plane with cfault := info }
    | none => s
  completeSlot s i (completionOf s i 1)

/-- Whether a unit descriptor (Table 18.4) names a unit that a launch of plane `k` on plot `p` uses. -/
def unitUsed (p k : Nat) (u : Word) : Bool :=
  bitsAt u.toNat 0 10 == p &&
  (match bitsAt u.toNat 56 8 with
   | 1 | 3 => true
   | 2 => bitsAt u.toNat 10 2 == k
   | _ => false)

/-- Whether a scrub request accepted and not yet signed names a unit of a launch (R363). -/
def tokenAwaited (s : State) (p k : Nat) : Bool := s.scrubs.any fun q => q.units.any (unitUsed p k)

/-- Whether the token of a unit of a launch went elsewhere than to the tenant's buffer (R367). -/
def tokenBarred (s : State) (p k : Nat) : Bool := s.tokenBars.any (unitUsed p k)

/-- The launch started: its configuration, its threads, its watchdog (R319) (log 33). -/
def startLaunch (s : State) (i : Nat) (r : LRec) (conf : ConfRes) : State :=
  let wd := if r.wd = 0 then (s.queue (s.slot i).queue).wd else r.wd
  let s := s.setSlot i { s.slot i with st := .running, start := s.cycle, wdLeft := some (cyclesOfUs wd), wdFrom := s.cycle,
                                       sampled := nsOf s.cycle / 1000 }
  startThreads (match conf with | .load img => confLoad s i r img | _ => s) i r (s.slot i).decl

/-- The head of a queue's submissions removed. -/
def popSub (s : State) (q : Nat) : State := s.setQueue q { s.queue q with subs := (s.queue q).subs.tail }

/-- DISP once the slot heads its queue: the status, and the state (log 33). -/
def dispatch (s : State) (i q : Nat) : Nat × State :=
  let x := s.slot i
  let r := x.lr
  let v := x.tenant
  let flag (n : Nat) : Bool := bitAt r.flags n
  let waiting := (s.slots.filter fun e => e.2.counts v r.qclass && !(e.2.st == .queued && e.2.host)).length
  let refuse (rule : Option (Nat × Nat)) (s : State) : Nat × State := (stOK, popNops (refuseLaunch (popSub s q) i r rule) q 4096)
  if flag 0 ∧ ((s.queue q).live.takeWhile fun j => j ≠ i) ≠ [] then (stBUSY, s)
  else if x.host ∧ s.lmaxOf v r.qclass ≤ waiting then (stBUSY, s)
  else if r.plots.any fun p => (s.plot p).scrubbing || (s.plane p r.plane).scrubbing || (flag 2 && tokenAwaited s p r.plane) then (stBUSY, s)
  else if r.plots.any fun p => s.plotOwner p != some v || (flag 2 && tokenBarred s p r.plane) then refuse none s
  else if !roomFor s r then (stBUSY, s)
  else
    match confRead s v r with
    | (.busy, s) => (stBUSY, s)
    | (.refuse rule, s) => refuse rule s
    | (conf, s) => (stOK, popNops (startLaunch (popSub s q) i r conf) q 4096)

/-- DISP (R319). -/
def execDisp (rd rs1 : Reg) (s : State) : Out :=
  let w := (s.g rs1).toNat
  let i := bitsAt w 0 14
  let q := bitsAt w 16 16
  needPriv s .l (.disp rd rs1) <|
    if bitsAt w 14 2 ≠ 0 ∨ 2 ^ 32 ≤ w then status s rd stBADARG
    else if s.fatal then status s rd stBUSY
    else if (s.slot i).st ≠ .queued ∨ (s.queue q).subs.head? ≠ some i then status s rd stBADARG
    else let r := dispatch s i q; status r.2 rd r.1

/-! Watchdog and balancer. -/

/-- Whether a launch's watchdog has run out (R308). -/
def Slot.wdOver (x : Slot) (now : Nat) : Bool :=
  x.st == .running && !x.stopped && !x.preempted && !x.halted &&
  (match x.wdLeft with | some n => decide (n ≤ now - x.wdFrom) | none => false)

/-- WATCHDOG_EXPIRY (R308): the launch's bit of the watchdog bitmap is set. -/
def execWatchdogExpiry (slot : Nat) (s : State) : Out :=
  let x := s.slot slot
  .next (if x.wdOver s.cycle then
      { s.setSlot slot { x with wdLeft := none } with
        wdogs := Tbl.set s.wdogs (slot / 64) (Tbl.getD s.wdogs (slot / 64) 0 ||| BitVec.ofNat 64 (2 ^ (slot % 64))) }
    else s)

/-- PUT − TAKE of a pipeline queue, when both can be read. -/
def queueFill (s : State) (v : Nat) (r : LRec) (d : List Byte) (j : Nat) : Option Nat × State :=
  match unitRead s (.core (r.plots.headD 0)) v r.asid (segsOf (BitVec.ofNat 64 (fieldAt (pipeQ d j) 8 8)) 16) with
  | ((.ok _, _, b), s) => (some ((fieldAt b 0 8 + 2 ^ 64 - fieldAt b 8 8) % 2 ^ 64), s)
  | (_, s) => (none, s)

/-- The runs of samples at or above HIGH and at or below LOW of a queue after one more sample in microsecond `us` of TIME: the
microsecond each began in, 0 for none. -/
def sampleRun (x : Slot) (d : List Byte) (j n us : Nat) : Nat × Nat :=
  let q := pipeQ d j
  let old := ((x.highs.find? fun e => e.1 = j).map fun e => e.2).getD (0, 0)
  let on (b : Bool) (r : Nat) : Nat := if b then (if r = 0 then us else r) else 0
  (on (decide (fieldAt q 0x16 2 ≤ n)) old.1, on (decide (n ≤ fieldAt q 0x18 2)) old.2)

/-- Whether a run of samples has lasted WINDOW µs (R307). -/
def runLasts (r win us : Nat) : Bool := decide (r ≠ 0 ∧ win ≤ us + 1 - r)

/-- The runs of a queue replaced. -/
def Slot.putRun (x : Slot) (j : Nat) (r : Nat × Nat) : Slot := { x with highs := (j, r) :: x.highs.filter fun e => e.1 ≠ j }

/-- The lowest-numbered idle plot of a partition (R307). -/
def idlePlot (s : State) (v : Nat) : Option Nat :=
  (s.plotsOf v).find? fun p => (List.range 8).all fun k => (s.thread (p * 8 + k)).st != .running

/-- The running replicas of a stage, oldest first. -/
def Slot.replicasOf (x : Slot) (st : Nat) : List Nat :=
  (x.replicas.filter fun e => decide (e.1 = st) && x.threads.contains e.2).map fun e => e.2

/-- RETIRE set in a thread's STAGEID (R307). -/
def setRetire (s : State) (t : Nat) : State := s.setThread t { s.thread t with stageid := (s.thread t).stageid ||| 0x400 }

/-- The lowest replica number that no running replica of a stage has (log 88). -/
def replicaNumber (s : State) (ts : List Nat) : Nat :=
  (((List.range 64).drop 1).find? fun n => ts.all fun t => bitsAt (s.thread t).stageid.toNat 4 6 != n).getD 63

/-- One replica of a stage started on the lowest-numbered idle plot; none when that plot has no FREE context or no room for its
carve-out (log 88). -/
def startReplica (s : State) (i st : Nat) (d : List Byte) : Option State :=
  let x := s.slot i
  let r := x.lr
  match idlePlot s x.tenant with
  | none => none
  | some p =>
    match (s.freeCtxs p).head? with
    | none => none
    | some t =>
      if (s.plot p).gfree < r.carve / 4096 then none
      else
        let n := replicaNumber s (x.replicasOf st)
        let s := startThread s i p (pipeNS d + x.started) (BitVec.ofNat 64 (fieldAt (pipeS d st) 0 8))
          (BitVec.ofNat 64 (st + n * 16 + 2 ^ 11))
        let x := s.slot i
        some (s.setSlot i { x with replicas := (x.replicas.filter fun e => e.2 ≠ t) ++ [(st, t)], started := x.started + 1,
                                   retiring := x.retiring.filter fun u => u ≠ t })

/-- What the balancer does for a stage after a sample in microsecond `us`. A run of samples begins anew once it has started or
retired a replica (log 88). -/
def balanceStage (s : State) (i : Nat) (d : List Byte) (us st : Nat) : State :=
  let x := s.slot i
  let e := pipeS d st
  match stageIn e with
  | none => s
  | some j =>
    let run := ((x.highs.find? fun e => e.1 = j).map fun e => e.2).getD (0, 0)
    let win := fieldAt (pipeQ d j) 0x1C 4
    if runLasts run.1 win us ∧ (x.replicasOf st).length < fieldAt e 0x0A 1 then
      match startReplica s i st d with
      | none => s
      | some s => s.setSlot i ((s.slot i).putRun j (0, run.2))
    else if runLasts run.2 win us then
      match (x.replicasOf st).reverse.find? fun t => !bitAt (s.thread t).stageid.toNat 10 && !x.retiring.contains t with
      | none => s
      | some t =>
        let s := s.setSlot i (x.putRun j (run.1, 0))
        if x.lr.config = 0 then setRetire s t else s.setSlot i { s.slot i with retiring := x.retiring ++ [t] }
    else s

/-- BALANCER_SAMPLE (R307): once per microsecond of TIME every queue of a pipeline is sampled, then each stage's replicas are
started or retired; none in a launch with the repro flag. -/
def execBalancerSample (slot : Nat) (s : State) : Out :=
  let x := s.slot slot
  let r := x.lr
  let us := nsOf s.cycle / 1000
  if x.st ≠ .running ∨ r.pipeline = 0 ∨ bitAt r.flags 1 ∨ x.stopped ∨ x.halted ∨ x.preempted ∨ x.preempting ∨ us ≤ x.sampled then .next s
  else
    let d := x.decl
    let s := s.setSlot slot { x with sampled := us }
    let s := (List.range (pipeNQ d)).foldl (fun s j =>
      match queueFill s x.tenant r d j with
      | (some n, s) => let y := s.slot slot; s.setSlot slot (y.putRun j (sampleRun y d j n us))
      | (none, s) => s) s
    .next ((List.range (pipeNS d)).foldl (fun s st => balanceStage s slot d us st) s)

end Sys2Proof.Machine
end

