-- ==== Sys2Proof/Machine/Lodge.lean ====
section
/-! DEFINITION. The lodge (R309-R312, R317, R318): bitmap scans, the journal, holds, heartbeats and take-over, and the
commands of the lodge control window (R348-R351). -/

namespace Sys2Proof.Machine

/-- The issuing lodge core, if one issues (log 47). -/
def State.curCore (s : State) : Option Nat := match s.cur with | .lodge k => some k | _ => none

/-! KSCAN. -/

/-- KSCAN (R317) (log 68). -/
def execKscan (rd rs1 : Reg) (s : State) : Out :=
  let a := (s.g rs1).toNat
  let w := a % 256
  needPriv s .l (.kscan rd rs1) <|
    if 512 ≤ a ∨ (!bitAt a 8 ∧ 63 < w) then status s rd stBADARG
    else if bitAt a 8 then finish (acquire { s with wdogs := Tbl.del s.wdogs w }) rd (Tbl.getD s.wdogs w 0) 4
    else finish (acquire { s with kicks := Tbl.del s.kicks w }) rd (Tbl.getD s.kicks w 0) 4

/-! The journal (R310, R392). -/

/-- One bit of a reflected CRC-32C. -/
def crcBit (c : BitVec 32) : BitVec 32 := if c.getLsbD 0 then (c >>> 1) ^^^ 0x82F63B78#32 else c >>> 1

/-- One byte of a CRC-32C. -/
def crcByte (c : BitVec 32) (b : Byte) : BitVec 32 :=
  (List.range 8).foldl (fun c _ => crcBit c) (c ^^^ b.setWidth 32)

/-- CRC-32C of bytes (R392). -/
def crc32c (bs : List Byte) : BitVec 32 := bs.foldl crcByte 0xFFFFFFFF#32 ^^^ 0xFFFFFFFF#32

/-- A journal record from its image: JSEQ, CORE and CRC are JRNL's (Table 15.5). -/
def journalRecord (image : List Byte) (k core : Nat) : List Byte :=
  let b := fieldSet (fieldSet image 0 8 k) 9 1 core
  fieldSet b 0x3C 4 (crc32c (b.take 0x3C)).toNat

/-- Bytes written to lodge SRAM by the device; words written whole read well again. -/
def sramWrite (s : State) (a : Nat) (bs : List Byte) : State :=
  { s with sram := Mem.write s.sram a bs,
           sramBad := s.sramBad.filter fun w => !(decide (a ≤ 8 * w) && decide (8 * w + 8 ≤ a + bs.length)) }

/-- The image of record `k` written to both banks, and JNEXT advanced (R310, R317). -/
def journalWrite (s : State) (image : List Byte) (core : Nat) : State :=
  let k := s.jnext
  let b := journalRecord image k core
  let o := 64 * (k % 8192)
  { sramWrite (sramWrite s o b) (0x100000 + o) b with jnext := k + 1 }

/-- JRNL (R317) (log 47). -/
def execJrnl (rd rs1 : Reg) (s : State) : Out :=
  let a := (s.g rs1).toNat
  needPriv s .l (.jrnl rd rs1) <|
    match s.curCore with
    | none => status s rd stBADARG
    | some c =>
      if a % 64 ≠ 0 ∨ 0x200000 ≤ a ∨ inJournal a then status s rd stBADARG
      else finish (journalWrite (release s) (sramRead s a 64) c) rd (BitVec.ofNat 64 s.jnext) 4

/-! Holds (R318). -/

/-- The rings an operand of CHOLD and CREL names: every existing ring with ALL, otherwise one (log 46). -/
def holdRings (s : State) (w : Nat) : List Nat :=
  if bitAt w 12 then Tbl.keys s.crings else [bitsAt w 6 6 * 64 + bitsAt w 0 6]

/-- Holds set or cleared on rings (log 46). -/
def setHolds (s : State) (rings : List Nat) (on : Bool) : State :=
  rings.foldl (fun s r => { s with crings := Tbl.set s.crings r { Tbl.getD s.crings r {} with hold := on } }) s

/-- CHOLD (R317). -/
def execChold (rd rs1 : Reg) (s : State) : Out :=
  let w := (s.g rs1).toNat
  needPriv s .l (.chold rd rs1) <|
    if 8192 ≤ w then status s rd stBADARG else status (setHolds s (holdRings s w) true) rd stOK

/-- A held completion of released rings posted; it stays held while its ring has no room. -/
def releaseHeld (s : State) (c : Completion) : State :=
  let r := s.cring c.tenant c.ring
  if r.en ∧ !r.room then s else freeSlot (writeCompletion { s with held := s.held.erase c } c) c

/-- Holds of rings released (R318): their held completions posted in the order they were held, then the holds cleared. -/
def releaseRings (s : State) (rings : List Nat) : State :=
  let mine := s.held.filter fun c => rings.contains (c.tenant * 64 + c.ring)
  setHolds (mine.foldl releaseHeld s) rings false

/-- CREL (R317, R318); in the fatal lodge state the holds stay in place (R388). -/
def execCrel (rd rs1 : Reg) (s : State) : Out :=
  let w := (s.g rs1).toNat
  needPriv s .l (.crel rd rs1) <|
    if 8192 ≤ w then status s rd stBADARG
    else status (if s.fatal then s else releaseRings s (holdRings s w)) rd stOK

/-! Heartbeats and take-over (R311, R317, R393). -/

/-- The code of a role. -/
def Role.code : Role → Nat
  | .standby => 0 | .active => 1 | .failed => 2

/-- A core's heartbeat age in µs, saturating at 16,383. -/
def heartAge (s : State) (c : Nat) : Nat := min ((s.cycle - (s.lodge c).beat) / 700) 16383

/-- A core's 16 bits of HBEAT's result; only an active core has a heartbeat age, another's is free (log 34). -/
def heartField (s : State) (free : Word) (c : Nat) : Nat :=
  let l := s.lodge c
  l.role.code + 4 * (if l.role = .active then heartAge s c else bitsAt free.toNat (16 * c) 14)

/-- The word HBEAT writes. -/
def heartWord (s : State) (free : Word) : Word :=
  BitVec.ofNat 64 (((List.range 4).map fun c => heartField s free c * 2 ^ (16 * c)).sum)

/-- The issuing core's heartbeat age reset. -/
def beatNow (s : State) : State :=
  match s.curCore with
  | some k => s.setLodge k { s.lodge k with beat := s.cycle }
  | none => s

/-- HBEAT (R317). -/
def execHbeat (rd : Reg) (s : State) : Out :=
  needPriv s .l (.hbeat rd) <|
    let f := (beatNow s).fresh
    finish f.2 rd (heartWord f.2 f.1) 4

/-- The lowest-numbered STANDBY core. -/
def standbyCore (s : State) : Option Nat := (List.range 4).find? fun c => (s.lodge c).role == .standby

/-- The fatal lodge state (R388): vector 0 of the physical function is raised, and FATAL stands in every VFSTAT (log 48). -/
def fatalLodge (s : State) : State := { s with fatal := true, vec0 := true }

/-- A take-over (R311, R393) from an active core: `heart` says that its heartbeat failed, `cause` is that of its repair
record (log 48). -/
def takeOver (s : State) (core : Nat) (heart : Bool) (cause : Nat) : State :=
  let l := s.lodge core
  let s := s.setLodge core { l with role := .failed, ctx := { l.ctx with st := .stopped } }
  let s := setHolds s (Tbl.keys s.crings) true
  let s := { s with lfault := BitVec.ofNat 64 (core + (if heart then 4 else 0)) }
  match standbyCore s with
  | some n =>
    repair (s.setLodge n { s.lodge n with role := .active, beat := s.cycle, ctx := { st := .running, priv := .l, pc := s.takevec } })
      6 cause 0xFF core n
  | none =>
    let f := s.fresh
    repair (fatalLodge f.2) 6 4 0xFF core (f.1.toNat % 2 ^ 32)

/-- The wear of a unit. -/
def State.wearOf (s : State) (u : WearUnit) : Wear := (s.wear.find? fun w => w.unit_ == u).getD { unit_ := u }

/-- The cause for which a unit is worn and not yet dealt with: 1 margin, 2 corrected errors, 3 uncorrectable. -/
def State.worn (s : State) (u : WearUnit) : Option Nat :=
  match (s.wearOf u).worn with
  | some c => if c ≤ 3 then some c else none
  | none => none

/-- Worn active cores replaced at once as long as a standby core remains, the replacements among them, over `fuel` of them (R311,
R378) (log 75). -/
def retireCores (s : State) : Nat → State
  | 0 => s
  | fuel + 1 =>
    match (List.range 4).find? fun c => (s.lodge c).role == .active && (s.worn (.lodge c)).isSome with
    | some c => if (standbyCore s).isSome then retireCores (takeOver s c false ((s.worn (.lodge c)).getD 0)) fuel else s
    | none => s

/-- INSTRUCTION_MEMORY_ERROR (R311). -/
def execInstructionMemoryError (core _addr : Nat) (s : State) : Out :=
  .next (if (s.lodge core).role = .active then retireCores (takeOver s core false 3) 4 else s)

/-- Cycles of the heartbeat limit of 100 µs (R311). -/
def heartLimit : Nat := 70000

/-- HEARTBEAT_TIMEOUT (R311). -/
def execHeartbeatTimeout (core : Nat) (s : State) : Out :=
  .next (if (s.lodge core).role = .active ∧ heartLimit ≤ s.cycle - (s.lodge core).beat then retireCores (takeOver s core true 3) 4
    else s)

/-! Window commands (R348-R351). -/

/-- The fields of LCMD (Table 17.1). -/
def Lodge.op (l : Lodge) : Nat := bitsAt l.cmd.toNat 0 8
def Lodge.rsv (l : Lodge) : Nat := bitsAt l.cmd.toNat 22 10
def Lodge.arg (l : Lodge) : Nat := bitsAt l.cmd.toNat 32 32

/-- Whether a command's requirement of Table 17.2 is met. -/
def winMet (s : State) (l : Lodge) : Bool :=
  let x := s.slot l.recidx
  let a := l.arg % 256
  l.rsv == 0 &&
  (match l.op with
   | 0 => true
   | 1 => x.st == .running && !x.stopped && decide (1 ≤ a) && decide (a ≤ 0x13)
   | 2 => x.stopped && !x.cutdone
   | 3 => x.cutdone && !x.drained
   | 4 => x.drained && !x.reset_
   | 5 => x.reset_ && decide (a ≤ 5)
   | _ => false)

/-- Whether another core's command on a slot has begun and is not yet performed: commands take effect on a slot one at a time
(R349). -/
def slotTaken (s : State) (core i : Nat) : Bool :=
  s.lodges.any fun e => e.1 != core && e.2.busy && e.2.begun && !e.2.done && e.2.recidx == i

/-- Whether a core's window has a command with an OP to perform. -/
def winDue (s : State) (core op : Nat) : Bool :=
  let l := s.lodge core
  l.busy && !l.done && l.op == op && (l.begun || (winMet s l && !slotTaken s core l.recidx))

/-- A command performed, with its RESULT and DATA. -/
def winDone (s : State) (core result data : Nat) : State :=
  s.setLodge core { s.lodge core with done := true, result := result, data := data }

/-- The code of a flag in a word. -/
def flagBit (b : Bool) (n : Nat) : Nat := if b then 2 ^ n else 0

/-- The DATA of PEEK. -/
def peekData (x : Slot) : Nat :=
  x.st.code + x.queue % 4096 * 4 + flagBit x.stopped 14 + flagBit x.cutdone 15 + flagBit x.drained 16 + flagBit x.reset_ 17

/-- PEEK (Table 17.2). -/
def execWinPeek (core : Nat) (s : State) : Out :=
  .next (if winDue s core 0 then winDone s core stOK (peekData (s.slot (s.lodge core).recidx)) else s)

/-- A context STOPPED (R320), if it runs or waits or a debug halt has stopped it; one in DOUBLE or ENDING keeps its state, which
only a reset or its end leaves (Table 4.2). -/
def Ctx.stop (c : Ctx) : Ctx :=
  match c.st with
  | .running | .waiting | .stopped => { c with st := .stopped, stall := none, halted := false }
  | _ => c

/-- A thread STOPPED: it makes no access any more, and a waiting instruction resumes at itself. -/
def stopThread (s : State) (t : Nat) : State := withdraw (s.setThread t (s.thread t).stop) (.thread t)

/-- The channels a launch's threads started that run, are FAULTED, or have stores to be performed. -/
def chansOf (s : State) (i : Nat) : List Nat :=
  (s.chans.filter fun e => e.2.lnch == i && (e.2.st != 0 || s.chanPend e.1)).map fun e => e.1

/-- A launch's threads, channels and watchdog stopped (Table 17.2 STOP). -/
def stopLaunch (s : State) (i : Nat) : State :=
  let s := (s.slot i).threads.foldl stopThread s
  let s := (chansOf s i).foldl chanHalt s
  s.setSlot i { s.slot i with stopped := true, wdLeft := none }

/-- STOP (Table 17.2): it is performed once the stores of every channel that it stops are and the channels are IDLE (R240). -/
def execWinStop (core : Nat) (s : State) : Out :=
  let l := s.lodge core
  let i := l.recidx
  if !winDue s core 1 then .next s
  else
    let s := if l.begun then s
      else
        let s := faultRecord (stopLaunch s i) (s.slot i).tenant (l.arg % 256) 6 i 0 0 0
        s.setLodge core { s.lodge core with begun := true }
    .next (if (chansOf s i).isEmpty then winDone s core stOK 0 else s)

/-- The read ports of a region that hold streams. -/
def regionReaders (s : State) (r : Nat) : List (Nat × Nat) :=
  (s.regionPlanes r).flatMap fun pk =>
    ((List.range 16).filter fun n => bitAt (s.plane pk.1 pk.2).portmask n && (s.port pk.1 n).holds && !(s.port pk.1 n).d.write).map
      fun n => (pk.1, n)

/-- A region's read ports closed as by SCLOSE (R148). -/
def closeReaders (s : State) (r : Nat) : State :=
  (regionReaders s r).foldl (fun s e =>
    let x := s.port e.1 e.2
    if x.st = .bound then s.setPort e.1 e.2 { x with st := .closed } else s) s

/-- The number of the next lodge cut of a region (Table 17.2). -/
def lodgeNumber (s : State) (r : Nat) : Nat := 0x8000 + ((s.cutsOf r).count + 1) % 0x8000

/-- A lodge cut of a region injected at every source, its read ports among them (R324). -/
def lodgeCut (s : State) (r : Nat) (preempt : Bool) : State :=
  let n := lodgeNumber s r
  let s := beginCut s r n true preempt
  (s.regionPlanes r).foldl (fun s pk => markPorts s pk.1 pk.2 n (((regionReaders s r).filter fun e =>
    e.1 = pk.1 ∧ (s.port e.1 e.2).plane = pk.2).map fun e => e.2)) s

/-- CUTDONE of a slot set. -/
def setCutdone (s : State) (i : Nat) : State := s.setSlot i { s.slot i with cutdone := true }

/-- CUT (Table 17.2): the cut is injected once no other cut of the region is in progress, and anew when a rollback has given it up;
the command is performed when it has completed or been abandoned. -/
def execWinCut (core : Nat) (s : State) : Out :=
  let l := s.lodge core
  let i := l.recidx
  let c := s.cutsOf i
  if !winDue s core 2 then .next s
  else if l.begun ∧ (c.active ∨ c.lodge) then
    .next (if c.active then s else winDone (setCutdone s i) core (if c.abandoned then stNOSPACE else stOK) l.data)
  else if (s.regionPlanes i).isEmpty then .next (winDone (setCutdone s i) core stOK 0)
  else if c.active ∨ (s.slot i).halted then .next s
  else
    let n := lodgeNumber s i
    let s := lodgeCut (closeReaders s i) i false
    .next (s.setLodge core { s.lodge core with begun := true, data := n })

/-- The tile that a write stream at a port has begun to fill, if it is no ring's, is EMPTY: its fill has failed (Table 7.1). -/
def tileUnfilled (s : State) (p : Nat) (x : Port) : State :=
  let ctrl := fieldAt x.desc 8 4
  if x.holds && bitAt ctrl 0 && bitAt ctrl 1 then tileFailed s p (fieldAt x.desc 0 1) else s

/-- A port of a drained region: its stores performed, and IDLE. A write stream that is given up, not only put away by a
pre-emption, leaves a tile that it was filling EMPTY. -/
def drainPort (givenUp : Bool) (s : State) (p n : Nat) : State :=
  let s := withdraw (drainParty s (.port p n)) (.port p n)
  let x := s.port p n
  let s := if givenUp ∧ (s.ringOfPort p n).isNone then tileUnfilled s p x else s
  endSmarks (s.setPort p n { plane := x.plane, desc := x.desc, count := x.count, serial := x.serial }) p

/-- A plane of a drained region: its ports IDLE, UNCONFIGURED, its tokens discarded, its claims given up. -/
def drainPlane (givenUp : Bool) (s : State) (p k : Nat) : State :=
  planeClear (((List.range 16).filter fun n => bitAt (s.plane p k).portmask n).foldl (fun s n => drainPort givenUp s p n) s) p k

/-- A launch's region drained. -/
def drainLaunch (s : State) (i : Nat) : State :=
  let s := (s.regionPlanes i).foldl (fun s pk => drainPlane true s pk.1 pk.2) s
  s.setSlot i { s.slot i with drained := true }

/-- DRAIN (Table 17.2). -/
def execWinDrain (core : Nat) (s : State) : Out :=
  .next (if winDue s core 3 then winDone (drainLaunch s (s.lodge core).recidx) core stOK 0 else s)

/-- The commands that a launch's threads, ended ones among them, have issued and that have not completed, given up (R351). -/
def dropLaunchCmds (s : State) (i : Nat) : State :=
  let keep := fun (c : Cmd) => c.lnch != i
  s.plots.foldl (fun s e =>
    let s := s.setPlot e.1 { s.plot e.1 with cmds := e.2.cmds.filter keep, inflight := e.2.inflight.filter keep,
                                             mops := e.2.mops.filter keep }
    ((e.2.cmds ++ e.2.inflight).filter fun c => !keep c).foldl (fun s c => dropCmd s e.1 c) s) s

/-- Every handle of a plot FREE (R155). -/
def freeHandles (s : State) (p : Nat) : State :=
  ((List.range 256).filter fun h => (s.tile p h).st != .free).foldl (fun s h => freeTile s p h) s

/-- A context reset by the lodge (R90, R94); the commands it has had accepted go on, as after EXIT. -/
def resetThread (s : State) (t : Nat) : State := freeContext (leaveAll s t) t

/-- What a pre-empted launch holds of its saved threads and streams given up: memberships (R90), carve-outs, their buffers left to
the launch's completion (R176), its commands, and the fills of tiles that its write streams had begun. -/
def resetParked (s : State) (i : Nat) : State :=
  let v := (s.slot i).tenant
  let s := (s.cutsOf i).last.threads.foldl (fun s e =>
    renameThread (leaveBehind (leaveAllOf s v (parkedId i e.1)) e.1 (((s.cutsOf i).last.threads.find? fun d => d.1 = e.1).getD e).2)
      (parkedId i e.1) (endedId i e.1)) s
  let v := (s.cutsOf i).last
  let s := v.cmds.foldl (fun s c => dropCmd s (c.tid % 8192 / 8) c) (s.setSlot i { s.slot i with preempted := false })
  let s := v.ports.foldl (fun s e =>
    if v.rings.any fun r => r.1 / 16 == e.1 / 16 && r.2.plane == e.2.plane && bitAt r.2.pmask (e.1 % 16) then s
    else tileUnfilled s (e.1 / 16) e.2) s
  s.setCuts i { s.cutsOf i with last := { (s.cutsOf i).last with threads := [], cmds := [] } }

/-- A launch's contexts and plots reset (Table 17.2 RESET). -/
def resetLaunch (s : State) (i : Nat) : State :=
  let x := s.slot i
  let s := x.threads.foldl resetThread (dropLaunchCmds (if x.preempted then resetParked s i else s) i)
  let s := s.setSlot i { s.slot i with threads := [], reset_ := true }
  x.lr.plots.foldl (fun s p => if (s.freeCtxs p).length = 8 then freeHandles s p else s) s

/-- RESET (Table 17.2). -/
def execWinReset (core : Nat) (s : State) : Out :=
  .next (if winDue s core 4 then winDone (resetLaunch s (s.lodge core).recidx) core stOK 0 else s)

/-- A launch's completion posted by the lodge with a status, once what its threads have stored and buffered is performed (R303,
R350): whether it is. -/
def postLaunch (s : State) (i status : Nat) : Bool × State :=
  match releaseLaunch s i [] with
  | (true, s) => (true, completeSlot s i (completionOf s i status))
  | (false, s) => (false, s)

/-- POST (Table 17.2). -/
def execWinPost (core : Nat) (s : State) : Out :=
  let l := s.lodge core
  .next (if winDue s core 5 then
      match postLaunch s l.recidx (l.arg % 256) with
      | (true, s) => winDone s core stOK 0
      | (false, s) => s
    else s)

/-- WINDOW_COMMAND_FINISH (R349): a command that has been performed, or whose requirement is unmet, leaves BUSY. -/
def execWindowCommandFinish (core : Nat) (s : State) : Out :=
  let l := s.lodge core
  .next (if l.busy ∧ l.done then s.setLodge core { l with busy := false }
    else if l.busy ∧ !l.begun ∧ !winMet s l then s.setLodge core { l with busy := false, result := stBADARG, data := 0 }
    else s)

end Sys2Proof.Machine
end

