-- ==== Sys2Proof/Machine/Cuts.lean ====
section
/-! DEFINITION. Cuts (R323-R334): alignment of cells and lattices, completion and abandonment, save images, restores,
rollback, pre-emption, and the reset of a context in DOUBLE (R339). -/

namespace Sys2Proof.Config

/-- Pages that an image of what a cut saves takes, below the bound of R329 (log 14). -/
opaque imagePages : Machine.Snap → Nat

end Sys2Proof.Config

namespace Sys2Proof.Machine

/-! Alignment (R324, R325). -/

/-- The numbers of cut markers at the heads of endpoints, where one stands. -/
def headCuts (x : Plane) (eps : List Nat) : List (Option Nat) :=
  eps.map fun ep => match x.headTok ep with
    | some t => (match t.k with | .cut n => some n | _ => none)
    | none => none

/-- Cut markers with a number in an endpoint's buffer. -/
def cutsIn (x : Plane) (ep n : Nat) : Nat := ((x.epBuf ep).filter fun t => t.k == .cut n).length

/-- Whether a node with some inputs finds a skewed marker: two numbers at its heads, or one marker twice on an input. -/
def skewed (x : Plane) (eps : List Nat) : Bool :=
  let ns := (headCuts x eps).filterMap id
  ns.any fun n => ns.any (fun m => m != n) || eps.any fun ep => decide (1 < cutsIn x ep n)

/-- The number of the cut that stands at the head of every one of a node's inputs. -/
def aligned? (x : Plane) (eps : List Nat) : Option Nat :=
  match eps with
  | [] => none
  | ep :: _ =>
    match (headCuts x [ep]).headD none with
    | some n => if (headCuts x eps).all fun m => m = some n then some n else none
    | none => none

/-- The plane's part of cut `n` (Table 16.1): options as they stand, counters. -/
def snapPlane (s : State) (p k n : Nat) : State :=
  saveInto s (s.regionKey p k) n fun v =>
    if v.planes.any fun e => e.1 = p * 4 + k then v
    else
      let x := s.plane p k
      { v with planes := v.planes ++ [(p * 4 + k, { x with src := [], ep := [], agelim := x.written.1, deadtrap := x.written.2, nextOpt := [] })] }

/-- Whether a source of a fired rule's next beat is a token behind a marker. -/
def behindMark (pl : Plane) (x : Cell) (c : Nat) (o : OpWord) (r : Running) (f : SrcField) : Bool :=
  (readSrc pl x c o r f).isNone && (pl.epBuf (c * 8 + (f.x - 24))).any Tok.marker

/-- Whether a DQBFP rule's next beat stalls on a token behind a marker. -/
def dqBehind (pl : Plane) (x : Cell) (c : Nat) (o : OpWord) (r : Running) : Bool :=
  match dqElements x c o { pl := pl, r := r, blk := x.block o } (64 / laneBits o.fmt) with
  | .stall d f => behindMark d.pl x c o d.r f
  | _ => false

/-- Whether a fired rule has beats left and is stalled on a token behind a marker (R105). -/
def stalledBehind (pl : Plane) (x : Cell) (c : Nat) (t : Trigger) (o : OpWord) (r : Running) : Bool :=
  let fs := if o.op = .merge then [if (pinTok pl c).getD false then o.srcA else o.srcB] else o.srcs
  decide (r.beat < t.nm1 + 1) && r.outq.isEmpty &&
  (if o.op = .dqbfp then dqBehind pl x c o r
   else (o.op.usesPin && headMarked pl (160 + c)) || fs.any (behindMark pl x c o r))

/-- Whether a cell's fired rule lets it align: none has a beat left, or it is stalled behind a marker; results have
landed. -/
def cellRests (pl : Plane) (x : Cell) (c now : Nat) : Bool :=
  x.land_.isEmpty &&
  (match x.run with
   | none => true
   | some r => (r.spent && decide (r.due ≤ now)) || (match x.ruleAt r.slot with | some (t, o) => stalledBehind pl x c t o r | none => true))

/-- A cell aligned at cut `n`: its part of the snapshot, the marker on every output queue that feeds an endpoint, its input
markers removed. -/
def alignCell (s : State) (p k c n : Nat) (pl : Plane) (x : Cell) (inputs outs : List Nat) : State :=
  let s := snapPlane s p k n
  let s := saveInto s (s.regionKey p k) n fun v => { v with cells := v.cells ++ [((p * 4 + k) * 16 + c, { x with rules := [] })] }
  let pl := inputs.foldl (fun pl ep => pl.popEp ep) pl
  let pl := outs.foldl (fun pl q => pl.emit (srcCell c q) (.cut n) []) pl
  putCell s p k c (pl, { x with inject := none, cutDone := some n })

/-- CELL_CUT_ALIGN (R324): at a cut marker on every connected input, or at an injected one in a picking cycle. -/
def execCellCutAlign (plot plane cell : Nat) (s : State) : Out :=
  let px := landed s plot plane cell
  let pl := px.1
  let x := px.2
  let inputs := pl.cellInputs cell
  let outs := (List.range 8).filter fun q => !(pl.fed (srcCell cell q)).isEmpty
  if !s.planeRuns plot plane ∨ x.halted then .next s
  else if skewed pl inputs then .next (cellFault (putCell s plot plane cell px) plot plane cell fMarkerSkew 0)
  else
    let n? := if inputs.isEmpty then (if s.residentPlane plot = some plane then x.inject else none) else aligned? pl inputs
    match n? with
    | none => .next s
    | some n =>
      if cellRests pl x cell s.cycle && outs.all fun q => outRoom pl x cell q then
        .next (alignCell s plot plane cell n pl x inputs outs)
      else .next s

/-- The connected channels of a lattice. -/
def latInputs (x : Plane) (l : Nat) : List Nat := [128 + l, 132 + l].filter x.connected

/-- A command that the cut of another lattice has saved, as the cut of lattice `l` finds it: what it has done to the tiles of `l`,
all of it if it has completed. -/
def resave (s : State) (p l : Nat) (c : Cmd) : Cmd :=
  let ofL := fun (n : Nat) => n / 4 == l
  if c.tid % 8192 / 8 = p ∧ c.k.lats.contains l then
    let x := s.plot p
    let mine := c.k.accTiles.filter ofL
    let done := match (x.mops ++ x.cmds).find? fun d => d.id = c.id with
      | some d => mine.filter d.cleared.contains
      | none => mine
    { c with cleared := (c.cleared.filter fun n => !ofL n) ++ done }
  else c

/-- A lattice's part of cut `n` (R206): with its tiles and its commands, those under way in it and those that stand in the
command queue, whose bindings are in its queue already. Each command is saved once, with what it has done to the tiles of each
lattice as that lattice's cut finds it. -/
def snapLat (s : State) (p k l n : Nat) : State :=
  let accs := (List.range 4).map fun i => (p * 16 + 4 * l + i, s.acc p (4 * l + i))
  let x := s.plot p
  saveInto (snapPlane s p k n) (s.regionKey p k) n fun v =>
    let mine := fun (l' : List Cmd) =>
      (l'.filter fun c => c.k.lats.contains l && !(v.ops ++ v.queued).any fun d => d.id == c.id).map fun c =>
        { c with cleared := c.cleared.filter fun n => n / 4 == l }
    { v with lats := v.lats ++ [(p * 4 + l, s.lat p l)], accs := v.accs ++ accs,
             ops := v.ops.map (resave s p l) ++ mine x.mops, queued := v.queued.map (resave s p l) ++ mine x.cmds }

/-- LATTICE_CUT (R206, R324): once every row ahead of the marker is done and no assist is pending; a lattice without a connected
channel has no row ahead of a marker, and cuts when the cut of its region has begun (log 37). -/
def execLatticeCut (plot lat : Nat) (s : State) : Out :=
  let x := s.lat plot lat
  match s.latPlane plot lat with
  | none => .next s
  | some k =>
    let pl := s.plane plot k
    let inputs := latInputs pl lat
    let outs := [srcLat lat false, srcLat lat true].filter fun q => !(pl.fed q).isEmpty
    if !s.latRuns plot lat ∨ x.work.isSome ∨ (s.plot plot).apend.any (fun r => r.lat == lat && !r.dead) then .next s
    else if skewed pl inputs then .next (latFault s plot lat fMarkerSkew 0)
    else
      let c := s.cutsOf (s.regionKey plot k)
      let n? := if inputs.isEmpty then (if c.active ∧ c.parts.contains (plot, k) ∧ x.cutSeen ≠ some c.num then some c.num else none)
        else aligned? pl inputs
      match n? with
      | none => .next s
      | some n =>
        if outs.any fun q => pl.srcRoom q == 0 then .next s
        else
          let s := snapLat s plot k lat n
          let pl := inputs.foldl (fun pl ep => pl.popEp ep) (s.plane plot k)
          let pl := outs.foldl (fun pl q => pl.emit q (.cut n) x.hor) pl
          .next ((s.setPlane plot k pl).setLat plot lat { s.lat plot lat with cutSeen := some n })

/-! Completion (R326). -/

/-- Whether a port's part of cut `n` is taken: that of a read stream, or of a write stream whose endpoint is connected. -/
def portCut (s : State) (p k n i : Nat) : Bool :=
  let x := s.port p i
  !bitAt (s.plane p k).portmask i || !x.holds || x.cutSeen == some n || (x.d.write && !(s.plane p k).connected (136 + i))

/-- Whether a lattice's part of cut `n` is taken; a FAULTED one has none (log 37). -/
def latCut (s : State) (p k n l : Nat) : Bool :=
  let x := s.lat p l
  !bitAt (s.plane p k).latmask l || x.faulted || x.cutSeen == some n

/-- Endpoints at which a marker that waits does not hold a cut back: ports that hold no stream, FAULTED lattices. -/
def idleEp (s : State) (p ep : Nat) : Bool :=
  if 128 ≤ ep ∧ ep < 136 then (s.lat p (ep % 4)).faulted
  else if 136 ≤ ep ∧ ep < 152 then !(s.port p (ep - 136)).holds
  else false

/-- Whether marker `n` has left a plane and every node of it is aligned. -/
def planeCut (s : State) (p k n : Nat) : Bool :=
  let x := s.plane p k
  (List.range 16).all (fun c => (s.cell p k c).cutDone == some n && (s.cell p k c).inject.isNone) &&
  (List.range 16).all (portCut s p k n) && (List.range 4).all (latCut s p k n) &&
  x.src.all (fun e => e.2.all fun t => t.k != .cut n) &&
  x.ep.all fun e => idleEp s p e.1 || e.2.all fun t => t.k != .cut n

/-- Whether a plane in which a region's cut was injected lets it complete: its part is taken. A plane FAULTED since then holds the
cut up, until its launch is stopped (log 37). -/
def partCut (s : State) (r n : Nat) (pk : Nat × Nat) : Bool :=
  match (s.plane pk.1 pk.2).st with
  | .configured => planeCut s pk.1 pk.2 n
  | .faulted => decide (r < 16384) && (s.slot r).stopped
  | _ => true

/-- Whether every part of a region's cut in progress is taken, and no fault waits for its rollback (R326, R332). -/
def cutReady (s : State) (r : Nat) : Bool :=
  let c := s.cutsOf r
  c.active && !(decide (r < 16384) && ((s.slot r).halted || c.pending)) && c.parts.all (partCut s r c.num)

/-- The stores of a region's ports performed. -/
def drainRegion (s : State) (r : Nat) : State :=
  (s.regionPlanes r).foldl (fun s pk =>
    ((List.range 16).filter fun i => bitAt (s.plane pk.1 pk.2).portmask i).foldl (fun s i => drainParty s (.port pk.1 i)) s) s

/-- The rings tied to planes of a region. -/
def regionRings (s : State) (r : Nat) : List (Nat × Ring) :=
  s.rings.filter fun e => e.2.active && (s.regionPlanes r).contains (e.1 / 16, e.2.plane)

/-- The rings as the cut saves them when it completes: those that ports saved take what other producers did since. -/
def snapRings (s : State) (r : Nat) (v : Snap) : List (Nat × Ring) :=
  (regionRings s r).map fun e =>
    let ports := (v.ports.filter fun q => q.1 / 16 = e.1 / 16).map fun q => Producer.port (q.1 % 16)
    (e.1, mergeRing (Tbl.get? v.rings e.1) e.2 ports)

/-! Save images (R328, R329). -/

/-- The most pages an image takes on this part (R329). -/
def imageLimit (planes lats : Nat) : Nat := 1 + 64 * planes + 48 * lats

/-- What a cut saves of a cell, a port, a plane, a lattice (R206), a command and a thread, without what Table 16.1 leaves out: rules,
ageing, dead registers, order horizons, marks, numbers, and what only lasts while the machine runs. -/
def Cell.saved (x : Cell) : Cell :=
  { regs := x.regs.map fun r => if r.st = .full then r else { v := 0, st := .empty }, preds := x.preds, dq := x.dq,
    run := x.run.map fun r => { slot := r.slot, beat := r.beat, cur := r.cur, wrote := r.wrote, accum := r.accum, pk := r.pk } }
def Port.saved (x : Port) : Port :=
  { st := x.st, plane := x.plane, desc := x.desc, after := x.after.map fun e => (e.1, 0), pos := x.pos, count := x.count }
def Plane.saved (x : Plane) : Plane :=
  { agelim := x.agelim, deadtrap := x.deadtrap, fires := x.fires, promo := x.promo, cfault := x.cfault }

def Lat.saved (x : Lat) : Lat :=
  { slots := (x.slots.filter fun e => e.2.st == .valid).map fun e => (e.1, { e.2 with body := [], cmd := 0, tid := 0 }),
    binds := x.binds.map fun b => { cmd := 0, word := b.word, left := b.left, chunk := b.chunk }, rows := x.rows }
def Cmd.saved (c : Cmd) : Cmd := { c with id := 0, tid := c.tid % 8192, cleared := [], begun := 0 }
def Ctx.saved (c : Ctx) : Ctx :=
  { c with st := .stopped, wait := none, stall := none, halted := false, entered := none, carveMem := [],
           fadd := c.fadd.map fun e => { e with num := 0 } }

/-- The state that fixes how many pages an image takes (R329, Table 16.1). -/
def Snap.content (v : Snap) : Snap :=
  { preempt := v.preempt, planes := v.planes.map fun e => (e.1, e.2.saved), cells := v.cells.map fun e => (e.1, e.2.saved),
    ports := v.ports.map fun e => (e.1, e.2.saved), lats := v.lats.map fun e => (e.1, e.2.saved), accs := v.accs, rings := v.rings,
    threads := v.threads.map fun e => (e.1, e.2.saved), cmds := v.cmds.map Cmd.saved }

/-- The pages of an image: at least one, at most the limit (R329, log 14). -/
def imagePagesOf (v : Snap) (planes lats : Nat) : Nat := max 1 (min (Config.imagePages v.content) (imageLimit planes lats))

/-- The bytes of an image: the header of R329, and what the part and the tags fill it with. -/
def imageBytes (slot num pages kind id : Nat) : List Byte :=
  leBytes 4 1 ++ leBytes 2 slot ++ leBytes 2 num ++ leBytes 4 pages ++ leBytes 4 1 ++ leBytes 1 kind ++ leBytes 47 0 ++
    (List.range (4096 * pages - 64)).map fun j => Config.imageByte id j

/-- The lattices that planes claim. -/
def latsOf (s : State) (ps : List (Nat × Nat)) : Nat :=
  (ps.map fun pk => ((List.range 4).filter fun l => bitAt (s.plane pk.1 pk.2).latmask l).length).sum

/-- Where a launch's next image goes: the partition-relative address of the buffer and its size in bytes (R328). -/
def saveBuffer (s : State) (i : Nat) : Nat × Nat :=
  let t := s.tenant (s.slot i).tenant
  let unit_ := bitsAt t.savecfg.toNat 0 16 * 65536
  (bitsAt t.savecfg.toNat 16 32 * 65536 + (2 * (i - t.recFirst) + (s.cutsOf i).buffer) * unit_, unit_)

/-- Whether a cut of a region writes an image: it is a running launch's, of a tenant with launch-record slots (R328). -/
def writesImage (s : State) (r : Nat) : Bool := decide (r < 16384) && decide (0 < (s.tenant (s.slot r).tenant).recCount)

/-- Whether an image of a number of pages can be written where a launch's next one goes: its buffer holds it and ends below
PLIMIT. -/
def imageFits (s : State) (i pages : Nat) : Bool :=
  let b := saveBuffer s i
  decide (4096 * pages ≤ b.2) && praOk (s.tenant (s.slot i).tenant) b.1 b.2

/-- The pages of a region's image of what a cut saves. -/
def State.imageSize (s : State) (r : Nat) (v : Snap) : Nat :=
  imagePagesOf v (s.regionPlanes r).length (latsOf s (s.regionPlanes r))

/-- A cut's image written, COMPLETE included, and what the cut took kept with it. -/
def writeImage (s : State) (i : Nat) (v : Snap) : State :=
  let c := s.cutsOf i
  let t := s.tenant (s.slot i).tenant
  let b := saveBuffer s i
  let n := s.imageSize i v
  let id := s.free
  let bytes := imageBytes i c.num n (if c.preempt then 1 else 0) id
  let s := { putMem s (t.pbase + b.1) bytes with free := s.free + 1 }
  s.setCuts i { c with lastNum := c.num, exists_ := true, rolled := false, buffer := 1 - c.buffer, replay := [],
                       last := { v with image := some (b.1, n, id) } }

/-! Signals held (R334). -/

/-- Every held signal of a region takes effect in order, and its launch holds back no gate any more. -/
def releaseHeldSignals (s : State) (r : Nat) : State :=
  let c := s.cutsOf r
  let s := s.setCuts r { c with held := [] }
  let s := { s with gates := Tbl.mapVals (fun _ g => { g with deferBy := g.deferBy.filter fun i => i ≠ r }) s.gates }
  c.held.foldl releaseSignal s

/-- Replicas whose retirement waited for a cut retire (R307). -/
def retireReplicas (s : State) (r : Nat) : State :=
  if r < 16384 then
    let x := s.slot r
    (x.retiring.filter x.threads.contains).foldl setRetire (s.setSlot r { x with retiring := [] })
  else s

/-- The threads of a launch and their commands not yet started, for a pre-emption cut (Table 16.1): those that its lattices' cuts
have saved are saved with them. -/
def snapThreads (s : State) (r : Nat) (v : Snap) : Snap :=
  let ts := (s.slot r).threads
  { v with threads := ts.map fun t => (t, s.thread t),
           cmds := ts.flatMap fun t => (s.plot (t / 8)).cmds.filter fun c => c.tid = t && !(v.ops ++ v.queued).any fun d => d.id == c.id }

/-- The FAULTED ports of a region's planes (Table 16.1): they take no marker. -/
def faultedPorts (s : State) (r : Nat) : List (Nat × Port) :=
  (s.regionPlanes r).flatMap fun pk =>
    ((List.range 16).filter fun n => bitAt (s.plane pk.1 pk.2).portmask n && (s.port pk.1 n).st == .faulted).map fun n =>
      (pk.1 * 16 + n, s.port pk.1 n)

/-- What a cut in progress saves, whole. -/
def snapWhole (s : State) (r : Nat) : Snap :=
  let c := s.cutsOf r
  let v := { c.saving with rings := snapRings s r c.saving,
                           ports := c.saving.ports ++ (faultedPorts s r).filter fun e => !c.saving.ports.any fun d => d.1 = e.1 }
  if c.preempt ∧ r < 16384 then snapThreads s r v else v

/-- Whether the store of a held update was made ahead of the markers of the cut that completes: a port's before its port consumed the
marker, any other by now. -/
def State.aheadOfCut (s : State) (u : DUpd) : Bool :=
  match u.party with
  | .port p n => let x := s.port p n; x.cutSeen.isNone || decide (u.pend < x.cutAt)
  | _ => true

/-- The derived updates of a launch's streams as a cut of its region completes (R287): those of stores ahead of the markers are
applied as a batch. The cut of a pre-emption or a plot move regroups no batch (R382): it only fixes those of its ports that no
rollback takes back any more (R383). -/
def cutBatch (s : State) (i : Nat) : State :=
  let c := s.cutsOf i
  if c.preempt ∨ c.moving then
    let keep := fun (u : DUpd) => { u with kept := u.kept || (u.ofStreams i && s.aheadOfCut u) }
    { s with regions := Tbl.mapVals (fun _ r => { r with held := r.held.map keep }) s.regions }
  else mergeStreams s i fun u => u.kept || s.aheadOfCut u

/-- CUT_COMPLETE (R326): the region's stores are performed, its image written if it writes one, its derived batch applied, its held
signals released. -/
def completeCut (s : State) (r : Nat) : State :=
  let s := drainRegion s r
  let v := { snapWhole s r with upto := s.nextId }
  let s := if writesImage s r then writeImage s r v else s
  let s := if r < 16384 then cutBatch s r else s
  let s := s.setCuts r { s.cutsOf r with active := false, marked := [], saving := {}, abandoned := false }
  retireReplicas (releaseHeldSignals (clearMarks s r) r) r

/-- CUT_COMPLETE. -/
def execCutComplete (r : Nat) (s : State) : Out :=
  .next (if cutReady s r ∧ (!writesImage s r ∨ imageFits s r (s.imageSize r (snapWhole s r))) then completeCut s r else s)

/-- CUT_ABANDON (R328): the image cannot be written; the previous complete cut remains the last one. -/
def abandonCut (s : State) (r : Nat) : State :=
  let c := s.cutsOf r
  let s := clearMarks s r
  let s := s.setCuts r { c with active := false, marked := [], saving := {}, abandoned := true }
  faultRecord s (s.slot r).tenant cPreempt 6 r 0 (BitVec.ofNat 64 (c.num + 2 ^ 16)) 0

/-- CUT_ABANDON. -/
def execCutAbandon (r : Nat) (s : State) : Out :=
  .next (if cutReady s r ∧ writesImage s r ∧ !imageFits s r (s.imageSize r (snapWhole s r)) then abandonCut s r else s)

/-- PERIODIC_CUT (R326): the lodge cuts a rollback-safe launch's region every CUTINT. -/
def execPeriodicCut (slot : Nat) (s : State) : Out :=
  let x := s.slot slot
  let c := s.cutsOf slot
  let since := max c.begun x.start
  if x.st = .running ∧ !x.stopped ∧ !x.halted ∧ !x.preempted ∧ !x.preempting ∧ s.isRollback (some slot) ∧ !c.active ∧
      !(s.regionPlanes slot).isEmpty ∧ cyclesOfUs (s.tenant x.tenant).cutint ≤ s.cycle - since then
    .next (lodgeCut s slot false)
  else .next s

/-! Restores (R330, R332). -/

/-- A slot's image read (R330): whether it stands intact where it was written, without an uncorrectable error and with every tag
matching, or has still to come from another package. -/
def imageRead (s : State) (i : Nat) (v : Snap) : Reach × State :=
  let t := s.tenant (s.slot i).tenant
  match v.image with
  | none => (.failed, s)
  | some (pra, n, id) =>
    let a := t.pbase + pra
    if !praOk t pra (4096 * n) ∨ s.badMem.any fun l => decide (l * 64 < a + 4096 * n) && decide (a < l * 64 + 64) then (.failed, s)
    else
      match devRead s (imageParty i) a (4096 * n) with
      | (.wait, _, s) => (.wait, s)
      | (.failed, _, s) => (.failed, endReach s (imageParty i))
      | (.here, b, s) =>
        (if b = imageBytes i v.num n (if v.preempt then 1 else 0) id then .here else .failed, endReach s (imageParty i))

/-- A cell restored: a register dead in the image reads 0 (R100); ageing starts again (R108). -/
def restoreCell (now : Nat) (cur : Cell) (old : Option Cell) : Cell :=
  match old with
  | none => { rules := cur.rules }
  | some o =>
    { regs := o.regs.map (fun r => if r.st = RegSt.dead then { v := 0, st := .dead } else r), preds := o.preds, rules := cur.rules,
      run := o.run.map fun r => { r with due := now }, dq := o.dq }

/-- A port restored: its saved stream at its saved beat; a stream bound since restarts from its first beat (R332), one that has
FAULTED since among them. -/
def restorePort (cur : Port) (old : Option Port) : Port :=
  let fresh : Port := { st := cur.st, plane := cur.plane, desc := cur.desc, begun := cur.begun, after := cur.after, serial := cur.serial,
                        tid := cur.tid, asid := cur.asid, lnch := cur.lnch }
  match old with
  | none => if cur.holds then fresh else if cur.st = .faulted then { fresh with st := .bound } else { fresh with st := .idle }
  | some o =>
    if (cur.holds ∨ cur.st = .faulted) ∧ cur.serial ≠ o.serial then { fresh with st := .bound }
    else { o with marker := none, cutSeen := none, fatal := none, stalled := false, stores := [], hor := [], ended := false }

/-- Slots of a restored lattice: those VALID or LOADING at the cut are loaded again from their sources; those that an
MLOAD accepted since is loading go on, and one whose load under way at the cut has failed since stays FAILED (R215). -/
def restoreSlots (cur old : Lat) (keep : List Nat) : Tbl WSlot :=
  let was := (old.slots.filter fun e => e.2.st == .valid || e.2.st == .loading).map fun e =>
    (e.1, { e.2 with st := .loading, body := [], cmd := if e.2.st = .valid then 0 else e.2.cmd })
  (cur.slots.filter fun e => (e.2.st == .loading && keep.contains e.2.cmd) || (e.2.st == .failed && (old.slot e.1).st == .loading)).foldl
    (fun t e => Tbl.set t e.1 e.2) was

/-- A binding of a restored lattice: the one that ran starts its reload again, another starts again. -/
def restoreBind (b : Binding) : Binding := { b with started := b.active, active := false }

/-- Whether a binding's slot is FAILED: such a binding fires no row and goes when the lattice leaves FAULTED (R215). -/
def Lat.failedBind (x : Lat) (b : Word) : Bool := (x.slot (bSlot b)).st == .failed

/-- What a cut saved of lattices and their commands, without the loads under way at the cut that have failed since, and the bindings
that name their slots (R215). -/
def pruneFailed (s : State) (v : Snap) : Snap :=
  let lost := fun (key n : Nat) =>
    ((s.lat (key / 4) (key % 4)).slot n).st == .failed && ((Tbl.getD v.lats key {}).slot n).st == .loading
  let keep := fun (c : Cmd) =>
    let key := c.tid % 8192 / 8 * 4
    match c.k with
    | .mload l n _ _ => !lost (key + l) n
    | .mbind b => !lost (key + bLat b) (bSlot b)
    | _ => true
  { v with lats := v.lats.map fun e => (e.1, { e.2 with binds := e.2.binds.filter fun b => !lost e.1 (bSlot b.word) }),
           ops := v.ops.filter keep, queued := v.queued.filter keep }

/-- A lattice restored (R206): its binding queue with the rows each binding has left, then the bindings accepted since and
not completed, whole again, but for those whose slot has FAILED. `keep` are the commands accepted since. -/
def restoreLat (cur old : Lat) (keep : List Nat) : Lat :=
  let slots := restoreSlots cur old keep
  let later := (cur.binds.filter fun b => keep.contains b.cmd && !cur.failedBind b.word).map fun b =>
    ({ cmd := b.cmd, word := b.word, left := bRows b.word, chunk := b.chunk } : Binding)
  { slots := slots, free := 6144 - (slots.map fun e => e.2.lines).sum, binds := old.binds.map restoreBind ++ later,
    splitCnt := old.splitCnt - (old.binds.filter fun b => bSplit b.word && b.started && !b.active).length,
    actSlot := old.actSlot, rows := old.rows, readPos := old.readPos }

/-- Whether a command is an MBIND whose slot has FAILED on a plot. -/
def State.failedCmd (s : State) (p : Nat) (c : Cmd) : Bool :=
  match c.k with | .mbind b => (s.lat p (bLat b)).failedBind b | _ => false

/-- Commands of a plot without the MBINDs accepted since a cut whose slots have FAILED (R215). -/
def dropFailed (s : State) (p : Nat) (v : Snap) : State :=
  let x := s.plot p
  let keep := fun (c : Cmd) => (v.ops ++ v.queued).any (fun d => d.id == c.id) || !s.failedCmd p c
  s.setPlot p { x with cmds := x.cmds.filter keep, mops := x.mops.filter keep, inflight := x.inflight.filter keep }

/-- Whether a command under way starts again after a restore from a cut (R332): one of the lattices that the cut does not hold, any
other if it was accepted after the cut; a load of a plane goes on. -/
def Cmd.restarts (c : Cmd) (upto : Nat) : Bool :=
  match c.k with
  | .scfg _ _ _ => false
  | _ => !c.k.lats.isEmpty || decide (upto ≤ c.id)

/-- Commands of a launch's threads on a plot after a restore: those the cut saved are under way again, in the order they started, or
in the queue again; those accepted since and not completed start again, in acceptance order, ahead of those not yet started. -/
def restoreCmds (s : State) (p i : Nat) (v : Snap) : State :=
  let x := s.plot p
  let ofP := fun (l : List Cmd) => l.filter fun c => decide (c.tid % 8192 / 8 = p)
  let old := fun (c : Cmd) => (ofP (v.ops ++ v.queued)).any fun d => d.id == c.id
  let here := (x.mops ++ x.inflight).filter fun c => c.lnch == i && !old c && c.restarts v.upto
  let again := (ofP v.queued ++ here.map fun (c : Cmd) => { c with cleared := [], begun := 0 }).mergeSort fun a b => decide (a.id ≤ b.id)
  let rest := fun (l : List Cmd) => l.filter fun c => !(here.any fun d => d.id == c.id) && !old c
  let ops := (ofP v.ops ++ rest x.mops).mergeSort fun a b => decide (a.begun ≤ b.begun)
  let s := here.foldl (fun s c => match c.k with
    | .nbdot m _ => if (s.mbox m).cmd.isSome then s.setMbox m { s.mbox m with cmd := none } else s
    | _ => s) s
  s.setPlot p { x with cmds := again ++ rest x.cmds, mops := ops, inflight := rest x.inflight }

/-- The commands of a plot that a restore keeps: accepted and not completed, and not among those saved. -/
def keptCmds (s : State) (p : Nat) (v : Snap) : List Nat :=
  let x := s.plot p
  ((x.cmds ++ x.mops ++ x.inflight).map fun c => c.id).filter fun i => !((v.ops ++ v.queued).any fun d => d.id = i)

/-- A plane of a region restored: its tokens discarded, its counters and options as saved, CONFIGURED. -/
def restorePlane (s : State) (p k : Nat) (v : Snap) : State :=
  let x := s.plane p k
  let old := ((v.planes.find? fun e => e.1 = p * 4 + k).map fun e => e.2).getD x
  let s := s.setPlane p k { x with st := .configured, src := [], ep := [], fires := old.fires, promo := old.promo, cfault := old.cfault,
                                   agelim := old.agelim, deadtrap := old.deadtrap, nextOpt := [], entryCuts := [] }
  let s := (List.range 16).foldl (fun s c =>
    s.setCell p k c (restoreCell s.cycle (s.cell p k c) (Tbl.get? v.cells ((p * 4 + k) * 16 + c)))) s
  let s := ((List.range 16).filter fun n => bitAt x.portmask n).foldl (fun s n =>
    let s := withdraw (drainParty s (.port p n)) (.port p n)
    s.setPort p n (restorePort (s.port p n) ((v.ports.find? fun e => e.1 = p * 16 + n).map fun e => e.2))) s
  let keep := keptCmds s p v
  ((List.range 4).filter fun l => bitAt x.latmask l).foldl (fun s l =>
    match (v.lats.find? fun e => e.1 = p * 4 + l).map fun e => e.2 with
    | some o =>
      let s := s.setLat p l (restoreLat (s.lat p l) o keep)
      let s := s.setPlot p { s.plot p with apend := (s.plot p).apend.map fun r => if r.lat = l then { r with dead := true } else r }
      (List.range 4).foldl (fun s i =>
        s.setAcc p (4 * l + i) (((v.accs.find? fun e => e.1 = p * 16 + 4 * l + i).map fun e => e.2).getD {})) s
    | none =>
      let y := s.lat p l
      s.setLat p l { y with faulted := false, work := none, binds := y.binds.filter fun b => !y.failedBind b.word }) s

/-- A region restored from what a cut saved: every node, the rings with the markers that producers outside the region have
delivered since, the commands. A cut in progress is given up; those that a retirement has begun begin anew (R377). -/
def restoreRegion (s : State) (i : Nat) (v : Snap) : State :=
  let v := pruneFailed s v
  let planes := (s.regionPlanes i).filter fun pk => (s.plane pk.1 pk.2).st != .loading && !(s.plane pk.1 pk.2).routes.isEmpty
  let plots := planes.foldl (fun l pk => if l.contains pk.1 then l else l ++ [pk.1]) []
  let s := plots.foldl (fun s p => dropFailed s p v) s
  let s := planes.foldl (fun s pk => restorePlane s pk.1 pk.2 v) s
  let s := plots.foldl (fun s p => endSmarks (restoreCmds s p i v) p) s
  let s := v.rings.foldl (fun s e => s.setRing (e.1 / 16) (e.1 % 16) e.2) s
  let c := s.cutsOf i
  let anew := fun (w : Wear) => if (w.cuts.getD []).contains i then { w with cuts := none } else w
  let s := if c.active ∧ c.moving then { s with wear := s.wear.map anew } else s
  let saved := fun (h : HeldSig) => match h with | .fill k _ => v.rings.any fun e => e.1 == k | .streamEnd _ => true | .phase _ => false
  let s := s.setCuts i { c with active := false, lodge := false, preempt := false, marked := [], saving := {}, replay := [], pending := false,
                                held := c.held.filter fun h => !saved h && (match h with | .fill _ byChan => byChan | _ => true) }
  c.replay.foldl (fun s e => if (s.ring (e.1 / 16) (e.1 % 16)).active then ringMark s (e.1 / 16) (e.1 % 16) (.chan e.2) else s) s

/-- A restore that finds a bad page (R330): the launch becomes UNRESTORABLE and completes with STATUS INTEGRITY; its units
are cleared. -/
def restoreFailed (s : State) (i : Nat) : State :=
  let s := s.setSlot i { s.slot i with first := cIntegrity }
  let s := faultRecord s (s.slot i).tenant cIntegrity 7 i 0 0 0
  let s := resetLaunch (drainLaunch (stopLaunch s i) i) i
  finishLaunch (s.setSlot i { s.slot i with status := 4, stopped := false, drained := false, reset_ := false, preempted := false }) i

/-- The bits that elements had before the updates of some stores, each element's first, that are taken back. -/
def redoOf (old : List (Nat × Nat × BitVec 32)) (ups : List DUpd) : List (Nat × Nat × BitVec 32) :=
  ups.foldl (fun l u => u.elts.foldl (fun l e =>
    if l.any fun x => decide (x.1 = u.row) && decide (x.2.1 = e.1) then l else l ++ [(u.row, e.1, e.2.1)]) l) old

/-- Updates that a reproducible launch holds of its region's ports since the cut that it returns to, discarded (R383): their stores
stand and are performed again, and then change the elements from what they held before. -/
def dropPortUpdates (s : State) (i : Nat) : State :=
  let mine := fun (u : DUpd) => u.lnch == some i && !u.kept && (match u.party with | .port _ _ => true | _ => false)
  { s with regions := Tbl.mapVals (fun _ r =>
      { r with held := r.held.filter fun u => !mine u, redo := redoOf r.redo (r.held.filter mine) }) s.regions }

/-- What reading an image again gives. -/
inductive Reread where
  /-- Its words, which are the image of a plane that was loaded before. -/
  | ok (img : List Byte)
  /-- A page is missing. -/
  | wait
  /-- It cannot be read, or is no image that can be loaded. -/
  | bad
  deriving DecidableEq, Repr

/-- A plane's image read again for tenant `v`. -/
def rereadImage (s : State) (p k v : Nat) (x : Plane) : Reread × State :=
  match unitRead s (.core p) v x.asid (segsOf x.image (imageHeader + imageRest)) with
  | ((.wait, _, _), s) => (.wait, s)
  | ((.ok _, _, b), s) =>
    let h := b.take imageHeader
    (if !hdrOk s p v h ∨ claimsClash s p k h ∨ (illegalSlot (b.drop imageHeader)).isSome then .bad else .ok b, s)
  | (_, s) => (.bad, s)

/-- A plane of launch `i` loaded again from its image. -/
def reloadPlane (i : Nat) (s : State) (e : Nat × Plane × List Byte) : State :=
  let p := e.1 / 4
  let k := e.1 % 4
  configure (loadBegin s p k (e.2.2.take imageHeader) e.2.1.image e.2.1.asid (some i)) p k (e.2.2.drop imageHeader)

/-- The FAULTED planes of a region that hold no configuration, because their load could not be read. -/
def brokenPlanes (s : State) (r : Nat) : List (Nat × Nat) :=
  (s.regionPlanes r).filter fun pk => (s.plane pk.1 pk.2).st == .faulted && (s.plane pk.1 pk.2).routes.isEmpty

/-- Such planes loaded again ahead of a rollback, each from the image of the plane that cut `v` saved, or else from its own: none
while a page is missing. One whose image cannot be read stays FAULTED, and its launch completes with STATUS FAULT (log 37). -/
def reloadBroken (s : State) (i : Nat) (v : Snap) : List (Nat × Nat) → Option State × State
  | [] => (some s, s)
  | (p, k) :: rest =>
    let x := (Tbl.get? v.planes (p * 4 + k)).getD (s.plane p k)
    match rereadImage s p k (s.slot i).tenant x with
    | (.wait, s) => (none, s)
    | (.ok b, s) => reloadBroken (reloadPlane i s (p * 4 + k, x, b)) i v rest
    | (.bad, s) => reloadBroken (s.setSlot i { s.slot i with status := 3 }) i v rest

/-- ROLLBACK (R332), for a fault that waits for it. -/
def execRollback (slot : Nat) (s : State) : Out :=
  let x := s.slot slot
  let c := s.cutsOf slot
  if x.st ≠ .running ∨ x.drained ∨ x.halted ∨ x.preempted ∨ !c.pending then .next s
  else
    match imageRead s slot c.last with
    | (.wait, s) => .next s
    | (.failed, s) => .next (restoreFailed s slot)
    | (.here, s) =>
      match reloadBroken s slot c.last (brokenPlanes s slot) with
      | (none, s) => .next s
      | (some s, _) =>
        let s := dropPortUpdates (restoreRegion s slot c.last) slot
        .next (s.setCuts slot { s.cutsOf slot with rolled := true })

/-! Pre-emption (R331). -/

/-- A STOPPED thread's state as it stands when it runs again: a waiting instruction begins again with its full limit; in SBAR it
is still waiting (R90), and one that its event has released returns (R221, R295). -/
def resumed (c : Ctx) : Ctx :=
  match c.st with
  | .stopped =>
    match c.wait with
    | some w =>
      let stays := match w.instr with | .sbar _ _ => true | .gwait _ _ _ | .drd _ _ _ _ => w.mark == 1 | _ => false
      if stays then { c with st := .waiting, stall := none, halted := false }
      else { c with st := .running, wait := none, stall := none, halted := false }
    | none => { c with st := .running, stall := none, halted := false }
  | _ => c

/-- Ports of a region reopened. -/
def reopen (s : State) (ports : List Nat) : State :=
  ports.foldl (fun s n =>
    let x := s.port (n / 16) (n % 16)
    if x.st = .closed then s.setPort (n / 16) (n % 16) { x with st := .bound } else s) s

/-- The second and third steps of a pre-emption: the read ports close, the cut is injected. -/
def preemptCut (s : State) (i : Nat) : State :=
  let open_ := ((regionReaders s i).filter fun e => (s.port e.1 e.2).st == .bound).map fun e => e.1 * 16 + e.2
  let s := lodgeCut (closeReaders s i) i true
  s.setCuts i { s.cutsOf i with shut := open_ }

/-- The first steps of a pre-emption: the threads stop, the read ports close, the cut is injected (log 49). -/
def preemptBegin (s : State) (i : Nat) : State :=
  let s := preemptCut ((s.slot i).threads.foldl stopThread s) i
  s.setSlot i { s.slot i with preempting := true }

/-- A pre-emption whose cut was abandoned: the launch runs on (log 49). -/
def preemptUndo (s : State) (i : Nat) : State :=
  let s := (s.slot i).threads.foldl (fun s t => s.setThread t (resumed (s.thread t))) s
  let s := reopen s (s.cutsOf i).shut
  s.setSlot i { s.slot i with preempting := false }

/-- Whether a command that has started goes on while its thread is pre-empted: fills and drains of tiles, and near-bank commands, whose
units a pre-emption leaves at work. -/
def CmdKind.goesOn (k : CmdKind) : Bool := match k with | .tfill _ _ | .tdrain _ _ | .nbdot _ _ => true | _ => false

/-- A context of launch `i` emptied without ending its thread: memberships, arrivals, what it has under way and its carve-out stay,
under the number that the saved thread has while it is away. -/
def vacate (i : Nat) (s : State) (t : Nat) : State :=
  let s := withdraw s (.thread t)
  let x := s.plot (t / 8)
  let keep := fun (c : Cmd) => decide (c.tid ≠ t)
  let s := s.setPlot (t / 8) { x with cmds := x.cmds.filter keep, inflight := x.inflight.filter (fun c => keep c || c.k.goesOn),
                                      mops := x.mops.filter keep }
  renameThread { s with threads := Tbl.del s.threads t } t (parkedId i t)

/-- The last steps of a pre-emption: planes unloaded, contexts FREE, PREEMPT recorded; the watchdog stops. What the stopped threads
hold, and which of their commands have not started, is what they hold as they leave. -/
def preemptEnd (s : State) (i : Nat) : State :=
  let x := s.slot i
  let n := (s.cutsOf i).lastNum
  let s := s.setCuts i { s.cutsOf i with last := snapThreads s i (s.cutsOf i).last }
  let s := (s.regionPlanes i).foldl (fun s pk => drainPlane false s pk.1 pk.2) s
  let s := x.threads.foldl (vacate i) s
  let s := s.setSlot i { s.slot i with threads := [], preempting := false, preempted := true,
                                       wdLeft := x.wdLeft.map (fun w => w - (s.cycle - x.wdFrom)), wdFrom := s.cycle }
  faultRecord s x.tenant cPreempt 6 i 0 (BitVec.ofNat 64 n) 0

/-- Whether a launch has a context in DOUBLE or ENDING, which cannot stop (Table 4.2): its pre-emption waits until that context
is reset or has ended (log 49). -/
def State.unstoppable (s : State) (i : Nat) : Bool :=
  (s.slot i).threads.any fun t => (s.thread t).st == .double || (s.thread t).st == .ending

/-- PREEMPTION (R331). A cut that a rollback has given up is injected anew. -/
def execPreemption (slot : Nat) (s : State) : Out :=
  let x := s.slot slot
  let c := s.cutsOf slot
  if x.st ≠ .running ∨ x.stopped ∨ x.halted ∨ x.preempted ∨ c.active then .next s
  else if !x.preempting then .next (if s.unstoppable slot then s else preemptBegin s slot)
  else if !c.preempt then .next (preemptCut s slot)
  else if c.abandoned ∨ !writesImage s slot then .next (preemptUndo s slot)
  else .next (preemptEnd s slot)

/-- The images of a pre-empted launch's planes read for their loads into the same planes of the same plots: none while one cannot
be. -/
def readPlanes (s : State) (v : Nat) : List (Nat × Plane) → Option (List (Nat × Plane × List Byte)) × State
  | [] => (some [], s)
  | (key, x) :: rest =>
    let p := key / 4
    let k := key % 4
    if (s.plane p k).st ≠ .unconfigured ∨ s.planeOwner p k ≠ some v then (none, s)
    else
      match rereadImage s p k v x with
      | (.ok b, s) => (match readPlanes s v rest with | (some l, s) => (some ((key, x, b) :: l), s) | (none, s) => (none, s))
      | (_, s) => (none, s)

/-- The threads of a pre-empted launch placed again in the contexts they left, with their commands. -/
def replaceThreads (s : State) (i : Nat) (v : Snap) : State :=
  let s := v.threads.foldl (fun s t => renameThread (s.setThread t.1 (resumed t.2)) (parkedId i t.1) t.1) s
  let plots := v.threads.foldl (fun l t => if l.contains (t.1 / 8) then l else l ++ [t.1 / 8]) []
  let s := plots.foldl (fun s p =>
    let x := s.plot p
    s.setPlot p { x with cmds := x.cmds ++ (s.cutsOf i).last.cmds.filter fun c => c.tid / 8 = p }) s
  s.setSlot i { s.slot i with threads := v.threads.map fun t => t.1, preempted := false, wdFrom := s.cycle }

/-- Whether a plot takes a pre-empted launch's threads again, as a plot takes a launch's (R363, R367): its tenant holds it, and no
token that the launch needs is outstanding. -/
def plotTakes (s : State) (x : Slot) (p : Nat) : Bool :=
  let k := x.lr.plane
  s.plotOwner p == some x.tenant && !(s.plot p).scrubbing && !(s.plane p k).scrubbing &&
  (!bitAt x.lr.flags 2 || (!tokenAwaited s p k && !tokenBarred s p k))

/-- Whether a lattice that a saved plane claims still finishes a row of an earlier claim (R187). -/
def latsBusy (s : State) (planes : List (Nat × Plane)) : Bool :=
  planes.any fun e => (List.range 4).any fun l => bitAt e.2.latmask l && (s.lat (e.1 / 4) l).ending

/-- PREEMPTION_RESUME (R331). -/
def execPreemptionResume (slot : Nat) (s : State) : Out :=
  let x := s.slot slot
  let c := s.cutsOf slot
  if !x.preempted ∨ x.halted ∨ x.stopped ∨ latsBusy s c.last.planes ∨
      c.last.threads.any (fun t => (s.thread t.1).st != .free || !plotTakes s x (t.1 / 8)) then .next s
  else
    match imageRead s slot c.last with
    | (.wait, s) => .next s
    | (.failed, s) => .next (restoreFailed s slot)
    | (.here, s) =>
      match readPlanes s x.tenant c.last.planes with
      | (none, s) => .next s
      | (some l, s) =>
        let s := l.foldl (reloadPlane slot) s
        let s := dropPortUpdates (replaceThreads (restoreRegion s slot c.last) slot c.last) slot
        .next (reopen (s.setCuts slot { s.cutsOf slot with shut := [] }) c.shut)

/-! DOUBLE (R339). -/

/-- DOUBLE_RESET (R339): the record, the context reset, and the launch to complete with STATUS FAULT and the original
cause. -/
def execDoubleReset (tid : Nat) (s : State) : Out :=
  let c := s.thread tid
  let i := c.lnch
  if c.st ≠ .double then .next s
  else
    let x := s.slot i
    let at_ := (unfetchable s (.thread tid) c.pc).getD c.pc
    let s := s.setSlot i { x with status := 3, first := if x.first = 0 then bitsAt c.ecause.toNat 0 8 else x.first }
    let s := faultRecord s (c.tenant.getD 64) cDouble 0 i tid (BitVec.ofNat 64 (bitsAt c.ecause.toNat 0 8)) at_
    let s := resetThread s tid
    .next (s.setSlot i { s.slot i with threads := (s.slot i).threads.filter fun t => t ≠ tid })

end Sys2Proof.Machine
end

