-- ==== Sys2Proof/Machine/Sha3.lean ====
section
/-! DEFINITION. SHA3-256, which the manual names for digests (R364, R371); its rounds are those of the published standard
(log 13). A state is 25 lanes of 64 bits, lane x + 5y. -/

namespace Sys2Proof.Machine

/-- The lanes that the 24 rounds add to lane 0. -/
def roundLanes : List Word :=
  [0x0000000000000001, 0x0000000000008082, 0x800000000000808A, 0x8000000080008000, 0x000000000000808B, 0x0000000080000001,
   0x8000000080008081, 0x8000000000008009, 0x000000000000008A, 0x0000000000000088, 0x0000000080008009, 0x000000008000000A] ++
  [0x000000008000808B, 0x800000000000008B, 0x8000000000008089, 0x8000000000008003, 0x8000000000008002, 0x8000000000000080,
   0x000000000000800A, 0x800000008000000A, 0x8000000080008081, 0x8000000000008080, 0x0000000080000001, 0x8000000080008008]

/-- How far each lane turns. -/
def laneTurns : List Nat :=
  [0, 1, 62, 28, 27, 36, 44, 6, 55, 20, 3, 10, 43, 25, 39, 41, 45, 15, 21, 8, 18, 2, 61, 56, 14]

/-- A lane of a list. -/
def hashLane (a : List Word) (i : Nat) : Word := a.getD i 0

/-- Each column's parity spread over its neighbours. -/
def spreadParity (a : List Word) : List Word :=
  let c := (List.range 5).map fun x => hashLane a x ^^^ hashLane a (x + 5) ^^^ hashLane a (x + 10) ^^^ hashLane a (x + 15) ^^^ hashLane a (x + 20)
  (List.range 25).map fun i => hashLane a i ^^^ hashLane c ((i + 4) % 5) ^^^ (hashLane c ((i + 1) % 5)).rotateLeft 1

/-- Lanes turned and moved: the lane of column x, row y goes to column y, row 2x + 3y. -/
def moveLanes (a : List Word) : List Word :=
  (List.range 25).map fun i =>
    let src := (i % 5 + 3 * (i / 5)) % 5 + 5 * (i % 5)
    (hashLane a src).rotateLeft (laneTurns.getD src 0)

/-- Each lane mixed with the next two of its row. -/
def mixRows (b : List Word) : List Word :=
  (List.range 25).map fun i =>
    let row := i / 5 * 5
    hashLane b i ^^^ (~~~(hashLane b (row + (i + 1) % 5)) &&& hashLane b (row + (i + 2) % 5))

/-- One round. -/
def keccakRound (a : List Word) (k : Word) : List Word :=
  match mixRows (moveLanes (spreadParity a)) with
  | [] => []
  | l :: ls => (l ^^^ k) :: ls

/-- The permutation of a state. -/
def keccak (a : List Word) : List Word := roundLanes.foldl keccakRound a

/-- A message with its end marked, in whole blocks of 136 bytes. -/
def sha3Pad (bs : List Byte) : List Byte :=
  let n := 136 - bs.length % 136
  bs ++ (if n = 1 then [0x86] else 0x06 :: List.replicate (n - 2) 0 ++ [0x80])

/-- `n` blocks taken into a state. -/
def absorb (a : List Word) (bs : List Byte) : Nat → List Word
  | 0 => a
  | n + 1 =>
    absorb (keccak ((List.range 25).map fun i =>
      if i < 17 then hashLane a i ^^^ leWord ((bs.drop (8 * i)).take 8) else hashLane a i)) (bs.drop 136) n

/-- The SHA3-256 digest of a byte sequence. -/
def digest (bs : List Byte) : List Byte :=
  let m := sha3Pad bs
  ((absorb (List.replicate 25 0) m (m.length / 136)).take 4).flatMap fun w => leBytes 8 w.toNat

end Sys2Proof.Machine
end

