-- ==== Sys2Proof/Machine/Tenants.lean ====
section
/-! DEFINITION. Tenants and the scrub engine (R352-R370): scrub requests, clearing, hand-over, tokens, and the
acknowledgement of fault records (R357). -/

namespace Sys2Proof.Machine

/-! Unit descriptors (Table 18.4). -/

/-- The kind and the index bits of a descriptor. -/
def unitKind (u : Word) : Nat := bitsAt u.toNat 56 8
def unitIndex (u : Word) : Nat := bitsAt u.toNat 0 56

/-- Whether a descriptor's kind is known, its fields in range and its res0 bits zero. -/
def unitOk (u : Word) : Bool :=
  let i := unitIndex u
  match unitKind u with
  | 1 => decide (i < 640)
  | 2 | 3 => decide (i < 4096) && decide (i % 1024 < 640)
  | 4 => decide (i < 2048)
  | 5 | 8 => decide (i < 64)
  | 6 | 7 => decide (i < 256)
  | _ => false

/-- The key of a way in `State.ways`. -/
def wayKey (i : Nat) : Nat := (i % 128) * 16 + i / 128

/-- The tenant that holds a unit; a scrubbing unit is held by none. A way that is out of service is no unit. -/
def unitHolder (s : State) (u : Word) : Option (Option Nat) :=
  let i := unitIndex u
  match unitKind u with
  | 1 => some (s.plotOwner i)
  | 2 => some (s.planeOwner (i % 1024) (i / 1024))
  | 3 => some (s.latHolder (i % 1024) (i / 1024))
  | 4 => if s.waysLost.contains (wayKey i) then none else some (Tbl.get? s.ways (wayKey i))
  | 6 => some (if (s.chan i).scrubbing then none else (s.chan i).owner)
  | 7 => some (if (s.mbox i).scrubbing then none else (s.mbox i).owner)
  | _ => some (some i)

/-- Whether a unit is quiet. -/
def unitQuiet (s : State) (u : Word) : Bool :=
  let i := unitIndex u
  match unitKind u with
  | 1 => (List.range 8).all (fun k => (s.thread (i * 8 + k)).st == .free) && (List.range 4).all fun k => (s.plane i k).st == .unconfigured
  | 2 => (s.plane (i % 1024) (i / 1024)).st == .unconfigured
  | 3 => (s.latPlane (i % 1024) (i / 1024)).isNone
  | 6 => (s.chan i).st != 1
  | 7 => (s.mbox i).st != 1
  | _ => true

/-- Whether a descriptor names a plane or a lattice of a plot that another names. -/
def liesOn (u p : Word) : Bool :=
  unitKind p == 1 && (unitKind u == 2 || unitKind u == 3) && unitIndex u % 1024 == unitIndex p

/-- Whether two descriptors name a unit in common: a plot includes its planes and lattices (log 69). -/
def unitsMeet (u w : Word) : Bool := u == w || liesOn u w || liesOn w u

/-- A VF number of a request as a tenant: 0xFF is none. -/
def vfTenant (v : Nat) : Option Nat := if v = 0xFF then none else some v

/-! Requests (R370). -/

/-- Whether a unit counts as held by OUTVF in a request: it is, or a request not yet signed takes it from that tenant, so that this
one is turned away as BUSY (R370). -/
def outHolds (s : State) (outvf : Nat) (u : Word) : Bool :=
  unitHolder s u == some (vfTenant outvf) || s.scrubs.any fun q => q.outvf == outvf && q.units.any (unitsMeet u)

/-- Whether descriptors are strictly increasing. -/
def increasing : List Word → Bool
  | u :: w :: t => decide (u.toNat < w.toNat) && increasing (w :: t)
  | _ => true

/-- Whether a request's fields and units are such as R370 accepts. -/
def scrubOk (s : State) (outvf invf : Nat) (us : List Word) : Bool :=
  decide (1 ≤ us.length) && decide (us.length ≤ 1024) && (decide (outvf < 64) || outvf == 0xFF) && (decide (invf < 64) || invf == 0xFF) &&
  !(outvf == 0xFF && invf == 0xFF) && us.all unitOk && increasing us &&
  us.all (outHolds s outvf) && !us.any fun u => us.any fun p => liesOn u p

/-- Whether a request must wait. -/
def scrubBusy (s : State) (us : List Word) : Bool :=
  us.any (fun u => !unitQuiet s u || s.scrubs.any fun q => q.units.any (unitsMeet u)) || decide (8 ≤ s.scrubs.length)

/-- A unit that leaves its tenant and becomes scrubbing (R362). -/
def markScrubbing (s : State) (u : Word) : State :=
  let i := unitIndex u
  let p := i % 1024
  let k := i / 1024
  match unitKind u with
  | 1 => s.setPlot i { s.plot i with owner := none, scrubbing := true }
  | 2 => s.setPlane p k { s.plane p k with owner := some none, scrubbing := true }
  | 3 => { s with latOwner := Tbl.set s.latOwner (p * 4 + k) none }
  | 4 => { s with ways := Tbl.del s.ways (wayKey i) }
  | 6 => s.setChan i { s.chan i with owner := none, scrubbing := true }
  | 7 => s.setMbox i { s.mbox i with owner := none, scrubbing := true }
  | _ => s

/-- The nonce a request captures. -/
def captured (s : State) (invf : Nat) : List Word := if invf = 0xFF then [0, 0, 0, 0] else (s.tenant invf).nonce.toList

/-- A scrub request whose form has been read: its status, its SEQ (0 when it is refused), and the state (R370). -/
def scrubRequest (s : State) (outvf invf : Nat) (us : List Word) : (Nat × Nat) × State :=
  if !scrubOk s outvf invf us then ((stBADARG, 0), s)
  else if scrubBusy s us then ((stBUSY, 0), s)
  else
    let seq := s.scrubSeq + 1
    let q : Scrub := { seq := seq, outvf := outvf, invf := invf, units := us, nonce := captured s invf }
    let s := us.foldl markScrubbing s
    ((stOK, seq), { s with scrubs := s.scrubs ++ [q], scrubSeq := seq })

/-- The descriptors in bytes. -/
def unitsOf : List Byte → Nat → List Word
  | _, 0 => []
  | bs, n + 1 => leWord (bs.take 8) :: unitsOf (bs.drop 8) n

/-- SCRUB (R370). -/
def execScrub (rd rs1 : Reg) (s : State) : Out :=
  let a := s.g rs1
  needPriv s .l (.scrub rd rs1) <|
    if !aligned a 64 then statusPair s rd stBADARG 0
    else
      match loadWords s a 8 [] with
      | (.ok h, s) =>
        let n := fieldAt h 6 2
        if fieldAt h 0 4 ≠ 1 ∨ fieldAt h 8 56 ≠ 0 ∨ n = 0 ∨ 1024 < n then statusPair s rd stBADARG 0
        else
          match loadWords s (a + 64) n [] with
          | (.ok b, s) =>
            let r := scrubRequest (release s) (fieldAt h 4 1) (fieldAt h 5 1) (unitsOf b n)
            statusPair r.2 rd r.1.1 (BitVec.ofNat 64 r.1.2)
          | (r, s) => dresOut s r
      | (r, s) => dresOut s r

/-! Clearing (R361, R362). -/

/-- Entries of a table whose key lies in a range kept out. -/
def cutRange {α : Type} (t : Tbl α) (a n : Nat) : Tbl α := t.filter fun e => !(decide (a ≤ e.1) && decide (e.1 < a + n))

/-- The plot a holder lies on. -/
def holderPlot : Holder → Option Nat
  | .thread t => some (t / 8)
  | .core p | .port p _ | .fill p _ | .slice p _ _ => some p
  | _ => none

/-- A plane and its cells at their reset state, its scrubbing kept. -/
def clearPlane (s : State) (p k : Nat) : State :=
  { s.setPlane p k { owner := (s.plane p k).owner, scrubbing := (s.plane p k).scrubbing } with
    cells := cutRange s.cells ((p * 4 + k) * 16) 16, cuts := Tbl.del s.cuts (16384 + p * 4 + k) }

/-- A lattice with its accumulator tiles at its reset state. -/
def clearLattice (s : State) (p l : Nat) : State :=
  let x := s.plot p
  let s := s.setPlot p { x with apend := x.apend.filter fun r => r.lat ≠ l }
  { s with lats := Tbl.del s.lats (p * 4 + l), accs := cutRange s.accs (p * 16 + 4 * l) 4 }

/-- A plot with everything on it at its reset state; where it runs, and what the governor has withheld, stand. -/
def clearPlot (s : State) (p : Nat) : State :=
  let s := drainIf s fun q => q.ofPlot p
  let x := s.plot p
  let off := fun (h : Holder) => holderPlot h == some p
  { s.setPlot p { scrubbing := x.scrubbing, throttle := x.throttle, withheld := x.withheld, phys := x.phys, partner := x.partner,
                  resident := x.resident } with
    threads := cutRange s.threads (p * 8) 8, planes := cutRange s.planes (p * 4) 4, cells := cutRange s.cells (p * 64) 64,
    ports := cutRange s.ports (p * 16) 16, lats := cutRange s.lats (p * 4) 4, latOwner := cutRange s.latOwner (p * 4) 4,
    cuts := cutRange s.cuts (16384 + p * 4) 4, accs := cutRange s.accs (p * 16) 16, tiles := cutRange s.tiles (p * 256) 256, rings := cutRange s.rings (p * 16) 16,
    gates := cutRange s.gates (p * 32) 32, xlats := s.xlats.filter fun e => !off e.holder,
    remotes := s.remotes.filter fun r => !off r.party,
    prqs := Tbl.mapVals (fun _ e => { e with reqs := e.reqs.filter fun h => !off h }) s.prqs,
    fatals := s.fatals.filter fun f => !off f.1 }

/-- A tenant's translation state cleared: its page-request entries free without an answer, which requests that wait for one then
take (R250), its entries in the walker caches and its invalidations gone. -/
def clearXlate (s : State) (v : Nat) : State :=
  grantRequests { s with xlats := s.xlats.filter fun x => x.tenant ≠ v, tabs := s.tabs.filter fun x => x.tenant ≠ v,
                         prqs := Tbl.keep (fun _ e => e.tenant != v) s.prqs, invals := s.invals.filter fun i => i.tenant ≠ v }

/-- A unit in the state of Table 18.5; the write-back of a cache way changes no byte that memory reads as. -/
def clearUnit (s : State) (u : Word) : State :=
  let i := unitIndex u
  match unitKind u with
  | 1 => clearPlot s i
  | 2 => clearPlane s (i % 1024) (i / 1024)
  | 3 => clearLattice s (i % 1024) (i / 1024)
  | 5 => clearXlate s i
  | 6 => (drainParty (withdraw s (.chan i)) (.chan i)).setChan i { scrubbing := true }
  | 7 => (drainParty (withdraw s (.near i)) (.near i)).setMbox i { scrubbing := true }
  | 8 => { s with regions := Tbl.keep (fun _ r => r.tenant != i) s.regions }
  | _ => s

/-- A cleared unit held by the incoming tenant, or by none; a way that has meanwhile been lost is no unit (R8). -/
def handOver (s : State) (v : Option Nat) (u : Word) : State :=
  let i := unitIndex u
  let p := i % 1024
  let k := i / 1024
  match unitKind u with
  | 1 => s.setPlot i { s.plot i with owner := v, scrubbing := false }
  | 2 => s.setPlane p k { s.plane p k with owner := some v, scrubbing := false }
  | 3 => { s with latOwner := Tbl.set s.latOwner (p * 4 + k) v }
  | 4 => match v with | some v => if s.waysLost.contains (wayKey i) then s else { s with ways := Tbl.set s.ways (wayKey i) v } | none => s
  | 6 => s.setChan i { s.chan i with owner := v, scrubbing := false }
  | 7 => s.setMbox i { s.mbox i with owner := v, scrubbing := false }
  | _ => s

/-- SCRUB_REQUEST_START (R362): the oldest request not yet cleared starts, when none is being cleared. -/
def execScrubRequestStart (s : State) : Out :=
  match s.scrubs.find? fun q => !q.cleared with
  | some q => .next { s with scrubs := s.scrubs.map fun r => if r.seq = q.seq then { r with started := true } else r }
  | none => .next s

/-- SCRUB_CLEAR_COMPLETE (R362): every unit of the request that is being cleared is clear and passes on together (log 69). -/
def execScrubClearComplete (s : State) : Out :=
  match s.scrubs.find? fun q => q.started && !q.cleared with
  | none => .next s
  | some q =>
    let s := q.units.foldl clearUnit s
    let s := q.units.foldl (fun s u => handOver s (vfTenant q.invf) u) s
    .next { s with scrubs := s.scrubs.map fun r => if r.seq = q.seq then { r with cleared := true, ns := nsOf s.cycle } else r }

/-! The token (R364-R368). -/

/-- The part's public key (R374). -/
def publicKeyBytes : List Byte := (List.range 1312).map Config.publicKey

/-- DEVID, the digest of the public key (R364, R374). -/
def devidBytes : List Byte := digest publicKeyBytes

/-- The 128 bytes of a token's content (Table 18.6). -/
def tokenContent (q : Scrub) : List Byte :=
  leBytes 4 1 ++ leBytes 1 q.outvf ++ leBytes 1 q.invf ++ leBytes 2 q.units.length ++ leBytes 8 q.seq ++ leBytes 8 q.ns ++ devidBytes ++
    digest (q.units.flatMap fun u => leBytes 8 u.toNat) ++ (q.nonce.flatMap fun w => leBytes 8 w.toNat) ++ leBytes 8 0

/-- The 4 KiB of a token buffer: the signed token, zeros, MARK (R366). -/
def tokenBuffer (q : Scrub) (hedge : Nat) : List Byte :=
  let c := tokenContent q
  c ++ (List.range 2420).map (fun i => Config.signature (digest c) hedge i) ++ leBytes 1540 0 ++ leBytes 8 q.seq

/-- The partition-relative address of a tenant's token buffer, when it can be written (R367). -/
def tokenAt (t : Tenant) : Option Nat :=
  let pra := bitsAt t.tokbuf.toNat 12 36 * 4096
  if t.tokbuf = 0 ∨ !praOk t pra 4096 then none else some pra

/-- A token written to its buffer, or to the physical function's, which bars its units; a scrub of the same units lifts that, a
plot's that of its planes and lattices too (R366, R367). -/
def writeToken (s : State) (q : Scrub) (hedge : Nat) : State :=
  let bytes := tokenBuffer q hedge
  let rest := s.tokenBars.filter fun u => !(q.units.contains u || q.units.any (liesOn u))
  let pf (bars : List Word) : State := { s with pftoken := Mem.write [] 0 bytes, tokenBars := bars }
  if q.invf = 0xFF then pf rest
  else
    let t := s.tenant q.invf
    match tokenAt t with
    | none => pf (rest ++ q.units)
    | some pra =>
      raiseIrq { putMem (s.setTenant q.invf { t with tokseq := BitVec.ofNat 64 q.seq }) (t.pbase + pra) bytes with tokenBars := rest }
        q.invf 66

/-- TOKEN_WRITE (R366): the oldest request, once cleared, is signed and its token written. -/
def execTokenWrite (s : State) : Out :=
  match s.scrubs with
  | [] => .next s
  | q :: rest =>
    if !q.cleared then .next s
    else
      let f := s.fresh
      .next { writeToken f.2 q f.1.toNat with scrubs := rest, scrubLast := q.seq }

/-! The fault queue. -/

/-- FQTAKE_WRITE (R357). -/
def execFqtakeWrite (tenant : Nat) (v : Word) (s : State) : Out := .next (fqTake s tenant v)

end Sys2Proof.Machine
end

