-- ==== Sys2Proof/Machine/Time.lean ====
section
/-! DEFINITION. Frames (R321, R379), the power governor's withheld cycles (R390), and debug halts (R347). -/

namespace Sys2Proof.Machine

/-! Frames. -/

/-- The frame table of a die as software has written it. -/
def State.frameTable (s : State) (die : Nat) : Tbl (BitVec 64) :=
  (s.frames.filter fun e => decide (e.1 / 64 = die)).map fun e => (e.1 % 64, e.2)

/-- The pairs of a die change places: the frame that begins is given whole to the other of the two (R379). -/
def swapPairs (s : State) (die : Nat) : State :=
  { s with plots := Tbl.mapVals (fun p x => if dieOf p = die ∧ x.partner.isSome then { x with resident := !x.resident } else x) s.plots }

/-- The position of a die's frames. -/
def State.frameOf (s : State) (die : Nat) : Frame := Tbl.getD s.frame die {}

/-- The next entry of a frame in force, if the frame has one more. -/
def nextEntry (f : Frame) : Option Nat := ((frameEntries f.table).find? fun e => decide (f.entry < e.1)).map fun e => e.1

/-- The first entry of a table. -/
def firstEntry (t : Tbl (BitVec 64)) : Nat := ((frameEntries t).headD (0, defaultFrame)).1

/-- FRAME_ENTRY_BOUNDARY (R321): an entry that has lasted its cycles gives way to the next valid one; after the last, the
table as written takes effect and a frame begins (log 77). -/
def execFrameEntryBoundary (die : Nat) (s : State) : Out :=
  let f := s.frameOf die
  let next := f.since + frameDur (s.frameNow die)
  if s.cycle < next then .next s
  else
    match nextEntry f with
    | some e => .next { s with frame := Tbl.set s.frame die { f with entry := e, since := next } }
    | none =>
      let t := s.frameTable die
      let s := swapPairs s die
      .next { s with frame := Tbl.set s.frame die { entry := firstEntry t, since := next, table := t } }

/-- Whether a die's frame has just begun (R377). -/
def State.frameStarts (s : State) (die : Nat) : Bool :=
  let f := s.frameOf die
  f.entry == firstEntry f.table && f.since == s.cycle

/-! Power (R390). -/

/-- CYCLE_WITHHELD: the plot's contexts, pickers and lattices take no part in the current cycle; at most 7 of every 8 cycles
are withheld. -/
def execCycleWithheld (plot : Nat) (s : State) : Out :=
  let x := s.plot plot
  let recent := x.withheld.filter fun c => decide (s.cycle < c + 8)
  .next (if s.withheldNow plot ∨ 7 ≤ recent.length then s
    else s.setPlot plot { x with throttle := x.throttle + 1, withheld := recent ++ [s.cycle] })

/-! Debug halts (R347). -/

/-- The running launches that a DBGCTL value names. -/
def dbgTargets (s : State) (v : Nat) (w : Word) : List Nat :=
  let all := bitAt w.toNat 14
  ((s.slots.filter fun e => e.2.st == .running && e.2.tenant == v && (all || e.1 == bitsAt w.toNat 0 14)).map fun e => e.1)

/-- A context that runs or waits STOPPED by a debug halt (Table 4.2). -/
def Ctx.halt (c : Ctx) : Ctx :=
  match c.st with
  | .running | .waiting => { c with st := .stopped, stall := none, halted := true }
  | _ => c

/-- A launch halted: its threads stop, its watchdog stands; its units read the flag. The watchdog of a pre-empted launch stands
already (R331). -/
def haltLaunch (s : State) (i : Nat) : State :=
  let x := s.slot i
  if x.halted then s
  else
    let s := x.threads.foldl (fun s t => s.setThread t (s.thread t).halt) s
    s.setSlot i { s.slot i with halted := true,
                                wdLeft := if x.preempted then x.wdLeft else x.wdLeft.map fun w => w - (s.cycle - x.wdFrom) }

/-- A thread that a debug halt has stopped runs again; one that waited resumes at itself (R320). -/
def unhalt (c : Ctx) : Ctx := if c.halted then resumed c else c

/-- A launch released from a halt. -/
def releaseHalt (s : State) (i : Nat) : State :=
  let x := s.slot i
  if !x.halted then s
  else
    let s := x.threads.foldl (fun s t => s.setThread t (unhalt (s.thread t))) s
    s.setSlot i { s.slot i with halted := false, wdFrom := s.cycle }

/-- The targets of a DBGCTL write halted, or released; a write with both bits set does neither (log 67). -/
def dbgAct (s : State) (v : Nat) (w : Word) : State :=
  let halt := bitAt w.toNat 15
  let run := bitAt w.toNat 16
  if halt && !run then (dbgTargets s v w).foldl haltLaunch s
  else if run && !halt then (dbgTargets s v w).foldl releaseHalt s
  else s

/-- A halt or a release sent to the other packages of the domain, which one of more than 16 packages does not do (R347, R385). -/
def dbgSend (s : State) (v : Nat) (w : Word) : State :=
  if (bitAt w.toNat 15 || bitAt w.toNat 16) && !Config.bigDomain then sendFlit s (.halt v w) else s

/-- A write of DBGCTL: one with both bits set is ignored (log 78). -/
def dbgWrite (s : State) (v : Nat) (w : Word) : State :=
  if bitAt w.toNat 15 && bitAt w.toNat 16 then s
  else dbgSend (dbgAct (s.setTenant v { s.tenant v with dbg := BitVec.ofNat 64 (bitsAt w.toNat 0 17) }) v w) v w

/-- DBGCTL as it reads: HALTED when the launches it names are halted, LOCAL in a domain of more than 16 packages (log 78). -/
def dbgRead (s : State) (v : Nat) : Word :=
  let w := (s.tenant v).dbg
  let ts := dbgTargets s v w
  w + BitVec.ofNat 64 ((if !ts.isEmpty && ts.all fun i => (s.slot i).halted then 2 ^ 17 else 0) + (if Config.bigDomain then 2 ^ 18 else 0))

/-- DBGCTL_HALT. -/
def execDbgctlHalt (tenant : Nat) (v : Word) (s : State) : Out :=
  .next (if bitAt v.toNat 15 then dbgWrite s tenant v else s)

/-- DBGCTL_RUN. -/
def execDbgctlRun (tenant : Nat) (v : Word) (s : State) : Out :=
  .next (if bitAt v.toNat 16 then dbgWrite s tenant v else s)

end Sys2Proof.Machine
end

