-- ==== Sys2Proof/Machine/Spares.lean ====
section
/-! DEFINITION. Wear, spares and retirement (R375-R381, R387), and uncorrectable errors (R284, R336, R376, R394). -/

namespace Sys2Proof.Machine

/-! Wear (R376). -/

/-- The wear of a unit replaced. -/
def State.setWear (s : State) (w : Wear) : State := { s with wear := w :: s.wear.filter fun x => x.unit_ != w.unit_ }

/-- A unit that is in service anew. -/
def dropWear (s : State) (u : WearUnit) : State := { s with wear := s.wear.filter fun w => w.unit_ != u }

/-- A unit that has no spare left stays in service, reported once. -/
def stayInService (s : State) (u : WearUnit) : State := s.setWear { s.wearOf u with worn := some 4, cuts := none }

/-- A unit becomes worn, unless it is. -/
def wearOut (s : State) (u : WearUnit) (cause : Nat) : State :=
  let w := s.wearOf u
  if w.worn.isSome then s else retireCores (s.setWear { w with worn := some cause }) 4

/-- WEAR_SAMPLE: 16 low samples running make a unit worn. -/
def execWearSample (u : WearUnit) (low : Bool) (s : State) : Out :=
  let w := s.wearOf u
  let n := if low then w.low + 1 else 0
  let s := s.setWear { w with low := n }
  .next (if 16 ≤ n then wearOut s u 1 else s)

/-- Cycles of an hour. -/
def hourCycles : Nat := cyclesOfUs 3600000000

/-- CORRECTED_ERROR: more than 16 in an hour make a unit worn. -/
def execCorrectedError (u : WearUnit) (s : State) : Out :=
  let w := s.wearOf u
  let errs := (w.errs.filter fun c => decide (s.cycle < c + hourCycles)) ++ [s.cycle]
  let s := s.setWear { w with errs := errs }
  .next (if 16 < errs.length then wearOut s u 2 else s)

/-- A part of a derived row state lost: stale until a rescan, which is counted (R284). -/
def losePart (r : Region) (row part : Nat) : Region :=
  match Tbl.get? r.parts (partKey row part) with
  | some p => { r with parts := Tbl.set r.parts (partKey row part) { p with stale := true } }
  | none => r

/-- UNCORRECTABLE_ERROR: in a unit's logic, in a derived row state, in a line of memory, in a word of lodge SRAM. -/
def execUncorrectableError (u : ErrUnit) (s : State) : Out :=
  match u with
  | .unit w => .next (wearOut s w 3)
  | .rowState r row part => .next (onRegion s r fun x => losePart x row part)
  | .memory line => .next (if s.badMem.contains line then s else { s with badMem := line :: s.badMem })
  | .sram w => .next (if s.sramBad.contains w then s else { s with sramBad := w :: s.sramBad })

/-! Plots (R377, R379). -/

/-- The physical plot of its die that carries a logical plot (R391) (log 5). -/
def State.physOf (s : State) (p : Nat) : Nat := (s.plot p).phys.getD (p % 160)

/-- Spare physical plots of a die. -/
def plotSpares : Nat := 20

/-- Spares of a die in use, and pairs on it. -/
def State.sparesUsed (s : State) (die : Nat) : Nat := Tbl.getD s.spares die 0
def State.pairsOn (s : State) (die : Nat) : Nat :=
  ((s.plots.filter fun e => decide (dieOf e.1 = die) && e.2.partner.isSome).length) / 2

/-- The regions that have a plane in one of some states on a plot. -/
def regionsIn (s : State) (p : Nat) (sts : List PlaneSt) : List Nat :=
  (List.range 4).foldl (fun l k =>
    let r := s.regionKey p k
    if sts.contains (s.plane p k).st && !l.contains r then l ++ [r] else l) []

/-- The regions that a cut of a plot's move takes in. -/
def regionsOn (s : State) (p : Nat) : List Nat := regionsIn s p [.configured]

/-- What a move of a plot waits for (R377): a rollback of a region on it, a scrub that names it, a debug halt of a launch on it. -/
def moveWaits (s : State) (p : Nat) : Bool :=
  (regionsIn s p [.configured, .faulted, .loading]).any (fun r => (s.cutsOf r).pending) ||
  s.scrubs.any (fun q => !q.cleared && q.units.any fun u =>
    decide (1 ≤ unitKind u) && decide (unitKind u ≤ 3) && unitIndex u % 1024 == p) ||
  s.slots.any fun e => e.2.halted && (e.2.threads.any (fun t => t / 8 == p) || (s.regionPlanes e.1).any fun pk => pk.1 == p)

/-- Lodge cuts begun in regions for a retirement, which regroup no batch (R382); none while a cut of one is in progress. -/
def cutsBegin (s : State) (u : WearUnit) (rs : List Nat) : State :=
  if rs.any fun r => (s.cutsOf r).active then s
  else
    let cut := fun (s : State) (r : Nat) => let t := lodgeCut s r false; t.setCuts r { t.cutsOf r with moving := true }
    (rs.foldl cut s).setWear { s.wearOf u with cuts := some rs }

/-- Whether the cuts a retirement began have ended. -/
def cutsEnded (s : State) (u : WearUnit) : Bool :=
  match (s.wearOf u).cuts with
  | some rs => rs.all fun r => !(s.cutsOf r).active
  | none => false

/-- The caches of a moved plot invalidated. -/
def dropPlotCaches (s : State) (p : Nat) : State :=
  { s.setPlot p { s.plot p with dcache := [], icache := [] } with
    xlats := s.xlats.filter fun e => holderPlot e.holder != some p }

/-- The wear of a plot's lattice columns ends with its move: the columns of the physical plot it moves to are others. -/
def dropColumnWear (s : State) (p : Nat) : State :=
  { s with wear := s.wear.filter fun w => match w.unit_ with | .column q _ _ => q != p | _ => true }

/-- A plot whose assist context stands in DOUBLE is reported as failed, once: it is worn (R339), uncorrectably, with CAUSE 3 (log 93). -/
def reportFailed (s : State) (p : Nat) : State :=
  let x := s.plot p
  if x.assist.st = .double ∧ !x.failed then wearOut (s.setPlot p { x with failed := true }) (.plot p) 3 else s

/-- PLOT_RETIREMENT (R377): the cuts of the plot's regions, then, at a frame boundary, the move to the lowest-numbered spare. -/
def execPlotRetirement (plot : Nat) (s : State) : Out :=
  let s := reportFailed s plot
  let u : WearUnit := .plot plot
  let die := dieOf plot
  match s.worn u with
  | none => .next s
  | some cause =>
    if plotSpares ≤ s.sparesUsed die ∨ moveWaits s plot then .next s
    else if (s.wearOf u).cuts.isNone then .next (cutsBegin s u (regionsOn s plot))
    else if !cutsEnded s u ∨ !s.frameStarts die then .next s
    else
      let old := s.physOf plot
      let new := 160 + s.sparesUsed die
      let s := dropColumnWear (dropWear (dropPlotCaches s plot) u) plot
      let s := { s.setPlot plot { s.plot plot with phys := some new } with spares := Tbl.set s.spares die (s.sparesUsed die + 1) }
      .next (repair s 1 cause die old new)

/-- The logical plot that a worn one is paired with: the next of its die not yet paired, wrapping to the lowest. -/
def pairFor (s : State) (p : Nat) : Option Nat :=
  let die := dieOf p
  ((List.range 159).map fun i => die * 160 + (p % 160 + 1 + i) % 160).find? fun q => (s.plot q).partner.isNone

/-- A worn unit with nothing to replace it: a FATAL repair record, and it stays in service. -/
def exhausted (s : State) (u : WearUnit) (kind die old : Nat) : State :=
  let f := s.fresh
  repair (stayInService f.2 u) kind 4 die old (f.1.toNat % 2 ^ 32)

/-- Pairs a die supports. -/
def pairLimit : Nat := 20

/-- PLOT_PAIRING (R379): at a frame boundary, when the die has no spare plot left. A worn plot that has a partner already cannot be
paired again, and is reported and stays in service as one on a die with 20 pairs does (log 75). -/
def execPlotPairing (plot : Nat) (s : State) : Out :=
  let u : WearUnit := .plot plot
  let die := dieOf plot
  match s.worn u with
  | none => .next s
  | some cause =>
    if s.sparesUsed die < plotSpares then .next s
    else
      match (if pairLimit ≤ s.pairsOn die ∨ (s.plot plot).partner.isSome then none else pairFor s plot) with
      | none => .next (exhausted s u 1 die (s.physOf plot))
      | some q =>
        if moveWaits s plot ∨ moveWaits s q ∨ !s.frameStarts die then .next s
        else
          let old := s.physOf plot
          let s := dropColumnWear (dropWear (dropPlotCaches s plot) u) plot
          let s := s.setPlot plot { s.plot plot with phys := some (s.physOf q), partner := some q, resident := false }
          let s := s.setPlot q { s.plot q with partner := some plot }
          .next (repair s 7 cause die old q)

/-! The other kinds (R378, R380, R387). -/

/-- The key of a physical lattice's spare columns. -/
def colKey (s : State) (p l : Nat) : Nat := (dieOf p * 180 + s.physOf p) * 4 + l

/-- COLUMN_RETIREMENT: between two bindings, after a cut; a lattice without a spare column retires its whole plot. -/
def execColumnRetirement (plot lat col : Nat) (s : State) : Out :=
  let u : WearUnit := .column plot lat col
  let used := Tbl.getD s.colSpares (colKey s plot lat) 0
  match s.worn u with
  | none => .next s
  | some cause =>
    if 4 ≤ used then .next (wearOut (exhausted s u 2 (dieOf plot) col) (.plot plot) cause)
    else
      let rs := match s.latPlane plot lat with | some k => [s.regionKey plot k] | none => []
      if (s.wearOf u).cuts.isNone then .next (cutsBegin s u rs)
      else if !cutsEnded s u ∨ (s.lat plot lat).binds.any (fun b => b.started) ∨ (s.lat plot lat).work.isSome then .next s
      else
        let s := { dropWear s u with colSpares := Tbl.set s.colSpares (colKey s plot lat) (used + 1) }
        .next (repair s 2 cause (dieOf plot) col (128 + used))

/-- WAY_RETIREMENT: the slice's spare takes the way's place and tenant; without one the slice runs with the ways that
remain. -/
def execWayRetirement (slice way : Nat) (s : State) : Out :=
  let u : WearUnit := .way slice way
  let key := slice * 16 + way
  match s.worn u with
  | none => .next s
  | some cause =>
    if Tbl.getD s.waySpares slice 0 = 0 then
      .next (repair { dropWear s u with waySpares := Tbl.set s.waySpares slice 1 } 5 cause (slice / 32) key (slice * 16 + 16))
    else
      let s := exhausted s u 5 (slice / 32) key
      .next { s with ways := Tbl.del s.ways key, waysLost := if s.waysLost.contains key then s.waysLost else key :: s.waysLost }

/-- HBM_ROW_REPAIR. -/
def execHbmRowRepair (row : Nat) (s : State) : Out :=
  let u : WearUnit := .row row
  match s.worn u with
  | none => .next s
  | some cause =>
    if Config.rowRepairable row s.rowRepairs then
      let f := { dropWear s u with rowRepairs := row :: s.rowRepairs }.fresh
      .next (repair f.2 4 cause 0xFF row (f.1.toNat % 2 ^ 32))
    else .next (exhausted s u 4 0xFF row)

/-- LANE_REPLACEMENT (R387); a port whose second lane wears runs on lanes 0 to 7. -/
def execLaneReplacement (port lane : Nat) (s : State) : Out :=
  let u : WearUnit := .lane port lane
  let n := Tbl.getD s.lanes port 0
  match s.worn u with
  | none => .next s
  | some cause =>
    if n = 0 then .next (repair { dropWear s u with lanes := Tbl.set s.lanes port 1 } 3 cause 0xFF (port * 16 + lane) (port * 16 + 16))
    else .next { exhausted s u 3 0xFF (port * 16 + lane) with lanes := Tbl.set s.lanes port 2 }

end Sys2Proof.Machine
end

