-- ==== Sys2Proof/Machine/Host.lean ====
section
/-! DEFINITION. The host port (R298, R353-R355, R371-R374, R389, R390): virtual-function windows, the administrative mailbox
and its commands, attestation, function-level and package reset; the Solrus links (R385, R386); host-shared memory
(R260); the management channel (R388). -/

namespace Sys2Proof.Machine

/-! Mailboxes (R372). Function 0 is the physical function, function v + 1 is VFv. -/

/-- The mailbox of a function (log 72). -/
def State.box (s : State) (fn : Nat) : AdminBox := if fn = 0 then s.admin else Tbl.getD s.vfbox (fn - 1) {}

/-- The mailbox of a function replaced. -/
def State.setBox (s : State) (fn : Nat) (b : AdminBox) : State :=
  if fn = 0 then { s with admin := b } else { s with vfbox := Tbl.set s.vfbox (fn - 1) b }

/-- OPC in a command buffer. -/
def AdminBox.opc (b : AdminBox) : Nat := leNat (Mem.read b.buf 0 2)

/-- The status with which a command's header ends it: a set res0 bit or an unknown OPC, or what a VF may not issue. -/
def headerStatus (fn : Nat) (b : AdminBox) : Option Nat :=
  if leNat (Mem.read b.buf 4 60) ≠ 0 then some stBADARG
  else if fn ≠ 0 then (if b.opc = 8 then none else some stDENIED)
  else if b.opc = 0 ∨ 14 < b.opc then some stBADARG
  else none

/-- A doorbell written with a tag: ignored while BUSY; a command whose header is refused ends there (log 72). -/
def doorbell (s : State) (fn : Nat) (tag : BitVec 32) : State :=
  let b := s.box fn
  if b.busy then s
  else
    match headerStatus fn b with
    | some code => s.setBox fn { b with busy := true, done := true, status := code, tag := tag }
    | none => s.setBox fn { b with busy := true, done := false, tag := tag }

/-- Whether a function's mailbox runs a command now: the one its doorbell started, or one that comes with its doorbell. -/
def mayRun (s : State) (fn opc : Nat) : Bool :=
  let b := s.box fn
  !b.busy || (!b.done && b.opc == opc)

/-- A command's answer: its status, and its response payload from 0x40 (log 70). One that comes with its doorbell brings that
doorbell's tag, which is free (log 72). -/
def reply (s : State) (fn code : Nat) (resp : List Byte) : State :=
  let b := s.box fn
  let tag := if b.busy then b.tag else (Config.freeWord s.free).setWidth 32
  State.setBox { s with free := if b.busy then s.free else s.free + 1 } fn
    { b with busy := true, done := true, status := code, tag := tag, buf := Mem.write b.buf 0x40 resp }

/-- A command of the administrative mailbox with no response payload: its status and effect. -/
def adminRun (s : State) (opc : Nat) (r : Nat × State) : Out :=
  if mayRun s 0 opc then .next (reply r.2 0 r.1 []) else .next s

/-- MAILBOX_COMMAND_DONE (R372): BUSY clears. -/
def execMailboxCommandDone (fn : Nat) (s : State) : Out :=
  let b := s.box fn
  .next (if b.busy ∧ b.done then s.setBox fn { b with busy := false, done := false } else s)

/-! Administrative commands (Table 19.1). -/

/-- Whether a virtual function holds a plot. -/
def State.holdsPlot (s : State) (v : Nat) : Bool := !(s.plotsOf v).isEmpty

/-- Whether a virtual function holds a permission granule (R262). -/
def State.holdsGranule (s : State) (v : Nat) : Bool := s.perms.any fun e => bitAt e.2.toNat 6 && bitsAt e.2.toNat 0 6 == v

/-- SETWIN (R354); a window that meets a die's reserve is the host driver's to avoid (R379, log 90). -/
def execSetwin (vf : Nat) (pbase plimit : Word) (s : State) : Out :=
  adminRun s 1 <|
    if 64 ≤ vf ∨ 2 ^ 61 ≤ pbase.toNat ∨ 2 ^ 48 ≤ plimit.toNat then (stBADARG, s)
    else if s.holdsPlot vf then (stBUSY, s)
    else (stOK, s.setTenant vf { s.tenant vf with pbase := pbase.toNat, plimit := plimit.toNat })

/-! Encryption (R354): memory is held as every party sees it; a granule whose key changes reads as what its stored lines give
under the new one. -/

/-- The virtual function under whose keys a 2 MiB granule of local memory is stored: that of its permission entry with ENC (R262), or
of its mark in the second tier, where it is not host-shared (R260). -/
def granuleFn (s : State) (g : Nat) : Option Nat :=
  if g < 2 ^ 18 then
    let e := (Tbl.getD s.perms g 0).toNat
    if bitAt e 7 then some (bitsAt e 0 6) else none
  else if s.hostSide (s.locid * 2 ^ 46 + g * 2 ^ 21) then none
  else Tbl.get? s.tierEnc g

/-- The keys a granule is stored under, if it is. -/
def granuleKeys (s : State) (g : Nat) : Option (BitVec 256 × BitVec 256) :=
  (granuleFn s g).map fun v => ((s.tenant v).dkey, (s.tenant v).tkey)

/-- The cipher of a line under keys; its tweak is SPA[60:6]. -/
def lineCipher (k : BitVec 256 × BitVec 256) (spa : Nat) : Config.Cipher := Config.xts k.1 k.2 (spa % 2 ^ 61 / 64)

/-- A line stored under keys, and read under keys. -/
def storedLine (k : Option (BitVec 256 × BitVec 256)) (spa : Nat) (w : BitVec 512) : BitVec 512 :=
  match k with | some k => (lineCipher k spa).enc w | none => w
def readLine (k : Option (BitVec 256 × BitVec 256)) (spa : Nat) (w : BitVec 512) : BitVec 512 :=
  match k with | some k => (lineCipher k spa).dec w | none => w

/-- A granule whose keys change from those of `old`: each of its lines reads anew (log 89). -/
def rekeyGranule (old s : State) (g : Nat) : State :=
  let was := granuleKeys old g
  let now := granuleKeys s g
  if was = now then s
  else
    { s with mem := (List.range 32768).foldl (fun m i =>
        let spa := s.locid * 2 ^ 46 + g * 2 ^ 21 + 64 * i
        Mem.write m spa (leBytes 64 (readLine now spa (storedLine was spa (BitVec.ofNat 512 (leNat (Mem.read m spa 64))))).toNat)) s.mem }

/-- The granules, by permission entry and by mark, that are or were encrypted, rekeyed where their keys differ from those of `old`. -/
def rekey (old s : State) : State :=
  ((Tbl.keys old.perms ++ Tbl.keys s.perms ++ Tbl.keys old.tierEnc ++ Tbl.keys s.tierEnc).eraseDups).foldl (rekeyGranule old) s

/-- SETKEY (R354). -/
def execSetkey (vf : Nat) (dk tk : BitVec 256) (s : State) : Out :=
  adminRun s 2 <|
    if 64 ≤ vf then (stBADARG, s)
    else if s.holdsPlot vf ∨ s.holdsGranule vf then (stBUSY, s)
    else (stOK, rekey s (s.setTenant vf { s.tenant vf with dkey := dk, tkey := tk }))

/-- Whether quotas lie below what a tenant holds (R353). -/
def quotaBelow (s : State) (v sets regions pins : Nat) (lmax : List Nat) : Bool :=
  decide (sets < s.setCount v) || decide (regions < s.regionsOf v) ||
  (List.range 4).any (fun d => decide (pinGranules pins < s.pinned d (some v))) ||
  (List.range 16).any fun c => decide (lmax.getD c 0 < s.classUse v c)

/-- SETQUOTA (R304, R353). -/
def execSetquota (vf sets regions pins : Nat) (lmax : List Nat) (s : State) : Out :=
  adminRun s 3 <|
    if 64 ≤ vf ∨ 16384 < sets ∨ 4096 < regions ∨ 128 < pins ∨ lmax.length ≠ 16 ∨ lmax.any (fun n => decide (16384 < n)) then (stBADARG, s)
    else if quotaBelow s vf sets regions pins lmax then (stDENIED, s)
    else (stOK, s.setTenant vf { s.tenant vf with setq := sets, regq := regions, pinq := pins, lmax := lmax.zipIdx.map fun e => (e.2, e.1) })

/-- SETRANGE (R300). -/
def execSetrange (vf first count : Nat) (s : State) : Out :=
  let inNew := fun (i : Nat) => decide (first ≤ i) && decide (i < first + count)
  let clash := s.tenants.any fun e => e.1 != vf && decide (0 < e.2.recCount) && decide (e.2.recFirst < first + count) && decide (first < e.2.recFirst + e.2.recCount)
  adminRun s 4 <|
    if 64 ≤ vf ∨ 16384 < first + count ∨ (0 < count ∧ clash) then (stBADARG, s)
    else if s.slots.any fun e => s.inRecRange vf e.1 && !inNew e.1 && e.2.st != .idle then (stBUSY, s)
    else (stOK, s.setTenant vf { s.tenant vf with recFirst := first, recCount := count })

/-- The placement that a hand-over would leave: the plots held, and those of requests not yet handed over, each with its tenant. -/
def placementAfter (s : State) (invf : Nat) (ds : List Word) : List (Nat × Nat) :=
  let mine := (ds.filter fun u => unitKind u == 1).map fun u => unitIndex u
  let others := s.plots.filterMap fun e => (s.plotOwner e.1).bind fun v => if mine.contains e.1 then none else some (e.1, v)
  let coming := (s.scrubs.filter fun q => !q.cleared && decide (q.invf < 64)).flatMap fun q =>
    (q.units.filter fun u => unitKind u == 1).map fun u => (unitIndex u, q.invf)
  others ++ coming ++ (if invf < 64 then mine.map fun p => (p, invf) else [])

/-- Whether every router input has a slot for each tag (R359): always with at most 16 tenants placed. -/
def tagsOk (l : List (Nat × Nat)) : Bool :=
  decide ((l.foldl (fun (a : List Nat) e => if a.contains e.2 then a else e.2 :: a) []).length ≤ 16) || Config.tagsFit l

/-- PLACE: the lodge issues SCRUB; the response holds its status and SEQ (log 70). -/
def execPlace (outvf invf : Nat) (ds : List Word) (s : State) : Out :=
  let r := if scrubOk s outvf invf ds && !tagsOk (placementAfter s invf ds) then ((stNOSPACE, 0), s) else scrubRequest s outvf invf ds
  if mayRun s 0 5 then .next (reply r.2 0 r.1.1 (leBytes 8 r.1.1 ++ leBytes 8 r.1.2)) else .next s

/-- SETPERM (R262): the granule's lines are stored and read under its new keys from then on (R354). -/
def execSetperm (granule : Nat) (v : BitVec 64) (s : State) : Out :=
  adminRun s 6 <|
    if 2 ^ 18 ≤ granule ∨ 2 ^ 9 ≤ v.toNat then (stBADARG, s) else (stOK, rekeyGranule s { s with perms := Tbl.set s.perms granule v } granule)

/-- SETWEIGHT (R358). -/
def execSetweight (vf weight : Nat) (s : State) : Out :=
  adminRun s 7 <|
    if 64 ≤ vf ∨ weight = 0 ∨ 15 < weight then (stBADARG, s)
    else (stOK, s.setTenant vf { s.tenant vf with pweight := weight })

/-- The digest of the running firmware image. -/
def firmwareBytes (s : State) : List Byte :=
  match s.running with
  | some img => digest img
  | none => (List.range 32).map Config.firmwareDigest

/-- The units of a virtual function as a sorted descriptor list (R371). -/
def unitList (s : State) (v : Nat) : List Word :=
  let mk (kind i : Nat) : Word := BitVec.ofNat 64 (kind * 2 ^ 56 + i)
  let ways := ((s.ways.filter fun e => e.2 = v).map fun e => e.1 / 16 + e.1 % 16 * 128).mergeSort fun a b => decide (a ≤ b)
  (s.plotsOf v).map (mk 1) ++ ways.map (mk 4) ++
    ((List.range 256).filter fun c => unitHolder s (mk 6 c) == some (some v)).map (mk 6) ++
    ((List.range 256).filter fun m => unitHolder s (mk 7 m) == some (some v)).map (mk 7)

/-- What an attestation report carries, in the order of R371; 0xFF is the package. -/
def reportData (s : State) (vf : Nat) (nonce : BitVec 256) : List Byte :=
  let us := if vf < 64 then (unitList s vf).flatMap fun u => leBytes 8 u.toNat else []
  leBytes 4 1 ++ devidBytes ++ publicKeyBytes ++ firmwareBytes s ++ leBytes 8 s.scrubLast ++
    (if vf < 64 then us ++ digest us else []) ++ leBytes 32 nonce.toNat

/-- The response that holds a report: what it carries in the order R371 names it, and the signature of its digest, made as a
token's is (R364); of one that does not fit the 4,032 bytes of the buffer, what fits (log 13). -/
def reportBytes (data : List Byte) (hedge : Nat) : List Byte :=
  (data ++ (List.range 2420).map fun i => Config.signature (digest data) hedge i).take 4032

/-- Whether a request that names units of a function is being cleared. -/
def clearingFor (s : State) (vf : Nat) : Bool := s.scrubs.any fun q => q.started && !q.cleared && (q.outvf == vf || q.invf == vf)

/-- ATTEST (R371): the physical function for any, a virtual function for itself; not while units of the function are
being cleared. -/
def execAttest (fn vf : Nat) (nonce : BitVec 256) (s : State) : Out :=
  if !mayRun s fn 8 then .next s
  else if 64 ≤ vf ∧ vf ≠ 0xFF then .next (reply s fn stBADARG [])
  else if fn ≠ 0 ∧ vf + 1 ≠ fn then .next (reply s fn stDENIED [])
  else if clearingFor s vf then .next s
  else
    let f := s.fresh
    .next (reply f.2 fn stOK (reportBytes (reportData s vf nonce) f.1.toNat))

/-- GETKEY (R374). -/
def execGetkey (s : State) : Out := if mayRun s 0 9 then .next (reply s 0 stOK publicKeyBytes) else .next s

/-- A repair record's 32 bytes (Table 19.4). -/
def repairBytes (r : Repair) (seq : Nat) : List Byte :=
  leBytes 4 (seqOf seq) ++ leBytes 1 r.kind ++ leBytes 1 r.cause ++ leBytes 1 r.die ++ leBytes 1 0 ++ leBytes 8 r.ns ++ leBytes 4 r.old ++
    leBytes 4 r.new ++ leBytes 8 (Config.repairDetail seq).toNat

/-- Up to 120 records of the log, which holds the last 4,096, from a SEQ on. -/
def repairPage (s : State) (first : Nat) : List Byte :=
  let n := s.repairs.length
  let lo := max (max first 1) (n + 1 - 4096)
  (((s.repairs.drop (lo - 1)).take 120).zipIdx).flatMap fun e => repairBytes e.1 (lo + e.2)

/-- REPAIRLOG (R381). -/
def execRepairlog (first : Nat) (s : State) : Out :=
  if mayRun s 0 10 then .next (reply s 0 stOK (repairPage s first)) else .next s

/-- DBGREG (R347): control register `reg` of a halted thread (log 71). -/
def execDbgreg (tid reg : Nat) (write : Bool) (v : BitVec 64) (s : State) : Out :=
  let c := s.thread tid
  let r : Reg := BitVec.ofNat 5 reg
  if !mayRun s 0 11 then .next s
  else if 5120 ≤ tid ∨ 32 ≤ reg then .next (reply s 0 stBADARG [])
  else if !c.halted then .next (reply s 0 stBUSY [])
  else if write then .next (reply (s.setThread tid (c.put r v)) 0 stOK [])
  else .next (reply s 0 stOK (leBytes 8 (c.get r).toNat))

/-- The system address of a host address (Table 11.1). -/
def hostSpa (s : State) (a : Nat) : Nat := s.locid * 2 ^ 46 + 0x200000000000 + a

/-- FWSTAGE (R389). -/
def execFwstage (addr : BitVec 64) (len : Nat) (s : State) : Out :=
  adminRun s 12 <|
    if len = 0 ∨ 2 ^ 24 < len ∨ 2 ^ 44 < addr.toNat + len then (stBADARG, s)
    else
      let img := Mem.read s.mem (hostSpa s addr.toNat) len
      if Config.fwVerifies img then (stOK, { s with staged := some img }) else (stDENIED, s)

/-- PWRCAP (R390). -/
def execPwrcap (watts : Nat) (s : State) : Out :=
  adminRun s 13 <| if watts < 600 ∨ 1800 < watts then (stBADARG, s) else (stOK, { s with pwrcap := watts })

/-- The first system address of a 1 GiB granule of the second tier. -/
def granuleSpa (s : State) (g : Nat) : Nat := s.locid * 2 ^ 46 + 0x100000000000 + g * 2 ^ 30

/-- Whether a tenant's window or a derived region lies in a granule. -/
def granuleUsed (s : State) (g : Nat) : Bool :=
  let a := granuleSpa s g
  s.tenants.any (fun e => overlaps e.2.pbase e.2.plimit a (2 ^ 30) && decide (0 < e.2.plimit)) ||
  s.regions.any fun r => (r.2.bmap ++ r.2.rmap).any fun e => overlaps (e.2 * 4096) 4096 a (2 ^ 30)

/-- SHARE (R260): the lines of a host-shared granule are never encrypted (R354). -/
def execShare (granule : Nat) (on : Bool) (s : State) : Out :=
  adminRun s 14 <|
    if 16384 ≤ granule then (stBADARG, s)
    else if granuleUsed s granule then (stBUSY, s)
    else
      let rest := s.shared.filter fun g => g ≠ granule
      (stOK, (Tbl.keys s.tierEnc).foldl (rekeyGranule s) { s with shared := if on then granule :: rest else rest })

/-! Virtual-function windows (R373). -/

/-- KICK (R298). -/
def execKick (vf n : Nat) (s : State) : Out := .next (setKick s vf n)

/-- QDESC_WRITE: a queue created, deleted, or left as it is (log 73). -/
def execQdescWrite (vf n : Nat) (w0 : BitVec 64) (w8 w12 : BitVec 32) (s : State) : Out :=
  let q := vf * 64 + n
  let hq := s.queue q
  let en := w8.getLsbD 4
  let lg := (w8.extractLsb' 0 4).toNat
  let bad := decide (w0.toNat % 64 ≠ 0) || decide (lg < 4) || decide (12 < lg) || decide (2 ^ 6 ≤ w8.toNat) || decide (w12 = 0) ||
    !praOk (s.tenant vf) w0.toNat (64 + 64 * 2 ^ lg)
  if hq.en then .next (if !en ∧ hq.live.isEmpty then s.setQueue q { err := hq.err } else s)
  else if !en ∨ bad then .next s
  else .next (s.setQueue q { qbase := w0.toNat, qlog := lg, en := true, wd := w12.toNat })

/-- TAKE of a live ring advanced to a SEQ (R303). -/
def CRing.takeTo (r : CRing) (seq : Nat) : CRing :=
  let back := (seqOf r.posted + 4294967295 - seq) % 4294967295
  { r with take := seq, taken := if seq ≠ 0 ∧ back ≤ r.posted - r.taken then r.posted - back else r.taken }

/-- RDESC_WRITE: a ring created, deleted, or its TAKE advanced. -/
def execRdescWrite (vf n : Nat) (w0 : BitVec 64) (w8 w12 : BitVec 32) (s : State) : Out :=
  let r := s.cring vf n
  let en := w8.getLsbD 4
  let lg := (w8.extractLsb' 0 4).toNat
  let bad := decide (w0.toNat % 32 ≠ 0) || decide (lg < 4) || decide (12 < lg) || decide (2 ^ 5 ≤ w8.toNat) ||
    !praOk (s.tenant vf) w0.toNat (32 * 2 ^ lg)
  if r.en then .next (s.setCring vf n (if en then r.takeTo w12.toNat else { hold := r.hold }))
  else if !en ∨ bad then .next s
  else .next (s.setCring vf n { base := w0.toNat, elog := lg, en := true, take := w12.toNat, hold := r.hold })

/-- A word of a command buffer written. -/
def bufWrite (b : AdminBox) (off : Nat) (v : BitVec 64) : AdminBox :=
  if off % 8 = 0 ∧ off < 4096 then { b with buf := Mem.write b.buf off (leBytes 8 v.toNat) } else b

/-- The bits of a frame entry that are not res0 (R321). -/
def frameMaskBits : BitVec 64 := 0xFFFFFF1F

/-- REGISTER_WRITE (R321, R355, R372, R373, R385): a register without a row of its own; res0 bits are stored as zero. -/
def execRegisterWrite (target : RegTarget) (v : BitVec 64) (s : State) : Out :=
  match target with
  | .irq vf n =>
    if vf < 64 ∧ n < 67 then .next (s.setTenant vf { s.tenant vf with irq := Tbl.set (s.tenant vf).irq n (v &&& 0xBF) }) else .next s
  | .mbuf off => .next (s.setBox 0 (bufWrite s.admin off v))
  | .vmbuf vf off => if vf < 64 then .next (s.setBox (vf + 1) (bufWrite (s.box (vf + 1)) off v)) else .next s
  | .locid => .next { s with locid := bitsAt v.toNat 0 15 }
  | .frame die n => if die < 4 ∧ n < 64 then .next { s with frames := Tbl.set s.frames (die * 64 + n) (v &&& frameMaskBits) } else .next s
  | .mbdoor => .next (doorbell s 0 (v.setWidth 32))
  | .vmbdoor vf => if vf < 64 then .next (doorbell s (vf + 1) (v.setWidth 32)) else .next s

/-! Resets. -/

/-- The launches of a virtual function that are running and not yet completed. -/
def vfRunning (s : State) (v : Nat) : List Nat :=
  (s.slots.filter fun e => e.2.st == .running && e.2.tenant == v && e.2.comp.isNone).map fun e => e.1

/-- A queued launch of a function completed as ABORTED. -/
def abortQueued (s : State) (i : Nat) : State :=
  let q := (s.slot i).queue
  let s := s.setQueue q { s.queue q with subs := (s.queue q).subs.filter fun j => j ≠ i }
  let s := s.setSlot i { s.slot i with start := s.cycle }
  completeSlot s i (completionOf s i 5)

/-- The launches of a function in reset that are queued are aborted, those that run stopped (R308) (log 74). -/
def flrStop (s : State) (v : Nat) : State :=
  let queued := (s.slots.filter fun e => e.2.st == .queued && e.2.tenant == v).map fun e => e.1
  let s := queued.foldl abortQueued s
  (vfRunning s v).foldl (fun s i =>
    if (s.slot i).stopped then s else faultRecord (stopLaunch s i) v cWatchdog 6 i 0 0 0) s

/-- A function-level reset begins. -/
def flrBegin (s : State) (v : Nat) : State :=
  let s := flrStop s v
  s.setTenant v { s.tenant v with flr := true }

/-- The cut of a stopped launch, step by step (log 74). -/
def flrCut (s : State) (i : Nat) : State :=
  let x := s.slot i
  if x.cutdone then s
  else if (s.regionPlanes i).isEmpty then setCutdone s i
  else if (s.cutsOf i).active then s
  else if x.cutting ∧ (s.cutsOf i).lodge then setCutdone s i
  else
    let s := lodgeCut (closeReaders s i) i false
    s.setSlot i { s.slot i with cutting := true }

/-- A launch drained, reset and completed as ABORTED. -/
def flrEnd (s : State) (i : Nat) : State :=
  let s := if (s.slot i).drained then s else drainLaunch s i
  let s := if (s.slot i).reset_ then s else resetLaunch s i
  (postLaunch s i 5).2

/-- A function's queues, rings and interrupt words deleted. -/
def flrDelete (s : State) (v : Nat) : State :=
  let mine := fun (k : Nat) => decide (k / 64 = v)
  { s.setTenant v { s.tenant v with irq := [], flr := false } with
    queues := Tbl.keep (fun k _ => !mine k) s.queues, crings := Tbl.keep (fun k _ => !mine k) s.crings }

/-- FUNCTION_LEVEL_RESET (R373): begun, carried on while cuts are in progress, and ended; what has been submitted since is aborted
too. -/
def execFunctionLevelReset (vf : Nat) (s : State) : Out :=
  if !(s.tenant vf).flr then .next (flrBegin s vf)
  else
    let s := flrStop s vf
    let s := (vfRunning s vf).foldl flrCut s
    if (vfRunning s vf).all fun i => (s.slot i).cutdone then
      let s := (vfRunning s vf).foldl flrEnd s
      .next (if (vfRunning s vf).isEmpty then flrDelete s vf else s)
    else .next s

/-- The instruction memories with a firmware image in each. -/
def loadCode (img : List Byte) : List Host.Cell :=
  Mem.write [] 0 ((List.range 4).flatMap fun _ => (List.range 65536).map fun a => Config.fwCode img a)

/-- The firmware that runs after a package reset: a staged image that boots, else the one that ran before, in every lodge core's
instruction memory (R389, R393) (log 16, log 75). -/
def bootFirmware (s : State) : State :=
  let s := { s with imem := (s.running.map loadCode).getD State.reset.imem }
  match s.staged with
  | none => s
  | some img =>
    if Config.fwBoots img then { s with staged := none, running := some img, imem := loadCode img }
    else
      let f := { s with staged := none }.fresh
      repair f.2 (bitsAt f.1.toNat 0 8) 4 0xFF 0 0

/-- PACKAGE_RESET (R361): every unit at its reset state; what the part keeps for life stands (R365, R381), what is worn out
stays out of service or is retired again (R376), and memory keeps what is stored in it, read now without keys (R354) (log 42)
(log 6). -/
def execPackageReset (s : State) : Out :=
  let kept : State :=
    { State.reset with
      mem := (rekey s { s with perms := [], tierEnc := [] }).mem, badMem := s.badMem, sram := s.sram, sramBad := s.sramBad, free := s.free, nextId := s.nextId,
      plots := s.plots.map fun e => (e.1, { phys := e.2.phys, partner := e.2.partner, resident := e.2.resident }),
      scrubSeq := s.scrubSeq, waySpares := s.waySpares, waysLost := s.waysLost, spares := s.spares, colSpares := s.colSpares,
      rowRepairs := s.rowRepairs, repairs := s.repairs, wear := s.wear.map (fun w => { unit_ := w.unit_, worn := w.worn }), lanes := s.lanes,
      staged := s.staged, running := s.running }
  .next (retireCores (bootFirmware kept) 4)

/-! Solrus links (R385, R386). -/

/-- Bytes stored at their home here for another package (log 76). -/
def foreignStore (s : State) (spa : Nat) (bs : List Byte) : State :=
  performStore s { id := 0, party := .walkers 3, tenant := 64, asid := 0, va := 0, spa := spa, bytes := bs }

/-- SOLRUS_FLIT_RECEIVE (R385). -/
def execSolrusFlitReceive (f : Flit) (s : State) : Out :=
  let mine := fun (spa : Nat) => s.isLocal spa && mapsMemory spa
  match f with
  | .load id spa n => .next (if mine spa ∧ !s.isBad spa n then sendFlit s (.data id (Mem.read s.mem spa n)) else s)
  | .store id spa bs => .next (if mine spa then sendFlit (foreignStore s spa bs) (.ack id) else s)
  | .amo id op spa dw v c =>
    if !mine spa ∨ s.isBad spa (amoSize dw) then .next s
    else
      let old := Mem.read s.mem spa (amoSize dw)
      let s := match AmoReq.new { op := op, dw := dw, v := v, c := c } (leNat old) with
        | some x => foreignStore s spa (leBytes (amoSize dw) x)
        | none => s
      .next (sendFlit s (.data id old))
  | .data id bs =>
    match s.remotes.find? fun r => decide (r.id = id) && r.st == .sent with
    | some r =>
      let got := (bs ++ List.replicate r.n 0).take r.n
      .next { s with mem := if r.amo.isSome then s.mem else Mem.write s.mem r.spa got,
                     remotes := s.remotes.map fun x => if x.id = id then { x with st := .answered, got := got } else x }
    | none => .next s
  | .ack id => .next (if s.pend.any fun p => decide (p.id = id) && !s.isLocal p.spa then performId s id else s)
  | .halt tenant v => .next (if tenant < 64 then dbgAct s tenant v else s)
  | .icinv tenant va n =>
    .next { s with plots := Tbl.mapVals (fun _ x => x.dropCode tenant va.toNat n) s.plots }

/-- Cycles within which a remote access is delivered (R386). -/
def remoteLimit : Nat := cyclesOfUs 1000

/-- SRC and UNIT of a failed store's record (Table 18.3). -/
def storeUnit (s : State) (p : Pend) : Nat × Nat :=
  match p.party with
  | .thread t => (0, t % 8192)
  | .port q n => (2, q + n * 1024)
  | .chan c => (4, c)
  | .fill _ _ => (5, ((s.drainCmd p.party).map fun c => c.tid % 8192).getD 0)
  | _ => (0, 0)

/-- REMOTE_ACCESS_TIMEOUT (R386): a load or AMO fails for its party; a store is recorded and never performed. -/
def execRemoteAccessTimeout (id : Nat) (s : State) : Out :=
  match s.pend.find? fun p => decide (p.id = id) && !s.isLocal p.spa && decide (p.at_ + remoteLimit ≤ s.cycle) with
  | some p =>
    let u := storeUnit s p
    .next (faultRecord { s with pend := s.pend.filter fun q => q.id ≠ id } p.tenant cUncorr u.1 (p.lnch.getD 0xFFFF) u.2
      (BitVec.ofNat 64 (p.spa / 64 * 64)) p.va)
  | none =>
    .next { s with remotes := s.remotes.map fun r =>
      if r.id = id ∧ r.st = .sent ∧ r.since + remoteLimit ≤ s.cycle then { r with st := .failed } else r }

/-! The host's memory accesses, and management. -/

/-- HOST_SHARED_ACCESS (R260): the host reads a line of a host-shared granule, or writes eight bytes of it; it then holds the
line. -/
def execHostSharedAccess (addr : BitVec 64) (data : Option (BitVec 64)) (s : State) : Out :=
  let a := addr.toNat
  if !s.isLocal a ∨ !isTier2 a ∨ !s.shared.contains (tier2Granule a) ∨ a % 8 ≠ 0 then .next s
  else
    let s := match data with
      | some v => foreignStore s a (leBytes 8 v.toNat)
      | none => s
    .next { s with hostHeld := if s.hostHeld.contains (lineOf a) then s.hostHeld else lineOf a :: s.hostHeld }

/-- MCTP_REQUEST (R388): the answer given over the management channel. -/
def execMctpRequest (q : MctpReq) (s : State) : Out :=
  let reading : State × List Byte := ({ s with free := s.free + 1 }, leBytes 8 (Config.telemetry s.free).toNat)
  match q with
  | .temperatures | .power => .next { reading.1 with mctp := reading.2 }
  | .repairLog first => .next { s with mctp := repairPage s first }
  | .fatal => .next { s with mctp := leBytes 1 (if s.fatal then 1 else 0) }
  | .attest nonce =>
    let f := s.fresh
    .next { f.2 with mctp := reportBytes (reportData s 0xFF nonce) f.1.toNat }

end Sys2Proof.Machine
end

