-- ==== Sys2Proof/Machine/Near.lean ====
section
/-! DEFINITION. Near-bank units and their mailboxes (R261-R267). -/

namespace Sys2Proof.Machine

/-- A near-bank descriptor (Table 11.10). -/
structure NDesc where
  waddr : Nat
  wstr  : Int
  vaddr : Nat
  saddr : Nat
  raddr : Nat
  len   : Nat
  rows  : Nat
  fmt   : Nat
  deriving DecidableEq, Repr

/-- The fields of a descriptor. -/
def ndesc (b : List Byte) : NDesc :=
  { waddr := fieldAt b 0 8, wstr := signedOf 64 (fieldAt b 8 8), vaddr := fieldAt b 0x10 8, saddr := fieldAt b 0x18 8,
    raddr := fieldAt b 0x20 8, len := fieldAt b 0x28 4, rows := fieldAt b 0x2C 4, fmt := fieldAt b 0x30 1 }

/-- Whether weights are block floating point. -/
def NDesc.bfp (d : NDesc) : Bool := decide (d.fmt ≤ 1)

/-- Whether NBDOT accepts a descriptor (R264). -/
def ndescOk (b : List Byte) : Bool :=
  let d := ndesc b
  fieldAt b 0x31 15 == 0 && d.waddr % 64 == 0 && d.wstr % 64 == 0 && d.vaddr % 64 == 0 && d.raddr % 8 == 0 &&
  decide (32 ≤ d.len) && decide (d.len ≤ 1024) && d.len % 32 == 0 && decide (1 ≤ d.rows) && decide (d.rows ≤ 1024) &&
  decide (d.fmt ≤ 3) && (d.saddr == 0) != d.bfp

/-- A mailbox's tenant. -/
def Mbox.tenant (x : Mbox) : Nat := if x.scrubbing then 64 else x.owner.getD 64

/-- Whether a tenant holds a mailbox. -/
def State.mboxHeld (s : State) (m v : Nat) : Bool := decide (m < 256) && (s.mbox m).tenant == v && decide (v < 64)

/-- NBDOT (R264). -/
def execNbdot (rd rs1 rs2 : Reg) (s : State) : Out :=
  let a := s.g rs1
  let m := (s.g rs2).toNat
  onThread s rd <|
    if 256 ≤ m then status s rd stBADARG
    else if !s.mboxHeld m s.curTenant then status s rd stDENIED
    else if a.toNat % 64 ≠ 0 ∨ 2 ^ 56 ≤ a.toNat then status s rd stBADARG
    else
      match dataLoad s a 64 false with
      | (.ok b, s) =>
        if !ndescOk b then status s rd stBADARG
        else if (s.mbox m).st = 1 then status s rd stBUSY
        else acceptCmd s rd (.nbdot m b) fun s => s.setMbox m { s.mbox m with st := 1, status := 0, rows := 0 }
      | (r, s) => dresOut s r

/-- NBDOT_START (R264): a release of the thread's earlier accesses. -/
def execNbdotStart (tid : Nat) (s : State) : Out :=
  match popCmd s tid false fun k => match k with | .nbdot _ _ => true | _ => false with
  | some (c, s) =>
    match c.k with
    | .nbdot m _ =>
      if (s.mbox m).tenant ≠ c.tenant then .next s
      else
        let s := beginCmd (releaseThread s c.tid) (tid / 8) c
        .next (s.setMbox m { s.mbox m with cmd := some c })
    | _ => .next s
  | none => .next s

/-! Rows. -/

/-- Bits of a weight element. -/
def nbWidth (fmt : Nat) : Nat := match fmt with | 0 => 4 | 1 | 2 => 8 | _ => 16

/-- Bytes of a weight row. -/
def NDesc.rowBytes (d : NDesc) : Nat := d.len * nbWidth d.fmt / 8

/-- The value of weight `k` of a row's bits. -/
def nbWeight (fmt : Nat) (scales : List Byte) (bits k : Nat) : Val :=
  let e := bitsAt bits (nbWidth fmt * k) (nbWidth fmt)
  match fmt with
  | 0 => bfpVal 4 (scales.getD (k / 32) 0).toNat (signedOf 4 e)
  | 1 => bfpVal 8 (scales.getD (k / 32) 0).toNat (signedOf 8 e)
  | 2 => fpE4M3.val e
  | _ => fp16.val e

/-- NbDot (R265). -/
def nbDot (fmt len : Nat) (scales row vec : List Byte) : BitVec 32 :=
  let bits := leNat row
  let v := leNat vec
  let ps := (List.range len).map fun k => Val.mul (nbWeight fmt scales bits k) (fp16.val (bitsAt v (16 * k) 16))
  BitVec.ofNat 32 (fp32.round .rne false (ps.foldl (Val.add .rne) (.fin false 0 0)))

/-- What the permission table answers for a row at a system address (R262): none when the row is allowed. -/
def State.permRefuses (s : State) (spa v : Nat) : Option Nat :=
  let e := (Tbl.getD s.perms (localOf spa / 0x200000) 0).toNat
  if !bitAt e 6 ∨ e % 64 ≠ v ∨ !bitAt e 8 then some stDENIED
  else if bitAt e 7 then some stENCRYPTED
  else none

/-- What one row gives: a wait, a value, or a refusal with its status; a refused row's slot takes the canonical NaN, and
one whose translation is fatal, of which no value is stated, a free value (log 32), and leaves a fault to record: cause, EINFO,
address (R248). -/
inductive NRow where
  | wait
  | val (v : BitVec 32)
  | bad (code : Nat) (v : Option (BitVec 32)) (fault : Option (Nat × Word × Word))
  deriving DecidableEq, Repr

/-- The canonical NaN of a refused slot (R262). -/
def nbNan : BitVec 32 := 0x7FC00000

/-- What an access of a row that did not succeed gives. -/
def nbStop (c : Cmd) (r : XRes) (va : Word) : NRow :=
  match r with
  | .wait => .wait
  | .uncorr a => let e := uncorrRecord a; .bad stDENIED none (some (e.1, e.2, va))
  | .fatal rs lvl => .bad stDENIED none (some (cLoad, xlatInfo c.asid rs lvl, va))
  | .lost _ => .bad stDENIED none (some (cLoad, xlatInfo c.asid .undelivered 0, va))
  | .ok _ => .bad stDENIED none none

/-- Row `i` (R264). -/
def nbRow (s : State) (m : Nat) (c : Cmd) (d : NDesc) (vec : List Byte) (i : Nat) : NRow × State :=
  let va := BitVec.ofInt 64 ((d.waddr : Int) + (i : Int) * d.wstr)
  if va.toNat / 2048 ≠ (va.toNat + d.rowBytes - 1) / 2048 then (.bad stBADARG (some nbNan) none, s)
  else
    match translate s (.near m) 0 c.tenant c.asid true va .read with
    | (.ok spa, s) =>
      if !(isHbm spa && s.isLocal spa) then (.bad stBADARG (some nbNan) none, s)
      else
        match s.permRefuses spa c.tenant with
        | some code => (.bad code (some nbNan) none, s)
        | none =>
          if s.isBad spa d.rowBytes then (nbStop c (.uncorr spa) va, s)
          else
            let row := Mem.read s.mem spa d.rowBytes
            let sva := BitVec.ofNat 64 (d.saddr + i * (d.len / 32))
            match (if d.bfp then unitLoad s (.near m) 0 c.tenant c.asid (segsOf sva (d.len / 32)) [] else ((.ok 0, 0, []), s)) with
            | ((.ok _, _, sc), s) => (.val (nbDot d.fmt d.len sc row vec), s)
            | ((r, va, _), s) => (nbStop c r va, s)
    | (r, s) => (nbStop c r va, s)

/-- Rows from `i` on, over `n` rows left; a row that waits makes the command wait. A fatal answer holds for every row of its page,
and until the command is done (R252). -/
def nbRows (s : State) (m : Nat) (c : Cmd) (d : NDesc) (vec : List Byte) (i : Nat) : Nat → List NRow → List NRow × State
  | 0, acc => (acc, s)
  | n + 1, acc =>
    let r := nbRow s m c d vec i
    nbRows { r.2 with fatals := s.fatals } m c d vec (i + 1) n (acc ++ [r.1])

/-- The slots' values, with a free value where none is stated. -/
def nbValues (s : State) : List NRow → List (BitVec 32) × State
  | [] => ([], s)
  | r :: rest =>
    match r with
    | .val v | .bad _ (some v) _ => let q := nbValues s rest; (v :: q.1, q.2)
    | _ => let f := s.fresh; let q := nbValues f.2 rest; (f.1.setWidth 32 :: q.1, q.2)

/-- The status of a command: the refusal of the lowest row (R264). -/
def nbStatus (rows : List NRow) : Nat := (rows.findSome? fun r => match r with | .bad code _ _ => some code | _ => none).getD stOK

/-- Fatal translations and uncorrectable errors recorded (R248, R336, log 27). -/
def nbErrors (s : State) (c : Cmd) (rows : List NRow) : State :=
  rows.foldl (fun s r =>
    match r with
    | .bad _ _ (some (cause, info, va)) => faultRecord s c.tenant cause 0 c.lnch (c.tid % 8192) info va
    | _ => s) s

/-- The results stored (R264); a fatal translation sets status DENIED and is recorded. -/
def nbStores (s : State) (m : Nat) (c : Cmd) (va : Word) : List (BitVec 32) → Bool × State
  | [] => (true, s)
  | v :: rest =>
    match unitStore s (.near m) c.tenant c.asid (some c.lnch) va (leBytes 4 v.toNat) with
    | ((.ok _, _), s) => nbStores s m c (va + 4) rest
    | ((r, _), s) =>
      (false, match r with
        | .fatal rs lvl => faultRecord s c.tenant cStore 0 c.lnch (c.tid % 8192) (xlatInfo c.asid rs lvl) va
        | .uncorr a => nbErrors s c [nbStop c (.uncorr a) va]
        | .lost _ => faultRecord s c.tenant cStore 0 c.lnch (c.tid % 8192) (xlatInfo c.asid .undelivered 0) va
        | _ => s)

/-- The oldest wake that a mailbox owes delivered to its gate (R261), unless the gate still holds it back. -/
def nbOwed (s : State) (m : Nat) : State :=
  match (s.mbox m).owed with
  | [] => s
  | (sel, v, i) :: rest =>
    match gateDone s sel v i with
    | some s => s.setMbox m { s.mbox m with owed := rest }
    | none => s

/-- A completed command leaves its mailbox, and with EN = 1 its wake is due at the gate that NBWAKE names then (R261). -/
def nbWake (s : State) (m : Nat) (c : Cmd) : State :=
  let x := s.mbox m
  let w := x.wake.toNat
  let due := if bitAt w 0 then [(BitVec.ofNat 64 (bitsAt w 1 15), c.tenant, c.lnch)] else []
  let s := s.setMbox m { x with cmd := none, owed := x.owed ++ due }
  nbOwed (completeCmds (endXlats s (.near m)) (c.tid % 8192 / 8) fun d => d.id == c.id) m

/-- The command's rows computed and stored, its status set, then the wake. -/
def nbFinish (s : State) (m : Nat) (c : Cmd) (d : NDesc) (rows : List NRow) : State :=
  let v := nbValues s rows
  let s := nbErrors v.2 c rows
  let st := nbStores s m c (BitVec.ofNat 64 d.raddr) v.1
  let s := drainParty (withdraw st.2 (.near m)) (.near m)
  let code := if st.1 then nbStatus rows else stDENIED
  nbWake (s.setMbox m { s.mbox m with st := 2, status := code, rows := d.rows,
                                      slots := (v.1.zipIdx).foldl (fun t e => Tbl.set t e.2 e.1) (s.mbox m).slots }) m c

/-- NBDOT_COMPLETE (R264, R261): wakes that are owed come first. -/
def execNbdotComplete (mbox : Nat) (s : State) : Out :=
  let s := nbOwed s mbox
  match (s.mbox mbox).cmd with
  | none => .next s
  | some c =>
    match c.k with
    | .nbdot _ b =>
      let d := ndesc b
      let party : Holder := .near mbox
      match pagesWait s party c.tenant c.asid .write (segsOf (BitVec.ofNat 64 d.raddr) (4 * d.rows)) with
      | (true, s) => .next s
      | (false, s) =>
        match unitLoad s party 0 c.tenant c.asid (segsOf (BitVec.ofNat 64 d.vaddr) (2 * d.len)) [] with
        | ((.wait, _, _), s) => .next s
        | ((.ok _, _, vec), s) =>
          let r := nbRows s mbox c d vec 0 d.rows []
          .next (if r.1.any fun x => x == .wait then r.2 else nbFinish r.2 mbox c d r.1)
        | ((r, va, _), s) => .next (nbFinish s mbox c d (nbStop c r va :: List.replicate (d.rows - 1) (.bad stDENIED none none)))
    | _ => .next s

/-- NBWAIT (R267). -/
def execNbwait (rd rs1 rs2 : Reg) (s : State) : Out :=
  let i : Instr := .nbwait rd rs1 rs2
  let m := (s.g rs1).toNat
  let x := s.mbox m
  onThread s rd <|
    if 256 ≤ m then status s rd stBADARG
    else if !s.mboxHeld m s.curTenant then status s rd stDENIED
    else if x.st = 0 then status s rd stBADARG
    else if x.st = 2 then status (acquire s) rd x.status
    else if expired s i (s.g rs2) then status s rd stBUSY
    else waitIn s i 0

/-- HBM_REFRESH_DUE (R266): the refresh is postponed while the standard's allowance lasts, otherwise it runs at once;
results do not depend on it. -/
def execHbmRefreshDue (mbox : Nat) (s : State) : Out :=
  let x := s.mbox mbox
  .next (if x.st ≠ 1 then s
    else s.setMbox mbox { x with postponed := if x.postponed < Config.refreshAllowance then x.postponed + 1 else 0 })

end Sys2Proof.Machine
end

