-- ==== Sys2Proof/Machine/Csr.lean ====
section
/-! DEFINITION. The system registers (R28, R78, R109, R140, R158, R202, R228, R257, R289, R312, R335, R369, R391) and
the four instructions that read and write them (R79). -/

namespace Sys2Proof.Machine

/-! What a register's entry says of access. -/

/-- A row of the tables of system registers: first and last number, privilege of reading, privilege of writing when it
may be written. -/
structure CsrRow where
  lo : Nat
  hi : Nat
  rd : Priv
  wr : Option Priv := none
  deriving DecidableEq, Repr

/-- Tables 4.4, 5.4, 6.5, 7.3, 8.7. -/
def csrRowsA : List CsrRow :=
  [{ lo := 0x000, hi := 0x009, rd := .u }, { lo := 0x010, hi := 0x010, rd := .u, wr := some .u },
   { lo := 0x100, hi := 0x103, rd := .u, wr := some .s }, { lo := 0x104, hi := 0x10F, rd := .u },
   { lo := 0x110, hi := 0x113, rd := .u }, { lo := 0x120, hi := 0x12F, rd := .u }, { lo := 0x130, hi := 0x130, rd := .u },
   { lo := 0x180, hi := 0x1AF, rd := .u }, { lo := 0x1B0, hi := 0x1B3, rd := .l },
   { lo := 0x1B4, hi := 0x1B4, rd := .l, wr := some .l }, { lo := 0x1B5, hi := 0x1B5, rd := .l },
   { lo := 0x1B6, hi := 0x1B6, rd := .l, wr := some .l },
   { lo := 0x200, hi := 0x202, rd := .u }, { lo := 0x203, hi := 0x203, rd := .u, wr := some .s },
   { lo := 0x204, hi := 0x207, rd := .u }]

/-- Tables 11.8, 13.4, 10.2, 15.6. -/
def csrRowsB : List CsrRow :=
  [{ lo := 0x210, hi := 0x210, rd := .s, wr := some .s }, { lo := 0x211, hi := 0x212, rd := .s },
   { lo := 0x213, hi := 0x214, rd := .s, wr := some .s }, { lo := 0x215, hi := 0x216, rd := .s },
   { lo := 0x220, hi := 0x221, rd := .u, wr := some .u }, { lo := 0x222, hi := 0x222, rd := .u },
   { lo := 0x228, hi := 0x22B, rd := .u }, { lo := 0x280, hi := 0x282, rd := .u },
   { lo := 0x300, hi := 0x300, rd := .u, wr := some .u }, { lo := 0x301, hi := 0x302, rd := .u },
   { lo := 0x310, hi := 0x313, rd := .u },
   { lo := 0x380, hi := 0x381, rd := .u }, { lo := 0x382, hi := 0x382, rd := .s },
   { lo := 0x383, hi := 0x383, rd := .s, wr := some .s }, { lo := 0x3C0, hi := 0x3C3, rd := .l },
   { lo := 0x3C4, hi := 0x3C5, rd := .l, wr := some .l }]

/-- Tables 16.3, 18.7, 19.7. -/
def csrRowsC : List CsrRow :=
  [{ lo := 0x400, hi := 0x400, rd := .u, wr := some .s }, { lo := 0x401, hi := 0x40B, rd := .s, wr := some .s },
   { lo := 0x410, hi := 0x413, rd := .u }, { lo := 0x414, hi := 0x415, rd := .s, wr := some .s },
   { lo := 0x418, hi := 0x418, rd := .s, wr := some .s }, { lo := 0x440, hi := 0x47F, rd := .s, wr := some .l },
   { lo := 0x480, hi := 0x480, rd := .u }, { lo := 0x481, hi := 0x485, rd := .s, wr := some .s },
   { lo := 0x486, hi := 0x486, rd := .u }, { lo := 0x488, hi := 0x489, rd := .s, wr := some .s },
   { lo := 0x48A, hi := 0x48A, rd := .s }, { lo := 0x48B, hi := 0x48C, rd := .u },
   { lo := 0x490, hi := 0x493, rd := .u }, { lo := 0x4A0, hi := 0x4A1, rd := .l },
   { lo := 0x500, hi := 0x503, rd := .u }, { lo := 0x504, hi := 0x505, rd := .s }, { lo := 0x506, hi := 0x506, rd := .u }]

/-- The row that assigns a number, if a chapter does. -/
def csrRow (n : Nat) : Option CsrRow :=
  (csrRowsA ++ csrRowsB ++ csrRowsC).find? fun r => decide (r.lo ≤ n) && decide (n ≤ r.hi)

/-! Reading. -/

/-- A word of bit fields: (value, least bit, width). -/
def fields (fs : List (Nat × Nat × Nat)) : Word := BitVec.ofNat 64 (fs.foldl (fun a f => a + f.1 % 2 ^ f.2.2 * 2 ^ f.2.1) 0)

/-- A bit of a field list. -/
def flag (b : Bool) : Nat := if b then 1 else 0

/-- The bits that the tables of the registers define of a register that describes a unit or a tenant; its others are res0 and
read as zero (R3). -/
def regBits (n : Nat) : Word :=
  match n with
  | 2 => 0x7
  | 7 => 0x3FFF
  | 0x130 => 0xF1F
  | 0x1B0 => 0x1FFFF
  | 0x1B4 => 0
  | 0x1B6 => 0xFFFFFFFFFFFFFFFC
  | 0x200 | 0x202 => 0xFFFFFFFFFFFFF000
  | 0x203 => 0xFFFF
  | 0x210 => 0xFFFFFFF80000
  | 0x211 => 0x1FFFFFFFFFFFFFFF
  | 0x212 => 0xFFFFFFFFFFFF
  | 0x213 => 0xFFFFFFFFF007
  | 0x215 => 0x3FFFF
  | 0x280 => 0x1FFF1FFF
  | 0x380 => 0x1FFFFFFF
  | 0x381 => 0xFFF
  | 0x382 => 0xFFFFFFFF
  | 0x3C0 => 0xF
  | 0x3C5 => 0x3
  | 0x401 => 0xFFFFFFFFFFFFFC
  | 0x409 => 0xFFFFFFFF
  | 0x414 => 0xFFFFFFFFFFFF
  | 0x415 => 0xFFFFF
  | 0x418 => 0x7FFFF
  | 0x480 => 0x3F
  | 0x481 => 0xFFFFFFFFF000
  | 0x488 => 0xFFFFFFFFF007
  | 0x489 | 0x48A => 0xFFFFFFFF
  | 0x48B => 0xFFFFFFFFF
  | 0x48C => 0x7FFF
  | 0x500 => 0x7FFFF
  | 0x502 => 0x1
  | 0x504 => 0x1F1F
  | _ => BitVec.allOnes 64

/-- What a register that describes a unit or a tenant reads as on a context that has none: free in the bits it defines
(log 21). -/
def unitless (n : Nat) : Word := Config.noUnit n &&& regBits n

/-- A register that describes a thread, read on a context that runs none (log 21). -/
def State.ofThread (s : State) (n : Nat) (v : Word) : Word := if s.isThread then v else unitless n

/-- The plot of the issuing context, if it has one. -/
def State.plotHere (s : State) : Option Nat :=
  match s.cur with
  | .thread t => some (t / 8)
  | .assist p => some p
  | .lodge _ => none

/-- A register that describes a plot, read on a lodge core (log 21). -/
def State.ofPlot (s : State) (n : Nat) (f : Nat → Word) : Word :=
  match s.plotHere with
  | some p => f p
  | none => unitless n

/-- A register of the assists of the issuing context's plot, free on a lodge core (R202, log 21). -/
def State.ofAssist (s : State) (n : Nat) (f : Nat → Word) : Word :=
  match s.cur with
  | .assist p => f p
  | .thread t => f (t / 8)
  | .lodge _ => unitless n

/-- A register that describes a tenant, read on a context of none (log 21). -/
def State.ofTenant (s : State) (n : Nat) (f : Tenant → Word) : Word :=
  match s.ctx.tenant with
  | some v => f (s.tenant v)
  | none => unitless n

/-- Whether the issuing context's tenant holds a plane of its plot. -/
def State.holdsPlane (s : State) (k : Nat) : Bool := s.ctx.tenant.isSome && s.planeOwner s.curPlot k == s.ctx.tenant

/-- Whether the issuing context's tenant holds a plane that claims a port. -/
def State.holdsPort (s : State) (n : Nat) : Bool :=
  match s.portPlane s.curPlot n with
  | some k => s.holdsPlane k
  | none => false

/-- Whether the issuing context's tenant has claimed a lattice. -/
def State.holdsLat (s : State) (l : Nat) : Bool :=
  match s.latPlane s.curPlot l with
  | some k => s.holdsPlane k && s.latHolder s.curPlot l == s.ctx.tenant
  | none => false

/-- TIME and CYCLE of a context; a lodge core has a reading of its own (R78). -/
def State.clockUnit (s : State) : Nat := match s.cur with | .lodge c => 640 + c | _ => s.curPlot

/-- Table 4.4. -/
def csrThread (s : State) (n : Nat) : Word :=
  let c := s.ctx
  match n with
  | 0 => match s.cur with | .thread t => BitVec.ofNat 64 t | .lodge _ => 0xFFFF | .assist _ => unitless 0
  | 1 => match s.cur with | .lodge _ => 0xFFFF | _ => BitVec.ofNat 64 s.curPlot
  | 2 => s.ofThread 2 (BitVec.ofNat 64 (s.curTid % 8))
  | 3 => s.ofThread 3 (BitVec.ofNat 64 c.lidx)
  | 4 => BitVec.ofNat 64 (s.timeOn s.clockUnit)
  | 5 => BitVec.ofNat 64 (s.cycleOn s.clockUnit)
  | 6 => s.ofThread 6 (BitVec.ofNat 64 c.nthr)
  | 7 => s.ofThread 7 (BitVec.ofNat 64 c.lnch)
  | 8 => c.retired
  | 9 => BitVec.ofNat 64 c.setcnt
  | _ => c.uscratch

/-- The code of a plane's state (R140). -/
def PlaneSt.code : PlaneSt → Nat
  | .unconfigured => 0 | .loading => 1 | .configured => 2 | .faulted => 3

/-- The code of a port's state (R140). -/
def PortSt.code : PortSt → Nat
  | .idle => 0 | .bound => 1 | .closed => 2 | .faulted => 3

/-- Table 5.4 and PSTATE of Table 6.5, for a plane that is held. -/
def csrPlane (s : State) (p k row : Nat) : Word :=
  let x := s.plane p k
  match row with
  | 0 => fields [(x.written.1, 0, 12), (flag x.written.2, 12, 1)]
  | 1 => x.fires
  | 2 => x.promo
  | 3 => x.cfault
  | _ => fields [(x.st.code, 0, 2), (flag (s.residentPlane p == some k), 2, 1), (x.portmask, 3, 16), (x.latmask, 19, 4)]

/-- PORTn, of a port that plane `k` claims (R140). -/
def csrPort (x : Port) (k : Nat) : Word :=
  fields [(x.st.code, 0, 2), (k, 2, 2), (flag x.d.write, 4, 1), (flag x.stalled, 5, 1), (flag x.marker.isSome, 6, 1),
          (x.count.toNat, 32, 32)]

/-- The state of a lattice (R202): RUNNING from the start of a binding to its completion (DEDUCED, log 43). -/
def latCode (s : State) (p l : Nat) : Nat :=
  let x := s.lat p l
  if x.faulted then 3
  else if (s.plot p).apend.any fun q => q.lat == l && !q.dead then 2
  else if x.binds.any fun b => b.started then 1
  else 0

/-- LSTATE, LSLOT, LFREE, LROWS (R202), for a lattice that is claimed (log 45). -/
def csrLat (s : State) (p l row : Nat) : Word :=
  let x := s.lat p l
  match row with
  | 0 => fields [(latCode s p l, 0, 2), (flag x.shadow.isSome, 2, 1), (x.actSlot, 3, 5), (x.actFmt.getD 15, 8, 4),
                 ((s.latPlane p l).getD 0, 12, 2), (1, 14, 1), (x.binds.length, 15, 3)]
  | 1 => fields ((List.range 32).map (fun i => (flag ((x.slot i).st == .valid), i, 1)) ++
                 (List.range 32).map fun i => (flag ((x.slot i).st == .failed), 32 + i, 1))
  | 2 => BitVec.ofNat 64 x.free
  | _ => x.rows

/-- ARENORM (R202). -/
def csrRenorm (t : Acc) : Word := fields [(t.renorm, 0, 32), (t.maxshift, 32, 8), (flag t.ovf, 40, 1), (flag t.wide, 41, 1)]

/-- The assist registers (R201, R202). -/
def csrAssist (s : State) (n : Nat) : Word :=
  s.ofAssist n fun p =>
    let x := s.plot p
    match n with
    | 0x1B0 => match x.presented with
      | some r => fields [(r.tile, 0, 4), (r.row, 4, 6), (r.col, 10, 6), (1, 16, 1)]
      | none => 0
    | 0x1B1 => (x.presented.map fun r => r.acc).getD (unitless n)
    | 0x1B2 => (x.presented.map fun r => r.a).getD (unitless n)
    | 0x1B3 => (x.presented.map fun r => r.b).getD (unitless n)
    | 0x1B4 => 0
    | 0x1B5 => x.acnt
    | _ => x.avec

/-- Numbers 0x100 to 0x1FF; PORTn of a port that no plane of the plot claims reads 0, as that of a port whose plane is not held (R140,
log 92). -/
def csrFabric (s : State) (n : Nat) : Word :=
  let p := s.curPlot
  if n < 0x114 then (if s.holdsPlane (n % 4) then csrPlane s p (n % 4) ((n - 0x100) / 4) else 0)
  else if n < 0x130 then (if s.holdsPort (n - 0x120) then csrPort (s.port p (n - 0x120)) ((s.portPlane p (n - 0x120)).getD 0) else 0)
  else if n < 0x180 then s.ofPlot n fun p => fields [((s.plot p).occupied false, 0, 5), ((s.plot p).occupied true, 8, 4)]
  else if n < 0x190 then (if s.holdsLat (n % 4) then csrLat s p (n % 4) ((n - 0x180) / 4) else 0)
  else if n < 0x1A0 then (if s.holdsLat (n % 16 / 4) then csrRenorm (s.acc p (n - 0x190)) else 0)
  else if n < 0x1B0 then (if s.holdsLat (n % 16 / 4) then BitVec.ofNat 64 (s.acc p (n - 0x1A0)).trunc else 0)
  else csrAssist s n

/-- Bits of the units of a die that the issuing context's tenant holds. -/
def heldBits (s : State) (held : Nat → Nat → Bool) (die : Nat) : Word :=
  match s.ctx.tenant with
  | some v => fields ((List.range 64).map fun i => (flag (held (die * 64 + i) v), i, 1))
  | none => 0

/-- Level-1 bytes that the tenant may still pin on the die: its quota and the die's limit both allow them (log 79). -/
def pinFree (s : State) (die v : Nat) : Nat :=
  min (pinGranules (s.tenant v).pinq - s.pinned die (some v)) (pinLimit - s.pinned die none) * 4096

/-- The page-request entries of PRQHELD (R257). -/
def prqWord (s : State) (die v : Nat) : Word :=
  let l := prqHeld s die v
  fields [(l.length, 0, 9), ((l.filter fun i => decide (256 ≤ i)).length, 9, 9)]

/-- The die of the issuing context's plot. -/
def State.dieHere (s : State) : Nat := dieOf s.curPlot

/-- Tables 7.3 and 11.8. -/
def csrMemory (s : State) (n : Nat) : Word :=
  let c := s.ctx
  let m := c.nbsel.toNat
  let mine := s.mboxHeld m s.curTenant
  match n with
  | 0x200 => s.ofThread n c.privbase
  | 0x201 => s.ofThread n (BitVec.ofNat 64 c.carve)
  | 0x202 => s.ofThread n c.ovfptr
  | 0x203 => s.ofThread n (BitVec.ofNat 64 c.asid)
  | 0x204 => 0x1000000
  | 0x205 => s.ofPlot n fun p => BitVec.ofNat 64 ((s.plot p).gfree * 4096)
  | 0x206 => s.ofThread n (BitVec.ofNat 64 (pinFree s s.dieHere s.curTenant))
  | 0x207 => BitVec.ofNat 64 c.fadd.length
  | 0x210 => s.ofTenant n fun t => BitVec.ofNat 64 t.asidtab
  | 0x211 => s.ofTenant n fun t => BitVec.ofNat 64 t.pbase
  | 0x212 => s.ofTenant n fun t => BitVec.ofNat 64 t.plimit
  | 0x213 => s.ofTenant n fun t => t.prqlog
  | 0x214 => 0
  | 0x215 => s.ofThread n (prqWord s s.dieHere s.curTenant)
  | 0x216 => BitVec.ofNat 64 (flag c.tlbpend)
  | 0x220 => c.nbsel
  | 0x221 => if mine then (s.mbox m).wake else 0
  | 0x222 => if mine then fields [((s.mbox m).st, 0, 2), ((s.mbox m).status, 2, 3), ((s.mbox m).rows, 16, 11)] else 0
  | _ => heldBits s s.mboxHeld (n - 0x228)

/-- Table 13.4. -/
def csrDerived (s : State) (n : Nat) : Word :=
  match n with
  | 0x280 => match s.ctx.tenant with
    | some v => fields [(s.regionsOf v, 0, 13), ((s.tenant v).regq, 16, 13)]
    | none => unitless n
  | 0x281 => BitVec.ofNat 64 s.freeStates
  | _ => BitVec.ofNat 64 (flag (s.isThread && s.derivedPend s.curTenant (.thread s.curTid)))

/-- Table 10.2. -/
def csrRing (s : State) (n : Nat) : Word :=
  let sel := s.ctx.gatesel
  let g := s.gateOf sel
  let mine := gateSelOk sel && s.ctx.tenant.isSome && s.plotOwner (gatePlot sel) == s.ctx.tenant
  match n with
  | 0x300 => sel
  | 0x301 => if mine then fields [(g.arr, 0, 16), (wrapBits 24 g.txn, 16, 24), (flag g.overrun, 40, 1)] else 0
  | 0x302 => if mine then fields [(g.phase.toNat, 0, 32), (g.arrinit, 32, 16)] else 0
  | _ => heldBits s s.chanHeld (n - 0x310)

/-- Table 15.6. -/
def csrLaunch (s : State) (n : Nat) : Word :=
  match n with
  | 0x380 => s.ofTenant n fun t => fields [(t.recFirst, 0, 14), (t.recCount, 14, 15)]
  | 0x381 => s.ofThread n s.ctx.stageid
  | 0x382 => match s.ctx.tenant with
    | some v => fields [(s.classUse v s.ctx.qcsel.toNat, 0, 16), (s.lmaxOf v s.ctx.qcsel.toNat, 16, 16)]
    | none => unitless n
  | 0x383 => s.ctx.qcsel
  | 0x3C0 => match s.cur with | .lodge k => fields [(k, 0, 2), ((s.lodge k).role.code, 2, 2)] | _ => unitless n
  | 0x3C1 => BitVec.ofNat 64 s.jnext
  | 0x3C2 => BitVec.ofNat 64 s.held.length
  | 0x3C3 => s.lfault
  | 0x3C4 => s.takevec
  | _ => match s.cur with | .lodge k => BitVec.ofNat 64 (s.lodge k).lfrsel | _ => unitless n

/-- CUTST of a plane that is held (R335). -/
def csrCut (s : State) (p k : Nat) : Word :=
  let c := s.cutsOf (s.regionKey p k)
  fields [(c.lastNum, 0, 16), (if c.active then c.num else 0, 16, 16), (flag c.active, 32, 1), (flag c.exists_, 33, 1),
          (flag c.rolled, 34, 1)]

/-- The die whose frame table FRAME0 to FRAME63 reach (R335). -/
def State.frameDie (s : State) : Nat := match s.cur with | .lodge k => (s.lodge k).lfrsel | _ => s.dieHere

/-- A frame entry as written (R321). -/
def State.frameEntry (s : State) (die i : Nat) : Word := Tbl.getD s.frames (die * 64 + i) 0

/-- Table 16.3. -/
def csrTrap (s : State) (n : Nat) : Word :=
  let c := s.ctx
  match n with
  | 0x400 => fields [(c.priv.code, 0, 2), (c.pp.code, 2, 2)]
  | 0x401 => match s.cur with | .lodge k => (s.lodge k).tvec | _ => s.ofTenant n fun t => t.tvec
  | 0x402 => c.epc
  | 0x403 => c.ecause
  | 0x404 => c.faddr
  | 0x405 => c.fbyte
  | 0x406 => c.clause
  | 0x407 => c.escratch
  | 0x408 => c.einfo
  | 0x409 => s.ofTenant n fun t => BitVec.ofNat 64 t.qstallmax
  | 0x40A => c.clrem
  | 0x40B => c.clhdr
  | 0x414 => s.ofTenant n fun t => t.savecfg
  | 0x415 => s.ofTenant n fun t => BitVec.ofNat 64 t.cutint
  | 0x418 => match c.tenant with | some v => dbgRead s v | none => unitless n
  | _ => if n < 0x414 then (if s.holdsPlane (n % 4) then csrCut s s.curPlot (n % 4) else 0)
    else s.frameEntry s.frameDie (n - 0x440)

/-- Whether a scrub request is being cleared (SCRUBST). -/
def State.clearing (s : State) : Bool := s.scrubs.any fun q => q.started && !q.cleared

/-- Table 18.7. -/
def csrTenant (s : State) (n : Nat) : Word :=
  match n with
  | 0x480 => match s.ctx.tenant with | some v => BitVec.ofNat 64 v | none => unitless n
  | 0x481 => s.ofTenant n fun t => t.tokbuf
  | 0x486 => s.ofTenant n fun t => t.tokseq
  | 0x488 => s.ofTenant n fun t => t.fqbase
  | 0x489 => s.ofTenant n fun t => t.fqtake
  | 0x48A => s.ofTenant n fun t => BitVec.ofNat 64 t.fqlost
  | 0x48B => s.ofTenant n fun t => fields [(t.setq, 0, 15), (t.regq, 15, 13), (t.pinq, 28, 8)]
  | 0x48C => match s.ctx.tenant with | some v => BitVec.ofNat 64 (s.setCount v) | none => unitless n
  | 0x4A0 => fields [(s.scrubs.length, 0, 4), (flag s.clearing, 4, 1)]
  | 0x4A1 => BitVec.ofNat 64 s.scrubLast
  | _ => if n < 0x486 then s.ofTenant n fun t => t.nonce.toList.getD (n - 0x482) 0
    else leWord ((devidBytes.drop (8 * (n - 0x490))).take 8)

/-- Table 19.7. -/
def csrPackage (s : State) (n : Nat) : Word :=
  match n with
  | 0x500 => s.ofPlot n fun p =>
      fields [(s.physOf p, 0, 8), (flag (s.plot p).partner.isSome, 8, 1), ((s.plot p).partner.getD 0, 9, 10)]
  | 0x501 => BitVec.ofNat 64 (min s.repairs.length (2 ^ 32 - 1))
  | 0x502 => s.ofThread n (BitVec.ofNat 64 (flag (s.isRepro (some s.ctx.lnch))))
  | 0x503 => s.ofPlot n fun p => (s.plot p).throttle
  | 0x504 => s.ofPlot n fun p => fields [(plotSpares - s.sparesUsed (dieOf p), 0, 5), (s.pairsOn (dieOf p), 8, 5)]
  | 0x505 => BitVec.ofNat 64 s.pwrcap
  | _ => BitVec.ofNat 64 s.locid

/-- CSR[n] of the issuing context, for a number that is assigned. -/
def csrRead (s : State) (n : Nat) : Word :=
  if n < 0x100 then csrThread s n
  else if n < 0x200 then csrFabric s n
  else if n < 0x280 then csrMemory s n
  else if n < 0x300 then csrDerived s n
  else if n < 0x380 then csrRing s n
  else if n < 0x400 then csrLaunch s n
  else if n < 0x480 then csrTrap s n
  else if n < 0x500 then csrTenant s n
  else csrPackage s n

/-! Writing. -/

/-- PCELL written (R109): AGELIM 0 stores 1, and both options take effect 8 cycles later (log 80). -/
def pcellWrite (s : State) (p k : Nat) (v : Word) : State :=
  let x := s.plane p k
  let now := x.opts s.cycle
  let late := x.nextOpt.filter fun e => decide (s.cycle < e.1 + 8)
  s.setPlane p k { x with agelim := now.1, deadtrap := now.2,
                          nextOpt := late ++ [(s.cycle, max 1 (bitsAt v.toNat 0 12), bitAt v.toNat 12)] }

/-- A tenant's register written; a context of no tenant writes nothing. -/
def State.onTenant (s : State) (f : Tenant → Tenant) : State :=
  match s.ctx.tenant with
  | some v => s.setTenant v (f (s.tenant v))
  | none => s

/-- A privilege from its code; the code of no level stores the current one. -/
def privOf (cur : Priv) (n : Nat) : Priv :=
  match n with
  | 0 => .u
  | 1 => if cur.code < 1 then cur else .s
  | _ => cur

/-- Bits [56:2] kept of a handler address (R335). -/
def tvecMask : Word := 0x00FFFFFFFFFFFFFC

/-- The bits of a base register with SZ in [2:0] and a page address in [47:12]. -/
def szMask : Word := 0x0000FFFFFFFFF007

/-- CUTINT written: a value outside its range leaves a value of the range that the manual does not state (log 44). -/
def cutintWrite (s : State) (v : Word) : State :=
  let n := bitsAt v.toNat 0 20
  if 100 ≤ n ∧ n ≤ 1000000 then s.onTenant fun t => { t with cutint := n }
  else s.fresh.2.onTenant fun t => { t with cutint := 100 + s.fresh.1.toNat % 999901 }

/-- A register of Tables 4.4 to 11.8 written. -/
def csrWriteLow (s : State) (n : Nat) (v : Word) : State :=
  let c := s.ctx
  match n with
  | 0x010 => s.setCtx { c with uscratch := v }
  | 0x1B4 => match s.cur with
    | .assist p => assistResult s p v
    | .thread t => assistResult s (t / 8) v
    | .lodge _ => s
  | 0x1B6 => match s.cur with
    | .assist p => s.setPlot p { s.plot p with avec := v &&& ~~~3#64 }
    | .thread t => s.setPlot (t / 8) { s.plot (t / 8) with avec := v &&& ~~~3#64 }
    | .lodge _ => s
  | 0x203 => if s.isThread then s.setCtx { c with asid := bitsAt v.toNat 0 16 } else s
  | 0x210 => s.onTenant fun t => { t with asidtab := bitsAt v.toNat 19 29 * 2 ^ 19 }
  | 0x213 => s.onTenant fun t => { t with prqlog := v &&& szMask }
  | 0x214 => match c.tenant with | some w => prqResp (release s) w v | none => s
  | 0x220 => s.setCtx { c with nbsel := v &&& 0xFF }
  | 0x221 =>
    let m := c.nbsel.toNat
    if s.mboxHeld m s.curTenant then s.setMbox m { s.mbox m with wake := v &&& 0xFFFF } else s
  | _ => if s.holdsPlane (n % 4) then pcellWrite s s.curPlot (n % 4) v else s

/-- A register of Tables 10.2, 15.6 and 16.3 written. -/
def csrWriteMid (s : State) (n : Nat) (v : Word) : State :=
  let c := s.ctx
  match n with
  | 0x300 => s.setCtx { c with gatesel := v &&& 0x7FFF }
  | 0x383 => s.setCtx { c with qcsel := v &&& 0xF }
  | 0x3C4 => match s.cur with | .lodge _ => { s with takevec := v &&& ~~~3#64 } | _ => s
  | 0x3C5 => match s.cur with | .lodge k => s.setLodge k { s.lodge k with lfrsel := bitsAt v.toNat 0 2 } | _ => s
  | 0x400 => s.setCtx { c with pp := privOf c.priv (bitsAt v.toNat 2 2) }
  | 0x401 => match s.cur with
    | .lodge k => s.setLodge k { s.lodge k with tvec := v &&& tvecMask }
    | _ => s.onTenant fun t => { t with tvec := v &&& tvecMask }
  | 0x402 => s.setCtx { c with epc := v }
  | 0x403 => s.setCtx { c with ecause := v &&& 0xFF }
  | 0x404 => s.setCtx { c with faddr := v }
  | 0x405 => s.setCtx { c with fbyte := v }
  | 0x406 => s.setCtx { c with clause := v }
  | 0x407 => s.setCtx { c with escratch := v }
  | 0x408 => s.setCtx { c with einfo := v }
  | 0x409 => s.onTenant fun t => { t with qstallmax := max 1 (bitsAt v.toNat 0 32) }
  | 0x40A => s.setCtx { c with clrem := v }
  | 0x40B => s.setCtx { c with clhdr := v &&& 0xFFFFFFFF }
  | 0x414 => s.onTenant fun t => { t with savecfg := v &&& 0x0000FFFFFFFFFFFF }
  | 0x415 => cutintWrite s v
  | 0x418 => match c.tenant with | some w => dbgWrite s w v | none => s
  | _ => { s with frames := Tbl.set s.frames (s.frameDie * 64 + (n - 0x440)) (v &&& frameMaskBits) }

/-- A register of Table 18.7 written. -/
def csrWriteHigh (s : State) (n : Nat) (v : Word) : State :=
  match n with
  | 0x481 => s.onTenant fun t => { t with tokbuf := v &&& 0x0000FFFFFFFFF000 }
  | 0x488 => s.onTenant fun t => { t with fqbase := v &&& szMask }
  | 0x489 => match s.ctx.tenant with | some w => fqTake s w v | none => s
  | _ => s.onTenant fun t => { t with nonce := t.nonce.setIfInBounds (n - 0x482) v }

/-- CSR[n] := v, for a register that may be written: its res0 bits are ignored (R3). -/
def csrWrite (s : State) (n : Nat) (v : Word) : State :=
  if n < 0x300 then csrWriteLow s n v else if n < 0x480 then csrWriteMid s n v else csrWriteHigh s n v

/-! The instructions. -/

/-- Why an access is refused (R18, R28, R78): an unassigned number and a write of a read-only register are ILLEGAL; then
comes the privilege. -/
def csrRefused (s : State) (w : BitVec 32) (n : Nat) (writes : Bool) : Option State :=
  match csrRow n with
  | none => some (trapIllegal s w)
  | some r =>
    if writes && r.wr.isNone then some (trapIllegal s w)
    else if s.ctx.priv.code < (if writes then (r.wr.getD r.rd).code else r.rd.code) then some (trapPriv s w)
    else none

/-- The read of a register and, when it is written, the write of a value made from the old one, as one step (R79). -/
def csrOp (s : State) (i : Instr) (rd : Reg) (n : Nat) (new : Option (Word → Word)) : Out :=
  match csrRefused s (firstWord i) n new.isSome with
  | some s' => .next s'
  | none =>
    let old := csrRead s n
    finish (match new with | some f => csrWrite s n (f old) | none => s) rd old 4

/-- CSRR. -/
def execCsrr (rd : Reg) (n : BitVec 11) (s : State) : Out := csrOp s (.csrr rd n) rd n.toNat none

/-- CSRW. -/
def execCsrw (rd rs1 : Reg) (n : BitVec 11) (s : State) : Out :=
  csrOp s (.csrw rd rs1 n) rd n.toNat (some fun _ => s.g rs1)

/-- CSRS: with rs1 = g0 it writes nothing. -/
def execCsrs (rd rs1 : Reg) (n : BitVec 11) (s : State) : Out :=
  csrOp s (.csrs rd rs1 n) rd n.toNat (if rs1 = 0 then none else some fun old => old ||| s.g rs1)

/-- CSRC: with rs1 = g0 it writes nothing. -/
def execCsrc (rd rs1 : Reg) (n : BitVec 11) (s : State) : Out :=
  csrOp s (.csrc rd rs1 n) rd n.toNat (if rs1 = 0 then none else some fun old => old &&& ~~~(s.g rs1))

end Sys2Proof.Machine
end

