-- ==== Sys2Proof/Machine/Fetch.lean ====
section
/-! DEFINITION. Which instruction a context runs next: fetching the words (R18, R19), the checks of a governed position
and the skipping of instructions (R85-R87), waiting instructions tried again (R74), and the choice among a plot's
contexts (R75, R201). -/

namespace Sys2Proof.Machine

/-- What the next instruction of a context is. -/
inductive Fetched where
  /-- It runs instruction `i`. -/
  | run (i : Instr) (s : State)
  /-- It skipped a governed instruction, which takes no issue slot (R87). -/
  | skipped (s : State)
  /-- It issues nothing now. -/
  | rest (s : State)
  deriving Repr

/-- The extension words of an instruction, or why they cannot be had: the address and EINFO of a fetch that fails. -/
inductive ERes where
  | ok (e0 e1 : BitVec 32)
  | wait
  | fail (addr info : Word)
  | uncorr (addr : Word) (spa : Nat)
  deriving Repr

/-- The extension words fetched in order (R18). -/
def fetchExt (s : State) (a : Agent) (pc : Word) (n : Nat) : ERes × State :=
  if n = 0 then (.ok 0 0, s)
  else
    match fetchWord s a (pc + 4) with
    | (.ok e0, s) =>
      if n = 1 then (.ok e0 0, s)
      else
        match fetchWord s a (pc + 8) with
        | (.ok e1, s) => (.ok e0 e1, s)
        | (.wait, s) => (.wait, s)
        | (.fail i, s) => (.fail (pc + 8) i, s)
        | (.uncorr p, s) => (.uncorr (pc + 8) p, s)
    | (.wait, s) => (.wait, s)
    | (.fail i, s) => (.fail (pc + 4) i, s)
    | (.uncorr p, s) => (.uncorr (pc + 4) p, s)

/-- Whether the clause skips its instructions: WHEN not met, or RPT with a count of 0 (R86, R87). -/
def Clause.skips (c : Clause) : Bool := c.kind == .whenSkip || (c.kind == .rpt && c.rem == 0)

/-- The instruction of a fetched word and extension words: skipped, illegal at its position (R85), or decoded. -/
def judge (s : State) (w e0 e1 : BitVec 32) : Fetched :=
  let c := s.ctx
  if c.cl.kind != .none && ungovernable w then .run (.illegal w) s
  else if c.cl.skips then .skipped (s.setCtx (c.advance (4 + 4 * fLen w)))
  else
    match decode w e0 e1 with
    | .ok i => .run i s
    | .error _ => .run (.illegal w) s

/-- A word of the next instruction that cannot be fetched: FETCHFAULT (R18), or DOUBLE where it is the first instruction of the
handler just entered (R339). -/
def fetchFails (s : State) (faddr info : Word) : Fetched :=
  if s.entering then .rest (enterDouble s) else .run (.fetchfault faddr info) s

/-- One whose translation meets an uncorrectable error (R249). -/
def fetchUncorr (s : State) (faddr : Word) (spa : Nat) : Fetched :=
  .rest (if s.entering then enterDouble s else trapHere s cUncorr faddr (lineInfo spa))

/-- An instruction fetched afresh (R18); an uncorrectable error in a table read names the word that was to be fetched (R336). -/
def fetchFresh (s : State) : Fetched :=
  let pc := s.ctx.pc
  match fetchWord s s.cur pc with
  | (.wait, s) => .rest s
  | (.fail i, s) => fetchFails s pc i
  | (.uncorr a, s) => fetchUncorr s pc a
  | (.ok w, s) =>
    if !hasLength w then .run (.illegal w) s
    else
      match fetchExt s s.cur pc (fLen w) with
      | (.wait, s) => .rest s
      | (.fail a i, s) => fetchFails s a i
      | (.uncorr a p, s) => fetchUncorr s a p
      | (.ok e0 e1, s) => judge s w e0 e1

/-- Whether a context may issue or try its waiting instruction again: not halted, not waiting on a page request. -/
def State.live (s : State) (a : Agent) : Bool :=
  let c := s.ctxOf a
  !c.halted && (c.st == .running || c.st == .waiting) &&
  (match a with | .thread t => !s.waitsPage (.thread t) | _ => true)

/-- Whether the core of a context runs: a lodge core that is ACTIVE (R309); a plot's core in a cycle that is not withheld
(R390), while the plot is resident (R76, R379). -/
def State.coreRuns (s : State) (a : Agent) : Bool :=
  match a with
  | .lodge c => (s.lodge c).role == .active
  | .assist p => !s.withheldNow p && (s.plot p).resident
  | .thread t => !s.withheldNow (t / 8) && (s.plot (t / 8)).resident

/-- The next instruction of the issuing context: the one it waits in, or one fetched afresh. -/
def fetchNext (s : State) : Fetched :=
  if s.live s.cur && s.coreRuns s.cur then
    match s.ctx.wait with
    | some w => .run w.instr s
    | none => fetchFresh s
  else .rest s

/-- Whether a context of a plot may be chosen to issue (R75). -/
def State.ready (s : State) (a : Agent) : Bool := s.live a && (s.ctxOf a).st == .running

/-- The contexts of a plot in the order its control core tries them: the assist context ahead of the threads (R201), then round
robin after the context that issued last (R75). -/
def ctxOrder (s : State) (p : Nat) : List Agent :=
  .assist p :: (List.range 8).map fun i => Agent.thread (p * 8 + ((s.plot p).lastCtx + 1 + i) % 8)

/-- The first of them that may issue. -/
def pickCtx (s : State) (p : Nat) : Option Agent := (ctxOrder s p).find? fun a => s.ready a && s.coreRuns a

/-- The next instruction of the issuing context, those it skips gone by: they take no issue slot (R87). -/
def skipOver (s : State) : Nat → Fetched
  | 0 => .rest s
  | fuel + 1 =>
    match fetchNext s with
    | .skipped s => skipOver s fuel
    | f => f

/-- Whether a context that stood as `c` has issued (R75): a context whose words are not yet fetched or whose instruction may not
issue stands as it did, but for the cycle it stalls since. -/
def issued (c now : Ctx) : Bool := { now with stall := c.stall } != c

/-- A thread noted as the one its plot's core issued from last (R75). -/
def noteIssue (s : State) (a : Agent) : State :=
  match a with
  | .thread t => s.setPlot (t / 8) { s.plot (t / 8) with lastCtx := t % 8 }
  | _ => s

/-- One cycle of the package's clock; the other contexts of the issuing core follow if the instruction tried does not issue, then
a round of turns (log 1) (log 82). -/
def tick (s : State) : State := { s with cycle := s.cycle + 1, agenda := [.slot s.cur s.ctx, .round] }

/-- The bytes of an instruction placed where the issuing context fetches its next: a lodge core's instruction memory, a
thread's instruction cache behind a cached translation, memory for an assist context (log 9). -/
def placeFetch (s : State) (bytes : List Byte) : State :=
  let c := s.ctx
  match s.cur with
  | .lodge k =>
    let pc := if c.pc.toNat + 12 ≤ 65536 then c.pc.toNat else 0
    { s with imem := Mem.write s.imem (k * 65536 + pc) bytes }
  | .assist _ =>
    { s with mem := Mem.write s.mem c.pc.toNat bytes,
             badMem := s.badMem.filter fun l => !(decide (l * 64 < c.pc.toNat + 12) && decide (c.pc.toNat < l * 64 + 64)) }
  | .thread t =>
    let p := s.plot (t / 8)
    let v := c.tenant.getD 64
    let line := c.pc.toNat / 64
    let flat := Mem.write [] (c.pc.toNat % 64) bytes
    let page := c.pc.toNat / 4096 * 4096
    let mk (n : Nat) : ILine :=
      { tenant := v, asid := c.asid, line := line + n, sline := (c.pc.toNat - page) / 64 + n, bytes := Mem.read flat (64 * n) 64 }
    let x : Xlat := { holder := .core (t / 8), tenant := v, asid := c.asid, page := page, size := 8192, spa := 0, w := false, x := true,
                      u := true }
    { s.setPlot (t / 8) { p with icache := mk 0 :: mk 1 :: p.icache } with xlats := x :: s.xlats }

/-- The issuing context made one that fetches at its next step. -/
def readyCtx (s : State) : State :=
  let c := s.ctx
  let pc : Word := match s.cur with
    | .lodge _ => if c.pc.toNat + 12 ≤ 65536 then c.pc else 0
    | .thread _ => BitVec.ofNat 64 (c.pc.toNat % 2 ^ 55 / 4 * 4)
    | .assist _ => if mapsMemory c.pc.toNat && s.isLocal c.pc.toNat then c.pc else BitVec.ofNat 64 (s.locid * 2 ^ 46)
  let s := s.setCtx { c with st := .running, wait := none, stall := none, halted := false, cl := {}, pc := pc }
  match s.cur with
  | .thread t =>
    withdraw (s.setPlot (t / 8) { s.plot (t / 8) with resident := true, withheld := [] }) (.thread t)
  | .assist p => s.setPlot p { s.plot p with resident := true, withheld := [] }
  | .lodge c => s.setLodge c { s.lodge c with role := .active }

end Sys2Proof.Machine
end

