-- ==== Sys2Proof/Machine/Waits.lean ====
section
/-! DEFINITION. The returns of waiting instructions (R93, R150, R184, R231, R237, R92, R256, R293, R292, R267, R146, R344): a
thread that waits in an instruction tries it again, and it returns when its condition holds or its limit has expired. -/

namespace Sys2Proof.Machine

/-- An instruction that may wait, tried again by the issuing context (log 83). -/
def retryInstr (i : Instr) (s : State) : Out :=
  match i with
  | .waitLoc rd a b => execWaitLoc rd a b s
  | .swait rd a b => execSwait rd a b s
  | .twait rd a b => execTwait rd a b s
  | .rawait rd a b => execRawait rd a b s
  | .gwait rd a b => execGwait rd a b s
  | .sbar rd a => execSbar rd a s
  | .tlbsync rd a => execTlbsync rd a s
  | .dsync rd a b => execDsync rd a b s
  | .drd rd a b nb => execDrd rd a b nb s
  | .nbwait rd a b => execNbwait rd a b s
  | .cbar => execCbar s
  | .icinv rd a b sc => execIcinv rd a b sc s
  | .cstop rd a => execCstop rd a s
  | _ => .next s

/-- The instruction that a thread waits in, if it may be tried again now: its core runs, the thread is not halted and
waits on no page request. -/
def State.waitsIn (s : State) (tid : Nat) : Option Instr :=
  if s.live (.thread tid) && s.coreRuns (.thread tid) then (s.thread tid).wait.map fun w => w.instr else none

/-- A thread that waits in an instruction which satisfies `f` tries it again. -/
def retryIf (s : State) (tid : Nat) (f : Instr → Bool) : Out :=
  match s.waitsIn tid with
  | some i => if f i then asAgent s (.thread tid) (retryInstr i) else .next s
  | none => .next s

/-- The register that holds the limit of a waiting instruction. -/
def limitReg : Instr → Option Reg
  | .waitLoc _ _ b | .swait _ _ b | .twait _ _ b | .rawait _ _ b | .dsync _ _ b | .nbwait _ _ b => some b
  | .tlbsync _ a => some a
  | _ => none

/-- Whether the limit of a thread's waiting instruction has expired. -/
def limitOver (s : State) (tid : Nat) (i : Instr) : Bool :=
  match limitReg i, (s.thread tid).wait with
  | some r, some w => decide (((s.thread tid).get r).toNat ≤ s.cycle - w.start)
  | _, _ => false

/-- WAIT_WAKE (R93). -/
def execWaitWake (tid : Nat) (s : State) : Out := retryIf s tid fun i => match i with | .waitLoc _ _ _ => true | _ => false
/-- WAIT_LIMIT_EXPIRY (R93, R150, R184, R231, R256, R267, R293). -/
def execWaitLimitExpiry (tid : Nat) (s : State) : Out := retryIf s tid (limitOver s tid)
/-- SWAIT_RETURN (R150). -/
def execSwaitReturn (tid : Nat) (s : State) : Out := retryIf s tid fun i => match i with | .swait _ _ _ => true | _ => false
/-- TWAIT_RETURN (R184). -/
def execTwaitReturn (tid : Nat) (s : State) : Out := retryIf s tid fun i => match i with | .twait _ _ _ => true | _ => false
/-- RAWAIT_RETURN (R231). -/
def execRawaitReturn (tid : Nat) (s : State) : Out := retryIf s tid fun i => match i with | .rawait _ _ _ => true | _ => false
/-- GWAIT_RETURN (R237). -/
def execGwaitReturn (tid : Nat) (s : State) : Out := retryIf s tid fun i => match i with | .gwait _ _ _ => true | _ => false
/-- SBAR_RETURN (R92). -/
def execSbarReturn (tid : Nat) (s : State) : Out := retryIf s tid fun i => match i with | .sbar _ _ => true | _ => false
/-- TLBSYNC_RETURN (R256). -/
def execTlbsyncReturn (tid : Nat) (s : State) : Out := retryIf s tid fun i => match i with | .tlbsync _ _ => true | _ => false
/-- DSYNC_RETURN (R293). -/
def execDsyncReturn (tid : Nat) (s : State) : Out := retryIf s tid fun i => match i with | .dsync _ _ _ => true | _ => false
/-- DRD_RETURN (R292). -/
def execDrdReturn (tid : Nat) (s : State) : Out := retryIf s tid fun i => match i with | .drd _ _ _ _ => true | _ => false
/-- NBWAIT_RETURN (R267). -/
def execNbwaitReturn (tid : Nat) (s : State) : Out := retryIf s tid fun i => match i with | .nbwait _ _ _ => true | _ => false
/-- CBAR_RETURN (R146). -/
def execCbarReturn (tid : Nat) (s : State) : Out := retryIf s tid fun i => match i with | .cbar => true | _ => false
/-- ICINV_RETURN (R344). -/
def execIcinvReturn (tid : Nat) (s : State) : Out := retryIf s tid fun i => match i with | .icinv _ _ _ _ => true | _ => false

end Sys2Proof.Machine
end

