-- ==== Sys2Proof/Machine/Dispatch.lean ====
section
/-! DEFINITION. The dispatch: one arm per row of the table of operations and events. -/

namespace Sys2Proof.Machine

def exec (i : Instr) (s : State) : Host.Outcome State Fault Refusal :=
  match i with
  | .aluAdd rd rs1 rs2 => Sys2Proof.Machine.execAluAdd rd rs1 rs2 s
  | .aluSub rd rs1 rs2 => Sys2Proof.Machine.execAluSub rd rs1 rs2 s
  | .aluAnd rd rs1 rs2 => Sys2Proof.Machine.execAluAnd rd rs1 rs2 s
  | .aluOr rd rs1 rs2 => Sys2Proof.Machine.execAluOr rd rs1 rs2 s
  | .aluXor rd rs1 rs2 => Sys2Proof.Machine.execAluXor rd rs1 rs2 s
  | .aluSll rd rs1 rs2 => Sys2Proof.Machine.execAluSll rd rs1 rs2 s
  | .aluSrl rd rs1 rs2 => Sys2Proof.Machine.execAluSrl rd rs1 rs2 s
  | .aluSra rd rs1 rs2 => Sys2Proof.Machine.execAluSra rd rs1 rs2 s
  | .aluSlt rd rs1 rs2 => Sys2Proof.Machine.execAluSlt rd rs1 rs2 s
  | .aluSltu rd rs1 rs2 => Sys2Proof.Machine.execAluSltu rd rs1 rs2 s
  | .aluMin rd rs1 rs2 => Sys2Proof.Machine.execAluMin rd rs1 rs2 s
  | .aluMax rd rs1 rs2 => Sys2Proof.Machine.execAluMax rd rs1 rs2 s
  | .aluMinu rd rs1 rs2 => Sys2Proof.Machine.execAluMinu rd rs1 rs2 s
  | .aluMaxu rd rs1 rs2 => Sys2Proof.Machine.execAluMaxu rd rs1 rs2 s
  | .aluMul rd rs1 rs2 => Sys2Proof.Machine.execAluMul rd rs1 rs2 s
  | .aluMulh rd rs1 rs2 => Sys2Proof.Machine.execAluMulh rd rs1 rs2 s
  | .aluMulhu rd rs1 rs2 => Sys2Proof.Machine.execAluMulhu rd rs1 rs2 s
  | .aluDiv rd rs1 rs2 => Sys2Proof.Machine.execAluDiv rd rs1 rs2 s
  | .aluDivu rd rs1 rs2 => Sys2Proof.Machine.execAluDivu rd rs1 rs2 s
  | .aluRem rd rs1 rs2 => Sys2Proof.Machine.execAluRem rd rs1 rs2 s
  | .aluRemu rd rs1 rs2 => Sys2Proof.Machine.execAluRemu rd rs1 rs2 s
  | .clz rd rs1 => Sys2Proof.Machine.execClz rd rs1 s
  | .ctz rd rs1 => Sys2Proof.Machine.execCtz rd rs1 s
  | .popc rd rs1 => Sys2Proof.Machine.execPopc rd rs1 s
  | .addi rd rs1 imm => Sys2Proof.Machine.execAddi rd rs1 imm s
  | .addiExt rd rs1 e => Sys2Proof.Machine.execAddiExt rd rs1 e s
  | .andi rd rs1 imm => Sys2Proof.Machine.execAndi rd rs1 imm s
  | .andiExt rd rs1 e => Sys2Proof.Machine.execAndiExt rd rs1 e s
  | .ori rd rs1 imm => Sys2Proof.Machine.execOri rd rs1 imm s
  | .oriExt rd rs1 e => Sys2Proof.Machine.execOriExt rd rs1 e s
  | .xori rd rs1 imm => Sys2Proof.Machine.execXori rd rs1 imm s
  | .xoriExt rd rs1 e => Sys2Proof.Machine.execXoriExt rd rs1 e s
  | .slti rd rs1 imm => Sys2Proof.Machine.execSlti rd rs1 imm s
  | .sltiExt rd rs1 e => Sys2Proof.Machine.execSltiExt rd rs1 e s
  | .slli rd rs1 sh => Sys2Proof.Machine.execSlli rd rs1 sh s
  | .srli rd rs1 sh => Sys2Proof.Machine.execSrli rd rs1 sh s
  | .srai rd rs1 sh => Sys2Proof.Machine.execSrai rd rs1 sh s
  | .beq rs1 rs2 off => Sys2Proof.Machine.execBeq rs1 rs2 off s
  | .beqExt rs1 rs2 e0 => Sys2Proof.Machine.execBeqExt rs1 rs2 e0 s
  | .bne rs1 rs2 off => Sys2Proof.Machine.execBne rs1 rs2 off s
  | .bneExt rs1 rs2 e0 => Sys2Proof.Machine.execBneExt rs1 rs2 e0 s
  | .blt rs1 rs2 off => Sys2Proof.Machine.execBlt rs1 rs2 off s
  | .bltExt rs1 rs2 e0 => Sys2Proof.Machine.execBltExt rs1 rs2 e0 s
  | .bge rs1 rs2 off => Sys2Proof.Machine.execBge rs1 rs2 off s
  | .bgeExt rs1 rs2 e0 => Sys2Proof.Machine.execBgeExt rs1 rs2 e0 s
  | .bltu rs1 rs2 off => Sys2Proof.Machine.execBltu rs1 rs2 off s
  | .bltuExt rs1 rs2 e0 => Sys2Proof.Machine.execBltuExt rs1 rs2 e0 s
  | .bgeu rs1 rs2 off => Sys2Proof.Machine.execBgeu rs1 rs2 off s
  | .bgeuExt rs1 rs2 e0 => Sys2Proof.Machine.execBgeuExt rs1 rs2 e0 s
  | .jmp off => Sys2Proof.Machine.execJmp off s
  | .jal off => Sys2Proof.Machine.execJal off s
  | .jalr rd rs1 imm => Sys2Proof.Machine.execJalr rd rs1 imm s
  | .jalrExt rd rs1 e0 => Sys2Proof.Machine.execJalrExt rd rs1 e0 s
  | .rpt rs1 n => Sys2Proof.Machine.execRpt rs1 n s
  | .rptImm n e0 => Sys2Proof.Machine.execRptImm n e0 s
  | .when c rs1 n => Sys2Proof.Machine.execWhen c rs1 n s
  | .ldb rd rs1 imm => Sys2Proof.Machine.execLdb rd rs1 imm s
  | .ldbExt rd rs1 e => Sys2Proof.Machine.execLdbExt rd rs1 e s
  | .ldbu rd rs1 imm => Sys2Proof.Machine.execLdbu rd rs1 imm s
  | .ldbuExt rd rs1 e => Sys2Proof.Machine.execLdbuExt rd rs1 e s
  | .ldh rd rs1 imm => Sys2Proof.Machine.execLdh rd rs1 imm s
  | .ldhExt rd rs1 e => Sys2Proof.Machine.execLdhExt rd rs1 e s
  | .ldhu rd rs1 imm => Sys2Proof.Machine.execLdhu rd rs1 imm s
  | .ldhuExt rd rs1 e => Sys2Proof.Machine.execLdhuExt rd rs1 e s
  | .ldw rd rs1 imm => Sys2Proof.Machine.execLdw rd rs1 imm s
  | .ldwExt rd rs1 e => Sys2Proof.Machine.execLdwExt rd rs1 e s
  | .ldwu rd rs1 imm => Sys2Proof.Machine.execLdwu rd rs1 imm s
  | .ldwuExt rd rs1 e => Sys2Proof.Machine.execLdwuExt rd rs1 e s
  | .ldd rd rs1 imm => Sys2Proof.Machine.execLdd rd rs1 imm s
  | .lddExt rd rs1 e => Sys2Proof.Machine.execLddExt rd rs1 e s
  | .ldq rd rs1 off es => Sys2Proof.Machine.execLdq rd rs1 off es s
  | .ldqExt rd rs1 es e => Sys2Proof.Machine.execLdqExt rd rs1 es e s
  | .stb rs rb imm => Sys2Proof.Machine.execStb rs rb imm s
  | .stbExt rs rb e => Sys2Proof.Machine.execStbExt rs rb e s
  | .sth rs rb imm => Sys2Proof.Machine.execSth rs rb imm s
  | .sthExt rs rb e => Sys2Proof.Machine.execSthExt rs rb e s
  | .stw rs rb imm => Sys2Proof.Machine.execStw rs rb imm s
  | .stwExt rs rb e => Sys2Proof.Machine.execStwExt rs rb e s
  | .std rs rb imm => Sys2Proof.Machine.execStd rs rb imm s
  | .stdExt rs rb e => Sys2Proof.Machine.execStdExt rs rb e s
  | .stq rs rb off es => Sys2Proof.Machine.execStq rs rb off es s
  | .stqExt rs rb es e => Sys2Proof.Machine.execStqExt rs rb es e s
  | .tld rd ro h sz => Sys2Proof.Machine.execTld rd ro h sz s
  | .tldExt rd ro h sz e0 => Sys2Proof.Machine.execTldExt rd ro h sz e0 s
  | .tst rd ro h sz => Sys2Proof.Machine.execTst rd ro h sz s
  | .tstExt rd ro h sz e0 => Sys2Proof.Machine.execTstExt rd ro h sz e0 s
  | .amoAdd rd rs1 rs2 ret dw ord => Sys2Proof.Machine.execAmoAdd rd rs1 rs2 ret dw ord s
  | .amoAnd rd rs1 rs2 ret dw ord => Sys2Proof.Machine.execAmoAnd rd rs1 rs2 ret dw ord s
  | .amoOr rd rs1 rs2 ret dw ord => Sys2Proof.Machine.execAmoOr rd rs1 rs2 ret dw ord s
  | .amoXor rd rs1 rs2 ret dw ord => Sys2Proof.Machine.execAmoXor rd rs1 rs2 ret dw ord s
  | .amoMin rd rs1 rs2 ret dw ord => Sys2Proof.Machine.execAmoMin rd rs1 rs2 ret dw ord s
  | .amoMax rd rs1 rs2 ret dw ord => Sys2Proof.Machine.execAmoMax rd rs1 rs2 ret dw ord s
  | .amoMinu rd rs1 rs2 ret dw ord => Sys2Proof.Machine.execAmoMinu rd rs1 rs2 ret dw ord s
  | .amoMaxu rd rs1 rs2 ret dw ord => Sys2Proof.Machine.execAmoMaxu rd rs1 rs2 ret dw ord s
  | .amoSwap rd rs1 rs2 ret dw ord => Sys2Proof.Machine.execAmoSwap rd rs1 rs2 ret dw ord s
  | .amoCas rd rs1 rs2 dw ord => Sys2Proof.Machine.execAmoCas rd rs1 rs2 dw ord s
  | .amoFadd rs1 rs2 dw ord => Sys2Proof.Machine.execAmoFadd rs1 rs2 dw ord s
  | .fence sc k => Sys2Proof.Machine.execFence sc k s
  | .csrr rd n => Sys2Proof.Machine.execCsrr rd n s
  | .csrw rd rs1 n => Sys2Proof.Machine.execCsrw rd rs1 n s
  | .csrs rd rs1 n => Sys2Proof.Machine.execCsrs rd rs1 n s
  | .csrc rd rs1 n => Sys2Proof.Machine.execCsrc rd rs1 n s
  | .trap rs1 => Sys2Proof.Machine.execTrap rs1 s
  | .trapImm e0 => Sys2Proof.Machine.execTrapImm e0 s
  | .eret => Sys2Proof.Machine.execEret s
  | .waitLoc rd rs1 rs2 => Sys2Proof.Machine.execWaitLoc rd rs1 rs2 s
  | .brk => Sys2Proof.Machine.execBrk s
  | .exitThread => Sys2Proof.Machine.execExitThread s
  | .nop => Sys2Proof.Machine.execNop s
  | .icinv rd rs1 rs2 sc => Sys2Proof.Machine.execIcinv rd rs1 rs2 sc s
  | .tlbinv rd rs1 rs2 => Sys2Proof.Machine.execTlbinv rd rs1 rs2 s
  | .tlbinva rd rs1 => Sys2Proof.Machine.execTlbinva rd rs1 s
  | .tlbsync rd rs1 => Sys2Proof.Machine.execTlbsync rd rs1 s
  | .join rd rs1 => Sys2Proof.Machine.execJoin rd rs1 s
  | .leave rd rs1 => Sys2Proof.Machine.execLeave rd rs1 s
  | .sbar rd rs1 => Sys2Proof.Machine.execSbar rd rs1 s
  | .sbind rd rs1 rs2 => Sys2Proof.Machine.execSbind rd rs1 rs2 s
  | .sclose rd rs1 re => Sys2Proof.Machine.execSclose rd rs1 re s
  | .smark rd rs1 => Sys2Proof.Machine.execSmark rd rs1 s
  | .swait rd rs1 rs2 => Sys2Proof.Machine.execSwait rd rs1 rs2 s
  | .cbar => Sys2Proof.Machine.execCbar s
  | .scfg rd rs1 rs2 => Sys2Proof.Machine.execScfg rd rs1 rs2 s
  | .talloc rd rs1 rs2 => Sys2Proof.Machine.execTalloc rd rs1 rs2 s
  | .tfree rd rs1 => Sys2Proof.Machine.execTfree rd rs1 s
  | .tfill rd rs1 rs2 => Sys2Proof.Machine.execTfill rd rs1 rs2 s
  | .tdrain rd rs1 rs2 => Sys2Proof.Machine.execTdrain rd rs1 rs2 s
  | .tstat rd rs1 => Sys2Proof.Machine.execTstat rd rs1 s
  | .twait rd rs1 rs2 => Sys2Proof.Machine.execTwait rd rs1 rs2 s
  | .mload rd rs1 rs2 => Sys2Proof.Machine.execMload rd rs1 rs2 s
  | .mbind rd rs1 => Sys2Proof.Machine.execMbind rd rs1 s
  | .mzero rd rs1 => Sys2Proof.Machine.execMzero rd rs1 s
  | .mread rd rs1 rs2 clr e4nan => Sys2Proof.Machine.execMread rd rs1 rs2 clr e4nan s
  | .mnorm rd rs1 => Sys2Proof.Machine.execMnorm rd rs1 s
  | .mhead rd rs1 => Sys2Proof.Machine.execMhead rd rs1 s
  | .ddecl rd rs1 => Sys2Proof.Machine.execDdecl rd rs1 s
  | .drd rd rs1 rs2 nb => Sys2Proof.Machine.execDrd rd rs1 rs2 nb s
  | .dsync rd rs1 rs2 => Sys2Proof.Machine.execDsync rd rs1 rs2 s
  | .dreb rd rs1 => Sys2Proof.Machine.execDreb rd rs1 s
  | .ddrop rd rs1 => Sys2Proof.Machine.execDdrop rd rs1 s
  | .dstat rd rs1 => Sys2Proof.Machine.execDstat rd rs1 s
  | .rinit rd rs1 rs2 => Sys2Proof.Machine.execRinit rd rs1 rs2 s
  | .rawait rd rs1 rs2 => Sys2Proof.Machine.execRawait rd rs1 rs2 s
  | .rrel rd rs1 => Sys2Proof.Machine.execRrel rd rs1 s
  | .rpeek rd rs1 => Sys2Proof.Machine.execRpeek rd rs1 s
  | .ginit rd rs1 rs2 => Sys2Proof.Machine.execGinit rd rs1 rs2 s
  | .garr rd rs1 => Sys2Proof.Machine.execGarr rd rs1 s
  | .gexp rd rs1 rs2 arr => Sys2Proof.Machine.execGexp rd rs1 rs2 arr s
  | .gwait rd rs1 rs2 => Sys2Proof.Machine.execGwait rd rs1 rs2 s
  | .ckick rd rs1 rs2 => Sys2Proof.Machine.execCkick rd rs1 rs2 s
  | .cstat rd rs1 => Sys2Proof.Machine.execCstat rd rs1 s
  | .cstop rd rs1 => Sys2Proof.Machine.execCstop rd rs1 s
  | .lpatch rd rs1 rs2 => Sys2Proof.Machine.execLpatch rd rs1 rs2 s
  | .larm rd rs1 rs2 => Sys2Proof.Machine.execLarm rd rs1 rs2 s
  | .lstat rd rs1 => Sys2Proof.Machine.execLstat rd rs1 s
  | .nbdot rd rs1 rs2 => Sys2Proof.Machine.execNbdot rd rs1 rs2 s
  | .nbwait rd rs1 rs2 => Sys2Proof.Machine.execNbwait rd rs1 rs2 s
  | .kscan rd rs1 => Sys2Proof.Machine.execKscan rd rs1 s
  | .jrnl rd rs1 => Sys2Proof.Machine.execJrnl rd rs1 s
  | .disp rd rs1 => Sys2Proof.Machine.execDisp rd rs1 s
  | .chold rd rs1 => Sys2Proof.Machine.execChold rd rs1 s
  | .crel rd rs1 => Sys2Proof.Machine.execCrel rd rs1 s
  | .hbeat rd => Sys2Proof.Machine.execHbeat rd s
  | .scrub rd rs1 => Sys2Proof.Machine.execScrub rd rs1 s
  | .illegal w => Sys2Proof.Machine.execIllegal w s
  | .fetchfault faddr info => Sys2Proof.Machine.execFetchfault faddr info s
  | .pickingCycle plot plane cell => Sys2Proof.Machine.execPickingCycle plot plane cell s
  | .ruleBeat plot plane cell => Sys2Proof.Machine.execRuleBeat plot plane cell s
  | .ruleResultLand plot plane cell => Sys2Proof.Machine.execRuleResultLand plot plane cell s
  | .markerMove plot plane cell q => Sys2Proof.Machine.execMarkerMove plot plane cell q s
  | .predMarkerRemove plot plane cell => Sys2Proof.Machine.execPredMarkerRemove plot plane cell s
  | .tokenDelivery plot plane ep => Sys2Proof.Machine.execTokenDelivery plot plane ep s
  | .orderingArcDelivery plot plane ep => Sys2Proof.Machine.execOrderingArcDelivery plot plane ep s
  | .configurationLoadEnd plot plane => Sys2Proof.Machine.execConfigurationLoadEnd plot plane s
  | .streamBegin plot port => Sys2Proof.Machine.execStreamBegin plot port s
  | .portReadBeat plot port => Sys2Proof.Machine.execPortReadBeat plot port s
  | .portWriteBeat plot port => Sys2Proof.Machine.execPortWriteBeat plot port s
  | .rowAcknowledgement plot port => Sys2Proof.Machine.execRowAcknowledgement plot port s
  | .streamEnd plot port => Sys2Proof.Machine.execStreamEnd plot port s
  | .streamFatal plot port => Sys2Proof.Machine.execStreamFatal plot port s
  | .scloseApply tid => Sys2Proof.Machine.execScloseApply tid s
  | .smarkInject tid => Sys2Proof.Machine.execSmarkInject tid s
  | .eotMarkerConsume plot port => Sys2Proof.Machine.execEotMarkerConsume plot port s
  | .rrelStart tid => Sys2Proof.Machine.execRrelStart tid s
  | .garrStart tid => Sys2Proof.Machine.execGarrStart tid s
  | .ckickStart tid => Sys2Proof.Machine.execCkickStart tid s
  | .channelRecordStart chan => Sys2Proof.Machine.execChannelRecordStart chan s
  | .channelRecordComplete chan => Sys2Proof.Machine.execChannelRecordComplete chan s
  | .cstopDone chan => Sys2Proof.Machine.execCstopDone chan s
  | .tfillEnd plot h => Sys2Proof.Machine.execTfillEnd plot h s
  | .tdrainEnd plot h => Sys2Proof.Machine.execTdrainEnd plot h s
  | .granuleZero plot => Sys2Proof.Machine.execGranuleZero plot s
  | .sliceLoadEnd plot lat slot => Sys2Proof.Machine.execSliceLoadEnd plot lat slot s
  | .bindingStart plot lat => Sys2Proof.Machine.execBindingStart plot lat s
  | .weightReload plot lat => Sys2Proof.Machine.execWeightReload plot lat s
  | .rowFire plot lat => Sys2Proof.Machine.execRowFire plot lat s
  | .assistResume plot => Sys2Proof.Machine.execAssistResume plot s
  | .mzeroClear plot id => Sys2Proof.Machine.execMzeroClear plot id s
  | .mreadReadout plot id => Sys2Proof.Machine.execMreadReadout plot id s
  | .mnormApply plot id => Sys2Proof.Machine.execMnormApply plot id s
  | .invalidationArrive id p => Sys2Proof.Machine.execInvalidationArrive id p s
  | .nbdotStart tid => Sys2Proof.Machine.execNbdotStart tid s
  | .nbdotComplete mbox => Sys2Proof.Machine.execNbdotComplete mbox s
  | .derivedUpdateApply region granule => Sys2Proof.Machine.execDerivedUpdateApply region granule s
  | .derivedBuild region row part => Sys2Proof.Machine.execDerivedBuild region row part s
  | .rowRescan region row part => Sys2Proof.Machine.execRowRescan region row part s
  | .derivedResultWrite region row => Sys2Proof.Machine.execDerivedResultWrite region row s
  | .commandStart tid signal => Sys2Proof.Machine.execCommandStart tid signal s
  | .cmdqStall tid => Sys2Proof.Machine.execCmdqStall tid s
  | .dcacheLineExpiry plot line => Sys2Proof.Machine.execDcacheLineExpiry plot line s
  | .threadEnd tid => Sys2Proof.Machine.execThreadEnd tid s
  | .completionPost slot => Sys2Proof.Machine.execCompletionPost slot s
  | .queueEntryTake q => Sys2Proof.Machine.execQueueEntryTake q s
  | .watchdogExpiry slot => Sys2Proof.Machine.execWatchdogExpiry slot s
  | .balancerSample slot => Sys2Proof.Machine.execBalancerSample slot s
  | .heartbeatTimeout core => Sys2Proof.Machine.execHeartbeatTimeout core s
  | .winPeek core => Sys2Proof.Machine.execWinPeek core s
  | .winStop core => Sys2Proof.Machine.execWinStop core s
  | .winCut core => Sys2Proof.Machine.execWinCut core s
  | .winDrain core => Sys2Proof.Machine.execWinDrain core s
  | .winReset core => Sys2Proof.Machine.execWinReset core s
  | .winPost core => Sys2Proof.Machine.execWinPost core s
  | .windowCommandFinish core => Sys2Proof.Machine.execWindowCommandFinish core s
  | .frameEntryBoundary die => Sys2Proof.Machine.execFrameEntryBoundary die s
  | .cellCutAlign plot plane cell => Sys2Proof.Machine.execCellCutAlign plot plane cell s
  | .latticeCut plot lat => Sys2Proof.Machine.execLatticeCut plot lat s
  | .cutComplete region => Sys2Proof.Machine.execCutComplete region s
  | .cutAbandon region => Sys2Proof.Machine.execCutAbandon region s
  | .periodicCut slot => Sys2Proof.Machine.execPeriodicCut slot s
  | .rollback region => Sys2Proof.Machine.execRollback region s
  | .doubleReset tid => Sys2Proof.Machine.execDoubleReset tid s
  | .scrubRequestStart => Sys2Proof.Machine.execScrubRequestStart s
  | .scrubClearComplete => Sys2Proof.Machine.execScrubClearComplete s
  | .tokenWrite => Sys2Proof.Machine.execTokenWrite s
  | .mailboxCommandDone fn => Sys2Proof.Machine.execMailboxCommandDone fn s
  | .functionLevelReset vf => Sys2Proof.Machine.execFunctionLevelReset vf s
  | .plotRetirement plot => Sys2Proof.Machine.execPlotRetirement plot s
  | .plotPairing plot => Sys2Proof.Machine.execPlotPairing plot s
  | .columnRetirement plot lat col => Sys2Proof.Machine.execColumnRetirement plot lat col s
  | .wayRetirement slice way => Sys2Proof.Machine.execWayRetirement slice way s
  | .hbmRowRepair row => Sys2Proof.Machine.execHbmRowRepair row s
  | .laneReplacement port lane => Sys2Proof.Machine.execLaneReplacement port lane s
  | .remoteAccessTimeout id => Sys2Proof.Machine.execRemoteAccessTimeout id s
  | .accessPerformed id => Sys2Proof.Machine.execAccessPerformed id s
  | .preemption slot => Sys2Proof.Machine.execPreemption slot s
  | .cellNop r => Sys2Proof.Machine.execCellNop r s
  | .cellMov r => Sys2Proof.Machine.execCellMov r s
  | .cellSel r => Sys2Proof.Machine.execCellSel r s
  | .cellAdd r => Sys2Proof.Machine.execCellAdd r s
  | .cellSub r => Sys2Proof.Machine.execCellSub r s
  | .cellMul r => Sys2Proof.Machine.execCellMul r s
  | .cellAnd r => Sys2Proof.Machine.execCellAnd r s
  | .cellOr r => Sys2Proof.Machine.execCellOr r s
  | .cellXor r => Sys2Proof.Machine.execCellXor r s
  | .cellShl r => Sys2Proof.Machine.execCellShl r s
  | .cellShr r => Sys2Proof.Machine.execCellShr r s
  | .cellSar r => Sys2Proof.Machine.execCellSar r s
  | .cellMin r => Sys2Proof.Machine.execCellMin r s
  | .cellMax r => Sys2Proof.Machine.execCellMax r s
  | .cellAbs r => Sys2Proof.Machine.execCellAbs r s
  | .cellNeg r => Sys2Proof.Machine.execCellNeg r s
  | .cellCmpeq r => Sys2Proof.Machine.execCellCmpeq r s
  | .cellCmplt r => Sys2Proof.Machine.execCellCmplt r s
  | .cellCmple r => Sys2Proof.Machine.execCellCmple r s
  | .cellFadd r => Sys2Proof.Machine.execCellFadd r s
  | .cellFsub r => Sys2Proof.Machine.execCellFsub r s
  | .cellFmul r => Sys2Proof.Machine.execCellFmul r s
  | .cellFma r => Sys2Proof.Machine.execCellFma r s
  | .cellFmin r => Sys2Proof.Machine.execCellFmin r s
  | .cellFmax r => Sys2Proof.Machine.execCellFmax r s
  | .cellFcmpeq r => Sys2Proof.Machine.execCellFcmpeq r s
  | .cellFcmplt r => Sys2Proof.Machine.execCellFcmplt r s
  | .cellFabs r => Sys2Proof.Machine.execCellFabs r s
  | .cellFneg r => Sys2Proof.Machine.execCellFneg r s
  | .cellCvt r => Sys2Proof.Machine.execCellCvt r s
  | .cellQbfp r => Sys2Proof.Machine.execCellQbfp r s
  | .cellDqbfp r => Sys2Proof.Machine.execCellDqbfp r s
  | .cellExp2 r => Sys2Proof.Machine.execCellExp2 r s
  | .cellLog2 r => Sys2Proof.Machine.execCellLog2 r s
  | .cellRcp r => Sys2Proof.Machine.execCellRcp r s
  | .cellRsqrt r => Sys2Proof.Machine.execCellRsqrt r s
  | .cellSqrt r => Sys2Proof.Machine.execCellSqrt r s
  | .cellTanh r => Sys2Proof.Machine.execCellTanh r s
  | .cellSigm r => Sys2Proof.Machine.execCellSigm r s
  | .cellGact r => Sys2Proof.Machine.execCellGact r s
  | .cellRsum r => Sys2Proof.Machine.execCellRsum r s
  | .cellRmax r => Sys2Proof.Machine.execCellRmax r s
  | .cellPset r => Sys2Proof.Machine.execCellPset r s
  | .cellPand r => Sys2Proof.Machine.execCellPand r s
  | .cellPor r => Sys2Proof.Machine.execCellPor r s
  | .cellPnot r => Sys2Proof.Machine.execCellPnot r s
  | .cellSteer r => Sys2Proof.Machine.execCellSteer r s
  | .cellMerge r => Sys2Proof.Machine.execCellMerge r s
  | .cellPsend r => Sys2Proof.Machine.execCellPsend r s
  | .cellPrecv r => Sys2Proof.Machine.execCellPrecv r s
  | .cellTagset r => Sys2Proof.Machine.execCellTagset r s
  | .cellDrop r => Sys2Proof.Machine.execCellDrop r s
  | .rulePromotion plot plane cell slot => Sys2Proof.Machine.execRulePromotion plot plane cell slot s
  | .cellFault plot plane cell => Sys2Proof.Machine.execCellFault plot plane cell s
  | .assistresWrite plot v => Sys2Proof.Machine.execAssistresWrite plot v s
  | .pageWalk p va k => Sys2Proof.Machine.execPageWalk p va k s
  | .prqrespWrite tenant v => Sys2Proof.Machine.execPrqrespWrite tenant v s
  | .hbmRefreshDue mbox => Sys2Proof.Machine.execHbmRefreshDue mbox s
  | .waitWake tid => Sys2Proof.Machine.execWaitWake tid s
  | .waitLimitExpiry tid => Sys2Proof.Machine.execWaitLimitExpiry tid s
  | .swaitReturn tid => Sys2Proof.Machine.execSwaitReturn tid s
  | .twaitReturn tid => Sys2Proof.Machine.execTwaitReturn tid s
  | .rawaitReturn tid => Sys2Proof.Machine.execRawaitReturn tid s
  | .gwaitReturn tid => Sys2Proof.Machine.execGwaitReturn tid s
  | .sbarReturn tid => Sys2Proof.Machine.execSbarReturn tid s
  | .tlbsyncReturn tid => Sys2Proof.Machine.execTlbsyncReturn tid s
  | .dsyncReturn tid => Sys2Proof.Machine.execDsyncReturn tid s
  | .drdReturn tid => Sys2Proof.Machine.execDrdReturn tid s
  | .nbwaitReturn tid => Sys2Proof.Machine.execNbwaitReturn tid s
  | .cbarReturn tid => Sys2Proof.Machine.execCbarReturn tid s
  | .icinvReturn tid => Sys2Proof.Machine.execIcinvReturn tid s
  | .instructionMemoryError core addr => Sys2Proof.Machine.execInstructionMemoryError core addr s
  | .dbgctlHalt tenant v => Sys2Proof.Machine.execDbgctlHalt tenant v s
  | .dbgctlRun tenant v => Sys2Proof.Machine.execDbgctlRun tenant v s
  | .fqtakeWrite tenant v => Sys2Proof.Machine.execFqtakeWrite tenant v s
  | .kick vf n => Sys2Proof.Machine.execKick vf n s
  | .qdescWrite vf n w0 w8 w12 => Sys2Proof.Machine.execQdescWrite vf n w0 w8 w12 s
  | .rdescWrite vf n w0 w8 w12 => Sys2Proof.Machine.execRdescWrite vf n w0 w8 w12 s
  | .registerWrite target v => Sys2Proof.Machine.execRegisterWrite target v s
  | .setwin vf pbase plimit => Sys2Proof.Machine.execSetwin vf pbase plimit s
  | .setkey vf dk tk => Sys2Proof.Machine.execSetkey vf dk tk s
  | .setquota vf sets regions pins lmax => Sys2Proof.Machine.execSetquota vf sets regions pins lmax s
  | .setrange vf first count => Sys2Proof.Machine.execSetrange vf first count s
  | .place outvf invf ds => Sys2Proof.Machine.execPlace outvf invf ds s
  | .setperm granule v => Sys2Proof.Machine.execSetperm granule v s
  | .setweight vf weight => Sys2Proof.Machine.execSetweight vf weight s
  | .attest fn vf nonce => Sys2Proof.Machine.execAttest fn vf nonce s
  | .getkey => Sys2Proof.Machine.execGetkey s
  | .repairlog first => Sys2Proof.Machine.execRepairlog first s
  | .dbgreg tid reg write v => Sys2Proof.Machine.execDbgreg tid reg write v s
  | .fwstage addr len => Sys2Proof.Machine.execFwstage addr len s
  | .pwrcap watts => Sys2Proof.Machine.execPwrcap watts s
  | .share granule on => Sys2Proof.Machine.execShare granule on s
  | .packageReset => Sys2Proof.Machine.execPackageReset s
  | .wearSample u low => Sys2Proof.Machine.execWearSample u low s
  | .correctedError u => Sys2Proof.Machine.execCorrectedError u s
  | .solrusFlitReceive f => Sys2Proof.Machine.execSolrusFlitReceive f s
  | .hostSharedAccess addr data => Sys2Proof.Machine.execHostSharedAccess addr data s
  | .mctpRequest q => Sys2Proof.Machine.execMctpRequest q s
  | .preemptionResume slot => Sys2Proof.Machine.execPreemptionResume slot s
  | .uncorrectableError u => Sys2Proof.Machine.execUncorrectableError u s
  | .cycleWithheld plot => Sys2Proof.Machine.execCycleWithheld plot s

end Sys2Proof.Machine
end

