-- ==== Sys2Proof/Machine/Schedule.lean ====
section
/-! DEFINITION. Who moves when (log 1). Each instruction of the issuing context takes a cycle; then comes a round of turns:
the other contexts that can issue, the contexts that wait, and the events of units that may act of their own accord, in
an order the manual leaves open and the model takes from free values. An event whose condition does not hold leaves the
state as it is; one that the manual gives no fixed cycle may miss a round. What comes from outside the package (the host,
links, errors, wear samples, the power governor) is a turn that some state's agenda holds. -/

namespace Sys2Proof.Machine

/-! Events that may come now, by unit. -/

/-- The events of a cell. -/
def cellEvents (p k c : Nat) : List Instr :=
  [.ruleBeat p k c, .pickingCycle p k c, .ruleResultLand p k c, .predMarkerRemove p k c, .cellCutAlign p k c] ++
  (List.range 8).map fun q => .markerMove p k c q

/-- Endpoints of a plane whose source holds a token. -/
def Plane.movable (x : Plane) : List Nat :=
  (List.range 176).filter fun ep => match x.feed ep with | some q => !(x.srcBuf q).isEmpty | none => false

/-- The events of a plane. -/
def planeEvents (x : Plane) (p k : Nat) : List Instr :=
  match x.st with
  | .unconfigured => []
  | .loading => [.configurationLoadEnd p k]
  | _ => (List.range 16).flatMap (cellEvents p k) ++ x.movable.flatMap fun ep => [.tokenDelivery p k ep, .orderingArcDelivery p k ep]

/-- The events of a port. -/
def portEvents (p n : Nat) : List Instr :=
  [.streamBegin p n, .portReadBeat p n, .portWriteBeat p n, .rowAcknowledgement p n, .eotMarkerConsume p n,
   .streamFatal p n, .streamEnd p n]

/-- The events of a lattice. -/
def latEvents (x : Lat) (p l : Nat) : List Instr :=
  ((x.slots.filter fun e => e.2.st == .loading).map fun e => .sliceLoadEnd p l e.1) ++
  [.bindingStart p l, .weightReload p l, .rowFire p l, .latticeCut p l]

/-- The events of a started command. -/
def opEvents (p : Nat) (c : Cmd) : List Instr :=
  match c.k with
  | .mzero _ => [.mzeroClear p c.id]
  | .mread _ _ _ _ => [.mreadReadout p c.id]
  | .mnorm _ => [.mnormApply p c.id]
  | .tfill h _ => [.tfillEnd p h]
  | .tdrain h _ => [.tdrainEnd p h]
  | _ => []

/-- The starts of the oldest commands of a thread. -/
def startEvents (t : Nat) : List Instr :=
  [.commandStart t false, .commandStart t true, .scloseApply t, .smarkInject t, .rrelStart t, .garrStart t, .ckickStart t,
   .nbdotStart t]

/-- The events of a plot's own units: starts of commands, commands under way, granules, the assist, cache lines. -/
def plotEvents (x : Plot) (p : Nat) : List Instr :=
  (x.cmds.map fun (c : Cmd) => c.tid % 8192).eraseDups.flatMap startEvents ++ (x.inflight ++ x.mops).flatMap (opEvents p) ++
  (if x.gzero = 0 ∧ x.gzero1 = 0 then [] else [.granuleZero p]) ++ (if x.await ∨ !x.apend.isEmpty then [.assistResume p] else []) ++
  (if x.assist.st = .double ∧ !x.failed then [.plotRetirement p] else []) ++
  x.dcache.map fun l => .dcacheLineExpiry p l.line

/-- The events of a thread: its end, its reset, the traps and returns that time brings. -/
def threadEvents (c : Ctx) (t : Nat) : List Instr :=
  match c.st with
  | .ending => [.threadEnd t]
  | .double => [.doubleReset t]
  | _ => if c.stall.isSome then [.cmdqStall t] else []

/-- The events of a derived region. -/
def regionEvents (r : Region) (id : Nat) : List Instr :=
  (r.queue.map fun u => u.gran).eraseDups.map (fun g => .derivedUpdateApply id g) ++
  r.parts.flatMap (fun e =>
    if !e.2.built then [Instr.derivedBuild id (e.1 / 1048576) (e.1 % 1048576)]
    else if e.2.stale then [.rowRescan id (e.1 / 1048576) (e.1 % 1048576)] else []) ++
  r.dirty.map fun d => .derivedResultWrite id d

/-- The events of a launch. -/
def slotEvents (x : Slot) (i : Nat) : List Instr :=
  match x.st with
  | .running => [.completionPost i, .watchdogExpiry i, .balancerSample i, .periodicCut i, .rollback i] ++
      (if x.preempting then [.preemption i] else [])
  | _ => []

/-- Held completions whose rings are held no more: they stand there until their rings have room (R318). -/
def heldEvents (s : State) : List Instr :=
  ((s.held.filter fun c => !(s.cring c.tenant c.ring).hold).map fun c => c.slot).eraseDups.map .completionPost

/-- The events of a lodge core: its heartbeat, its window command. -/
def lodgeEvents (l : Lodge) (c : Nat) : List Instr :=
  (if l.role == .active then [.heartbeatTimeout c] else []) ++
  (if l.busy then [.winPeek c, .winStop c, .winCut c, .winDrain c, .winReset c, .winPost c, .windowCommandFinish c] else [])

/-- The retirement of a worn unit. -/
def wearEvents : WearUnit → List Instr
  | .plot p => [.plotRetirement p, .plotPairing p]
  | .column p l c => [.columnRetirement p l c]
  | .lane q l => [.laneReplacement q l]
  | .row r => [.hbmRowRepair r]
  | .way a w => [.wayRetirement a w]
  | .lodge _ => []

/-- The lattices of the package: those that have left their reset state, and those that planes claim. -/
def latKeys (s : State) : List Nat :=
  (Tbl.keys s.lats ++ s.planes.flatMap fun (e : Nat × Plane) =>
    ((List.range 4).filter fun l => bitAt e.2.latmask l).map fun l => e.1 / 4 * 4 + l).eraseDups

/-- The events of the fabric. -/
def fabricEvents (s : State) : List Instr :=
  s.planes.flatMap (fun e => planeEvents e.2 (e.1 / 4) (e.1 % 4)) ++
  s.ports.flatMap (fun e => portEvents (e.1 / 16) (e.1 % 16)) ++
  (latKeys s).flatMap (fun i => latEvents (s.lat (i / 4) (i % 4)) (i / 4) (i % 4)) ++
  s.plots.flatMap (fun e => plotEvents e.2 e.1) ++ s.threads.flatMap fun e => threadEvents e.2 e.1

/-- The events of memory and of the units beside it. -/
def memoryEvents (s : State) : List Instr :=
  s.pend.map (fun p => .accessPerformed p.id) ++
  s.invals.flatMap (fun i => i.todo.map fun h => .invalidationArrive i.id h) ++
  s.chans.flatMap (fun e => [.channelRecordStart e.1, .channelRecordComplete e.1, .cstopDone e.1]) ++
  s.mboxes.flatMap (fun e => (if e.2.cmd.isSome || !e.2.owed.isEmpty then [.nbdotComplete e.1] else [])) ++
  s.regions.flatMap (fun e => regionEvents e.2 e.1) ++
  s.remotes.map fun r => .remoteAccessTimeout r.id

/-- The events of launches, cuts, scrubs, the host port, frames and repairs. -/
def systemEvents (s : State) : List Instr :=
  s.slots.flatMap (fun e => slotEvents e.2 e.1) ++ heldEvents s ++
  s.queues.flatMap (fun e => if e.2.en then [.queueEntryTake e.1] else []) ++
  s.lodges.flatMap (fun e => lodgeEvents e.2 e.1) ++
  s.cuts.flatMap (fun e => if e.2.active then [.cutComplete e.1, .cutAbandon e.1] else []) ++
  (if s.scrubs.isEmpty then [] else [.scrubRequestStart, .scrubClearComplete, .tokenWrite]) ++
  s.tenants.flatMap (fun e => if e.2.flr then [.functionLevelReset e.1] else []) ++
  (if s.admin.done then [.mailboxCommandDone 0] else []) ++
  s.vfbox.flatMap (fun e => if e.2.done then [.mailboxCommandDone (e.1 + 1)] else []) ++
  (s.wear.filter fun w => (s.worn w.unit_).isSome).flatMap fun w => wearEvents w.unit_

/-! The round. -/

/-- Events that come in the cycle their conditions name (R102-R107, R307, R308, R311, R142). -/
def prompt : Instr → Bool
  | .ruleBeat _ _ _ | .pickingCycle _ _ _ | .ruleResultLand _ _ _ | .predMarkerRemove _ _ _ | .watchdogExpiry _ | .heartbeatTimeout _
  | .cmdqStall _ | .balancerSample _ => true
  | _ => false

/-- The contexts that wait in an instruction. -/
def waiters (s : State) : List Agent :=
  (s.threads.filter fun e => e.2.wait.isSome).map (fun e => Agent.thread e.1) ++
  (s.plots.filter fun e => e.2.assist.wait.isSome).map fun e => Agent.assist e.1

/-- Whether a plot's assist context runs. -/
def Plot.assisted (x : Plot) : Bool := x.assist.st != .free

/-- The plots that have a context. -/
def busyPlots (s : State) : List Nat :=
  ((Tbl.keys s.threads).map (· / 8) ++ Tbl.keys (Tbl.keep (fun _ x => Plot.assisted x) s.plots)).eraseDups

/-- The plot of an agent. -/
def Agent.plot? : Agent → Option Nat
  | .thread t => some (t / 8)
  | .assist p => some p
  | .lodge _ => none

/-- The contexts other than the issuing one's core that have a turn. -/
def coreTurns (s : State) : List Turn :=
  ((s.lodges.filter fun e => e.2.role == .active && s.cur != .lodge e.1).map fun e => Turn.lodge e.1) ++
  ((busyPlots s).filter fun p => s.cur.plot? != some p).map (fun p => Turn.plot p) ++
  ((waiters s).filter fun a => a != s.cur).map fun a => Turn.retry a

/-- The events of a round; those of no fixed cycle come or stay away as free values say. -/
def eventTurns (s : State) (l : List Instr) : List Turn :=
  (l.mapIdx fun j i => (i, Config.freeWord (s.free + j))).filterMap fun e =>
    if prompt e.1 || e.2.getLsbD 0 then some (Turn.event e.1) else none

/-- Turns in an order that free values from the `f`-th give. -/
def shuffle (f : Nat) (l : List Turn) : Nat → List Turn
  | 0 => []
  | n + 1 =>
    let i := (Config.freeWord f).toNat % l.length
    match l[i]? with
    | some x => x :: shuffle (f + 1) (l.eraseIdx i) n
    | none => []

/-- The context that issues in the next cycle: the next of the same core, else an ACTIVE lodge core if the issuing one
is that no longer. -/
def nextCur (s : State) : Agent :=
  match s.cur with
  | .thread t => (pickCtx s (t / 8)).getD s.cur
  | .assist p => (pickCtx s p).getD s.cur
  | .lodge c =>
    if (s.lodge c).role = .active then s.cur
    else match s.lodges.find? fun e => e.2.role == .active with
      | some e => .lodge e.1
      | none => s.cur

/-- The frames of the package turn over where their entries have ended (R321), ahead of the events of the cycle. -/
def frameTurns : List Turn := (List.range 4).map fun d => Turn.event (.frameEntryBoundary d)

/-- Phases that wait for their merges tried again: those of sets and of gates (R176). -/
def retryMerges (s : State) : State :=
  (Tbl.keys (Tbl.keep (fun _ g => g.due) s.gates)).foldl (fun s i => gateEval s (i / 32) (i % 32)) (settleDue s)

/-- A round of turns made for the cycle that has passed, and the context that issues after it (log 82). -/
def nextRound (s : State) : State :=
  let s := retryMerges s
  let evs := fabricEvents s ++ memoryEvents s ++ systemEvents s
  let ts := coreTurns s ++ eventTurns s evs
  let a := nextCur s
  { s with cur := a, agenda := frameTurns ++ shuffle (s.free + evs.length) ts ts.length,
           free := s.free + evs.length + ts.length }

end Sys2Proof.Machine
end

