-- ==== Sys2Proof/Machine/Step.lean ====
section
/-! DEFINITION. One step of the package (log 1): the issuing context's next instruction when the agenda is empty,
otherwise the agenda's next turn. -/

namespace Sys2Proof.Machine

/-- The issuing context issues; the clock advances with an instruction issued or a cycle without one. -/
def issue (s : State) : Host.Outcome State Fault Refusal :=
  match fetchNext s with
  | .run i s' => exec i (tick s')
  | .skipped s' => .next s'
  | .rest s' => .next (tick s')

/-- A context issues in a turn of the agenda, whose clock stands. -/
def issueAt (s : State) : Host.Outcome State Fault Refusal :=
  match skipOver s 33 with
  | .run i s' => exec i s'
  | .skipped s' => .next s'
  | .rest s' => .next s'

/-- One issue slot of a plot's core: its contexts are tried in order until one issues (R75). -/
def slotTurn (s : State) : List Agent → Host.Outcome State Fault Refusal
  | [] => .next s
  | a :: rest =>
    if s.ready a && s.coreRuns a then
      match skipOver { s with cur := a } 33 with
      | .run i s' =>
        match exec i s' with
        | .next t =>
          if issued s'.ctx (t.ctxOf a) then .next { noteIssue t a with cur := s.cur } else slotTurn { t with cur := s.cur } rest
        | r => r
      | .skipped s' | .rest s' => slotTurn { s' with cur := s.cur } rest
    else slotTurn s rest

/-- One turn of the agenda. -/
def turn (t : Turn) (s : State) : Host.Outcome State Fault Refusal :=
  match t with
  | .plot p => slotTurn s (ctxOrder s p)
  | .lodge c => asAgent s (.lodge c) issueAt
  | .event i => exec i s
  | .retry a => if (s.ctxOf a).wait.isSome then asAgent s a issueAt else .next s
  | .slot a c =>
    match a.plot? with
    | some p => if issued c (s.ctxOf a) then .next (noteIssue s a) else slotTurn s ((ctxOrder s p).filter fun b => b != a)
    | none => .next s
  | .round => .next (nextRound s)

/-- One step: the next state, a fault or a refusal. -/
def step (s : State) : Host.Outcome State Fault Refusal :=
  match s.agenda with
  | [] => issue s
  | t :: rest => turn t { s with agenda := rest }

/-- The state with an instruction stored where the next step fetches (log 9). -/
def State.withFetchWord (s : State) (nbits w : Nat) : State :=
  placeFetch (readyCtx { s with agenda := [] }) (tableBytes nbits w)

end Sys2Proof.Machine
end

