-- ==== Sys2Proof/Safety.lean ====
section
/-! DEFINITION. What claims are stated with: the canonical forms a state keeps, and safe steps. -/

namespace Sys2Proof.Machine

/-- Every byte memory of the package that is held once is in canonical form. -/
def State.memOk (s : State) : Bool := Mem.wf s.mem && Mem.wf s.sram && Mem.wf s.imem

/-- A step that neither faults nor refuses. -/
def stepsTo (s s' : State) : Prop := step s = .next s'

end Sys2Proof.Machine
end

