-- ==== Sys2Proof/Certificates/Slice0/Obligations.lean ====
section
/-! DEFINITION. What is claimed of the model. The first part holds the words the claims are written in; then each claim
is a `Prop`, whose docstring names the rules of the manual it formalises. -/

open Sys2Proof Sys2Proof.Machine

namespace Sys2Proof.Claim

/-! The words of the claims. -/

/-- Where a context stands after an instruction of `len` bytes has completed: RETIRED counts it (R78); the next address
outside a clause; inside one, the next governed instruction, the first one again while an RPT has iterations left, or
the instruction after the clause (R86, R87). -/
def Completed (c d : Ctx) (len : Nat) : Prop :=
  let next := c.pc + BitVec.ofNat 64 len
  let last := c.cl.count ≤ c.cl.pos + 1
  let again := c.cl.kind = .rpt ∧ 1 < c.cl.rem.toNat
  d.retired = c.retired + 1 ∧
  (c.cl.kind = .none → d.pc = next ∧ d.cl = c.cl) ∧
  (c.cl.kind ≠ .none → ¬ last → d.pc = next ∧ d.cl = { c.cl with pos := c.cl.pos + 1 }) ∧
  (c.cl.kind ≠ .none → last → again → d.pc = c.cl.body ∧ d.cl = { c.cl with pos := 0, rem := c.cl.rem - 1 }) ∧
  (c.cl.kind ≠ .none → last → ¬ again → d.pc = next ∧ d.cl = {})

/-- A context's registers other than the general ones, the pc, RETIRED, the clause in progress and the issue state: what
an instruction that only computes leaves as it was. -/
def SameRest (c d : Ctx) : Prop :=
  { d with regs := c.regs, pc := c.pc, retired := c.retired, cl := c.cl, st := c.st, wait := c.wait, stall := c.stall } = c

/-- Nothing but the issuing context's record differs. -/
def SameElse (s t : State) : Prop := t = s.setCtx t.ctx

/-- Every general register but `rd` keeps its value, and `rd` holds `v`; g0 reads 0 (R48). -/
def Wrote (s t : State) (rd : Reg) (v : Word) : Prop :=
  ∀ r, t.g r = if r = 0 then 0 else if r = rd then v else s.g r

/-- An instruction of `len` bytes whose whole effect is a register result. -/
def Result (s t : State) (rd : Reg) (v : Word) (len : Nat) : Prop :=
  SameElse s t ∧ SameRest s.ctx t.ctx ∧ Wrote s t rd v ∧ Completed s.ctx t.ctx len

/-- An instruction of `len` bytes that completes and changes no register. -/
def Passed (s t : State) (len : Nat) : Prop := Result s t 0 0 len

/-- The two-operand ALU operations of Table 4.6, each with the value the table gives of `a` and `b`. -/
def aluTable : List ((Reg → Reg → Reg → Instr) × (Word → Word → Word)) :=
  [(.aluAdd, fun a b => BitVec.ofInt 64 (a.toInt + b.toInt)), (.aluSub, fun a b => BitVec.ofInt 64 (a.toInt - b.toInt)),
   (.aluAnd, fun a b => a &&& b), (.aluOr, fun a b => a ||| b), (.aluXor, fun a b => a ^^^ b),
   (.aluSll, fun a b => BitVec.ofNat 64 (a.toNat * 2 ^ (b.toNat % 64))),
   (.aluSrl, fun a b => BitVec.ofNat 64 (a.toNat / 2 ^ (b.toNat % 64))),
   (.aluSra, fun a b => BitVec.ofInt 64 (a.toInt / 2 ^ (b.toNat % 64))),
   (.aluSlt, fun a b => if a.toInt < b.toInt then 1 else 0), (.aluSltu, fun a b => if a.toNat < b.toNat then 1 else 0),
   (.aluMin, fun a b => BitVec.ofInt 64 (min a.toInt b.toInt)), (.aluMax, fun a b => BitVec.ofInt 64 (max a.toInt b.toInt)),
   (.aluMinu, fun a b => BitVec.ofNat 64 (min a.toNat b.toNat)), (.aluMaxu, fun a b => BitVec.ofNat 64 (max a.toNat b.toNat)),
   (.aluMul, fun a b => BitVec.ofInt 64 (a.toInt * b.toInt)),
   (.aluMulh, fun a b => BitVec.ofInt 64 (a.toInt * b.toInt / 2 ^ 64)),
   (.aluMulhu, fun a b => BitVec.ofNat 64 (a.toNat * b.toNat / 2 ^ 64))]

/-- The value of extension words (R17): one, sign-extended; two, the first the low half. -/
def extValue : Ext → Word
  | .one e => BitVec.ofInt 64 e.toInt
  | .two lo hi => BitVec.ofNat 64 (lo.toNat + hi.toNat * 2 ^ 32)

/-- The bytes of an instruction with extension words (R15). -/
def extBytes : Ext → Nat
  | .one _ => 8
  | .two _ _ => 12

/-- The immediate group with a short immediate and with extension words, each with its value of `a` and the immediate
(R81). -/
def immTable : List ((Reg → Reg → Imm14 → Instr) × (Reg → Reg → Ext → Instr) × (Word → Word → Word)) :=
  [(.addi, .addiExt, fun a i => BitVec.ofInt 64 (a.toInt + i.toInt)), (.andi, .andiExt, fun a i => a &&& i),
   (.ori, .oriExt, fun a i => a ||| i), (.xori, .xoriExt, fun a i => a ^^^ i),
   (.slti, .sltiExt, fun a i => if a.toInt < i.toInt then 1 else 0)]

/-- The branches in both lengths, each with the comparison it makes (R83). -/
def branchTable : List ((Reg → Reg → Imm14 → Instr) × (Reg → Reg → BitVec 32 → Instr) × (Word → Word → Prop)) :=
  [(.beq, .beqExt, fun a b => a = b), (.bne, .bneExt, fun a b => a ≠ b),
   (.blt, .bltExt, fun a b => a.toInt < b.toInt), (.bge, .bgeExt, fun a b => b.toInt ≤ a.toInt),
   (.bltu, .bltuExt, fun a b => a.toNat < b.toNat), (.bgeu, .bgeuExt, fun a b => b.toNat ≤ a.toNat)]

/-- A transfer of control completes: the pc is `pc`, `rd` holds the link `v`, RETIRED counts it, and nothing else
differs. -/
def Went (s t : State) (rd : Reg) (v pc : Word) : Prop :=
  SameElse s t ∧ SameRest s.ctx t.ctx ∧ Wrote s t rd v ∧ t.ctx.pc = pc ∧ t.ctx.retired = s.ctx.retired + 1 ∧
  t.ctx.cl = s.ctx.cl

/-- A trap of the issuing context at its own instruction, as TakeTrap of R335 has it: the addresses and cause saved, the
clause in progress with its count and header saved in CLAUSE, CLREM and CLHDR (R338), the status saved in the PP bits,
privilege S on a thread and L elsewhere, the pc at the vector, the clause in use ended. DOUBLE stands in the state when
the handler cannot be fetched (R339). No other context or unit changes. -/
def TrapTaken (s t : State) (cause : Nat) (epc faddr einfo : Word) : Prop :=
  let c := s.ctx
  let d := t.ctx
  SameElse s t ∧ d.epc = epc ∧ d.fbyte = c.pc ∧ d.ecause = BitVec.ofNat 64 cause ∧ d.faddr = faddr ∧ d.einfo = einfo ∧
  d.clause = c.cl.csr ∧ d.clrem = (if c.cl.kind = .rpt then c.cl.rem else 0) ∧
  d.clhdr = (if c.cl.kind = .none then 0 else c.cl.hdrw.zeroExtend 64) ∧ d.pp = c.priv ∧ d.priv = (if s.isThread then .s else .l) ∧ d.pc = s.trapVector s.cur ∧
  d.regs = c.regs ∧ d.cl = {} ∧ d.carveMem = c.carveMem ∧ (d.st = .running ∨ d.st = .double)

/-- A trap taken that leaves RETIRED as it stands: that the trapping instruction is not counted is the model's reading (log 58). -/
def Trapped (s t : State) (cause : Nat) (epc faddr einfo : Word) : Prop :=
  TrapTaken s t cause epc faddr einfo ∧ t.ctx.retired = s.ctx.retired

end Sys2Proof.Claim

open Sys2Proof.Claim

/-! The ALU. -/

/-- R80, R48, R86: the two-operand ALU operations write the value of Table 4.6 to rd and change nothing else. -/
def Sys2Proof.Claim.AluResult : Prop :=
  ∀ op ∈ aluTable, ∀ (rd a b : Reg) (s : State), ∃ t, exec (op.1 rd a b) s = .next t ∧
    Result s t rd (op.2 (s.g a) (s.g b)) 4

/-- R80: division. A zero divisor gives quotient 0 and the dividend as remainder, -2^63 / -1 saturates with remainder 0,
and otherwise the quotient is the one truncated toward zero and the remainder has the sign of the dividend. -/
def Sys2Proof.Claim.DivideResult : Prop :=
  ∀ (rd a b : Reg) (s : State), let x := s.g a; let y := s.g b
    (∃ t, exec (.aluDiv rd a b) s = .next t ∧ Result s t rd (if y = 0 then 0 else
        if x.toInt = -(2 ^ 63) ∧ y.toInt = -1 then BitVec.ofInt 64 (2 ^ 63 - 1) else BitVec.ofInt 64 (x.toInt.tdiv y.toInt)) 4) ∧
    (∃ t, exec (.aluRem rd a b) s = .next t ∧ Result s t rd (if y = 0 then x else BitVec.ofInt 64 (x.toInt.tmod y.toInt)) 4) ∧
    (∃ t, exec (.aluDivu rd a b) s = .next t ∧ Result s t rd (if y = 0 then 0 else BitVec.ofNat 64 (x.toNat / y.toNat)) 4) ∧
    (∃ t, exec (.aluRemu rd a b) s = .next t ∧ Result s t rd (if y = 0 then x else BitVec.ofNat 64 (x.toNat % y.toNat)) 4)

/-- R80: CLZ, CTZ and POPC count; the counts are stated by what they count. -/
def Sys2Proof.Claim.CountResult : Prop :=
  ∀ (rd a : Reg) (s : State), let x := s.g a
    (∃ t n, exec (.clz rd a) s = .next t ∧ Result s t rd (BitVec.ofNat 64 n) 4 ∧ n ≤ 64 ∧
      x.toNat < 2 ^ (64 - n) ∧ (n < 64 → 2 ^ (63 - n) ≤ x.toNat)) ∧
    (∃ t n, exec (.ctz rd a) s = .next t ∧ Result s t rd (BitVec.ofNat 64 n) 4 ∧ n ≤ 64 ∧
      x.toNat % 2 ^ n = 0 ∧ (n < 64 → x.toNat / 2 ^ n % 2 = 1)) ∧
    (∃ t, exec (.popc rd a) s = .next t ∧
      Result s t rd (BitVec.ofNat 64 ((List.range 64).filter fun i => x.getLsbD i).length) 4)

/-- R81, R17: the immediate group, with the 14-bit immediate and with extension words, and the shifts by an immediate. -/
def Sys2Proof.Claim.ImmediateResult : Prop :=
  (∀ op ∈ immTable, ∀ (rd a : Reg) (i : Imm14) (e : Ext) (s : State),
    (∃ t, exec (op.1 rd a i) s = .next t ∧ Result s t rd (op.2.2 (s.g a) (BitVec.ofInt 64 i.toInt)) 4) ∧
    (∃ t, exec (op.2.1 rd a e) s = .next t ∧ Result s t rd (op.2.2 (s.g a) (extValue e)) (extBytes e))) ∧
  (∀ (rd a : Reg) (n : BitVec 6) (s : State),
    (∃ t, exec (.slli rd a n) s = .next t ∧ Result s t rd (BitVec.ofNat 64 ((s.g a).toNat * 2 ^ n.toNat)) 4) ∧
    (∃ t, exec (.srli rd a n) s = .next t ∧ Result s t rd (BitVec.ofNat 64 ((s.g a).toNat / 2 ^ n.toNat)) 4) ∧
    (∃ t, exec (.srai rd a n) s = .next t ∧ Result s t rd (BitVec.ofInt 64 ((s.g a).toInt / 2 ^ n.toNat)) 4))

/-! Control flow. -/

/-- R83, R23: a branch goes to pc + 4 × offset when its comparison holds and past its words otherwise. -/
def Sys2Proof.Claim.BranchResult : Prop :=
  ∀ op ∈ branchTable, ∀ (a b : Reg) (o : Imm14) (e : BitVec 32) (s : State), let pc := s.ctx.pc
    (∃ t, exec (op.1 a b o) s = .next t ∧ ∃ dest, Went s t 0 0 dest ∧
      (op.2.2 (s.g a) (s.g b) → dest = pc + BitVec.ofInt 64 (4 * o.toInt)) ∧ (¬ op.2.2 (s.g a) (s.g b) → dest = pc + 4)) ∧
    (∃ t, exec (op.2.1 a b e) s = .next t ∧ ∃ dest, Went s t 0 0 dest ∧
      (op.2.2 (s.g a) (s.g b) → dest = pc + BitVec.ofInt 64 (4 * e.toInt)) ∧ (¬ op.2.2 (s.g a) (s.g b) → dest = pc + 8))

/-- R84, R23: J and JAL go to pc + 4 × off24, JAL with pc + 4 in g1; JALR goes to G[rs1] + immediate with NextPC in rd,
the target computed from the value before the link. -/
def Sys2Proof.Claim.JumpResult : Prop :=
  ∀ (rd a : Reg) (o : BitVec 24) (i : Imm14) (e : BitVec 32) (s : State), let pc := s.ctx.pc
    (∃ t, exec (.jmp o) s = .next t ∧ Went s t 0 0 (pc + BitVec.ofInt 64 (4 * o.toInt))) ∧
    (∃ t, exec (.jal o) s = .next t ∧ Went s t 1 (pc + 4) (pc + BitVec.ofInt 64 (4 * o.toInt))) ∧
    (let dest := s.g a + BitVec.ofInt 64 i.toInt
     dest.toNat % 4 = 0 → ∃ t, exec (.jalr rd a i) s = .next t ∧ Went s t rd (pc + 4) dest) ∧
    (let dest := s.g a + BitVec.ofInt 64 e.toInt
     dest.toNat % 4 = 0 → ∃ t, exec (.jalrExt rd a e) s = .next t ∧ Went s t rd (pc + 8) dest)

/-- R23: a JALR to a target that is no multiple of 4 traps with MISALIGN, FADDR the target, and neither the link register
nor any other general register changes. That RETIRED does not change either is the model's reading (log 58). -/
def Sys2Proof.Claim.JumpMisaligned : Prop :=
  ∀ (rd a : Reg) (i : Imm14) (e : BitVec 32) (s : State),
    (let dest := s.g a + BitVec.ofInt 64 i.toInt
     dest.toNat % 4 ≠ 0 → ∃ t, exec (.jalr rd a i) s = .next t ∧ Trapped s t 0x02 (s.ctx.pc &&& ~~~3#64) dest 0) ∧
    (let dest := s.g a + BitVec.ofInt 64 e.toInt
     dest.toNat % 4 ≠ 0 → ∃ t, exec (.jalrExt rd a e) s = .next t ∧ Trapped s t 0x02 (s.ctx.pc &&& ~~~3#64) dest 0)

/-- The conditions of WHEN (R87). -/
def Sys2Proof.Claim.CondHolds (c : Cond) (v : Word) : Prop :=
  match c with
  | .z => v = 0
  | .nz => v ≠ 0
  | .ltz => v.toInt < 0
  | .gez => 0 ≤ v.toInt

/-- A clause header's effect: the clause in progress is the one of the header at the old pc, at its first position. -/
def Sys2Proof.Claim.Opened (s t : State) (k : ClauseKind) (n : BitVec 4) (rem : Word) (len : Nat) : Prop :=
  SameElse s t ∧ SameRest s.ctx t.ctx ∧ Wrote s t 0 0 ∧ t.ctx.retired = s.ctx.retired + 1 ∧
  t.ctx.pc = s.ctx.pc + BitVec.ofNat 64 len ∧ t.ctx.cl.kind = k ∧ t.ctx.cl.hdr = s.ctx.pc ∧ t.ctx.cl.pos = 0 ∧
  t.ctx.cl.count = n.toNat + 1 ∧ t.ctx.cl.body = s.ctx.pc + BitVec.ofNat 64 len ∧ (k = .rpt → t.ctx.cl.rem = rem)

/-- R86, R87, R29: the headers RPT and WHEN open a clause of n + 1 instructions, RPT with its count, WHEN executing or
skipping as its condition holds of the register.
Completes: rpt, rptImm, when. -/
def Obligations.ClauseHeader : Prop :=
  ∀ (a : Reg) (n : BitVec 4) (e : BitVec 32) (c : Cond) (s : State),
    (∃ t, exec (.rpt a n) s = .next t ∧ Opened s t .rpt n (s.g a) 4) ∧
    (∃ t, exec (.rptImm n e) s = .next t ∧ Opened s t .rpt n (BitVec.ofNat 64 e.toNat) 8) ∧
    (∃ t, exec (.when c a n) s = .next t ∧
      (CondHolds c (s.g a) → Opened s t .whenExec n 0 4) ∧ (¬ CondHolds c (s.g a) → Opened s t .whenSkip n 0 4))


/-! Loads and stores. -/

namespace Sys2Proof.Claim

/-- Bytes stored in a byte memory: those from `a` up take the new values and every other address reads as before. -/
def Stored (m m' : List Host.Cell) (a : Nat) (bs : List Byte) : Prop :=
  m' = Mem.write m a bs ∧
  (Mem.wf m = true → ∀ x, Mem.get m' x = if a ≤ x ∧ x < a + bs.length then bs.getD (x - a) 0 else Mem.get m x)

/-- What a plain load of a thread finds at a system address (R160, R164): the bytes as the plot sees them, or those of
the line its data cache holds, which may be older, where the cache serves the address. -/
def cached (s : State) (t spa n : Nat) : List Byte :=
  if s.hostSide spa then s.plotView (t / 8) spa n
  else match (s.plot (t / 8)).dcache.find? fun l => decide (l.line = spa / 64) && decide (s.cycle ≤ l.fill + 4096) with
    | some l => (l.bytes.drop (spa % 64)).take n
    | none => ((s.plotView (t / 8) (spa / 64 * 64) 64).drop (spa % 64)).take n

/-- The address an access of kind `k` of a thread goes to after its private window, when its translation succeeds. -/
def Reaches (s : State) (t : Nat) (a : Word) (k : AccKind) (va : Word) (spa : Nat) : Prop :=
  s.cur = .thread t ∧ a.toNat < 2 ^ 56 ∧ s.ctx.target a = .virt va ∧
  (translate s (.thread t) 0 (s.ctx.tenant.getD 64) s.ctx.asid (s.ctx.priv == .u) va k).1 = .ok spa

/-- Where an aligned load of `n` bytes at `a` succeeds, and the bytes it finds (R156, R159, R160, R242, R309, R348). A
load at the home (`home`) is never served by the cache, and finds none of the lodge control window's registers. -/
def LoadFinds (s : State) (a : Word) (n : Nat) (home : Bool) (bs : List Byte) : Prop :=
  (∃ t o, s.cur = .thread t ∧ a.toNat < 2 ^ 56 ∧ s.ctx.target a = .carve o ∧ bs = Mem.read s.ctx.carveMem o n) ∨
  (∃ t va spa, Reaches s t a .read va spa ∧ s.isLocal spa = true ∧ s.isBad spa n = false ∧
    bs = if home then s.plotView (t / 8) spa n else cached s t spa n) ∨
  (∃ k, s.cur = .lodge k ∧ a.toNat < 0x200000 ∧ (∀ w, w ∈ s.sramBad → a.toNat + n ≤ 8 * w ∨ 8 * w + 8 ≤ a.toNat) ∧
    bs = Mem.read s.sram a.toNat n) ∨
  (∃ k, s.cur = .lodge k ∧ 2 ^ 61 * 7 ≤ a.toNat ∧
    bs = if n = 8 ∧ home = false ∧ a.toNat = 2 ^ 61 * 7 + 8 then leBytes 8 (s.lodge k).lcst.toNat else leBytes n 0) ∨
  ((∃ k, s.cur = .lodge k ∧ 0x200000 ≤ a.toNat ∧ a.toNat < 2 ^ 61 * 7 ∨ s.cur = .assist k) ∧
    mapsMemory a.toNat = true ∧ s.isLocal a.toNat = true ∧ s.isBad a.toNat n = false ∧
    bs = viewOf s (rawParty s.cur) a.toNat n)

/-- What a data access of the issuing context changes beside its own effect: the translations and table entries kept, the
invalidations those must also reach, the party's entries of accesses homed elsewhere, the stores its loads have returned,
and the data caches. Everything else is as before, all of memory included. -/
def AccessFrame (s t : State) : Prop :=
  { t with threads := s.threads, lodges := s.lodges, plots := s.plots, xlats := s.xlats, tabs := s.tabs,
           remotes := s.remotes, invals := s.invals, seen := s.seen } = s ∧
  (∀ a, a ≠ s.cur → t.ctxOf a = s.ctxOf a) ∧
  (∀ k, { t.lodge k with ctx := (s.lodge k).ctx } = s.lodge k) ∧
  (∀ p, { t.plot p with dcache := (s.plot p).dcache, assist := (s.plot p).assist } = s.plot p)

/-- A load's result: `rd` holds the value, no other register differs, and the access changes nothing else. -/
def Loaded (s t : State) (rd : Reg) (v : Word) (len : Nat) : Prop :=
  AccessFrame s t ∧ SameRest s.ctx t.ctx ∧ Wrote s t rd v ∧ Completed s.ctx t.ctx len

/-- The sign-extended and the zero-extended value of `n` bytes, the first the least significant (R2, R169). -/
def signedValue (n : Nat) (bs : List Byte) : Word :=
  BitVec.ofInt 64 (if leNat bs < 2 ^ (8 * n - 1) then leNat bs else (leNat bs : Int) - 2 ^ (8 * n))
def plainValue (_ : Nat) (bs : List Byte) : Word := BitVec.ofNat 64 (leNat bs)

/-- The loads in both lengths, their sizes and their values (R169). -/
def loadTable : List ((Reg → Reg → Imm14 → Instr) × (Reg → Reg → Ext → Instr) × Nat × (Nat → List Byte → Word)) :=
  [(.ldb, .ldbExt, 1, signedValue), (.ldbu, .ldbuExt, 1, plainValue), (.ldh, .ldhExt, 2, signedValue),
   (.ldhu, .ldhuExt, 2, plainValue), (.ldw, .ldwExt, 4, signedValue), (.ldwu, .ldwuExt, 4, plainValue),
   (.ldd, .lddExt, 8, plainValue)]

/-- The stores in both lengths, and their sizes (R170). -/
def storeTable : List ((Reg → Reg → Imm14 → Instr) × (Reg → Reg → Ext → Instr) × Nat) :=
  [(.stb, .stbExt, 1), (.sth, .sthExt, 2), (.stw, .stwExt, 4), (.std, .stdExt, 8)]

/-- The address of a load or store (R24): base plus offset. -/
def offAddr (s : State) (rb : Reg) (i : Int) : Word := s.g rb + BitVec.ofInt 64 i

end Sys2Proof.Claim

/-- R169, R24, R2, R160: a load of an aligned address writes the bytes found there to rd, sign- or zero-extended, and
leaves all of memory and every other register as it was. R160 lets a cached line serve the load; that a line held for no
more than 4,096 cycles does serve it is the model's choice (log 60), and that the plot's own waiting stores are seen is its
reading (log 8).
Completes: ldb, ldbExt, ldbu, ldbuExt, ldh, ldhExt, ldhu, ldhuExt, ldw, ldwExt, ldwu, ldwuExt, ldd, lddExt. -/
def Obligations.LoadResult : Prop :=
  ∀ op ∈ loadTable, ∀ (rd rb : Reg) (i : Imm14) (e : Ext) (s : State) (bs : List Byte),
    (let a := offAddr s rb i.toInt
     a.toNat % op.2.2.1 = 0 → LoadFinds s a op.2.2.1 false bs →
     ∃ t, exec (op.1 rd rb i) s = .next t ∧ Loaded s t rd (op.2.2.2 op.2.2.1 bs) 4) ∧
    (let a := s.g rb + extValue e
     a.toNat % op.2.2.1 = 0 → LoadFinds s a op.2.2.1 false bs →
     ∃ t, exec (op.2.1 rd rb e) s = .next t ∧ Loaded s t rd (op.2.2.2 op.2.2.1 bs) (extBytes e))

/-- What a store of `bs` at `a` does, where it succeeds (R156, R162, R170, R309, R310, log 8): in the carve-out the bytes take
the new values; in memory under translation the store is issued with its bytes and address, last in the order of issue, and no
byte of memory changes yet, and one homed in another package leaves over the links (R385); lodge SRAM outside the journal areas
takes the bytes, the journal areas take nothing; a context that does no translation stores at once in memory homed here, and
issues a store elsewhere (R242). -/
def Sys2Proof.Claim.StoreDoes (s t : State) (a : Word) (bs : List Byte) (len : Nat) : Prop :=
  let d := t.ctx
  let rest := SameRest s.ctx { d with carveMem := s.ctx.carveMem } ∧ d.regs = s.ctx.regs ∧ Completed s.ctx d len
  (∀ k o, s.cur = .thread k → a.toNat < 2 ^ 56 → s.ctx.target a = .carve o →
    rest ∧ SameElse s t ∧ Stored s.ctx.carveMem d.carveMem o bs) ∧
  (∀ k va spa, Reaches s k a .write va spa →
    rest ∧ d.carveMem = s.ctx.carveMem ∧ AccessFrame s { t with pend := s.pend, nextId := s.nextId, flits := s.flits } ∧
    t.nextId = s.nextId + 1 ∧ t.flits = s.flits ++ (if s.isLocal spa then [] else [.store s.nextId spa bs]) ∧
    ∃ pg sz : Nat, pg ≤ va.toNat ∧ va.toNat < pg + sz ∧
      t.pend = s.pend ++ [{ id := s.nextId, party := .thread k, tenant := s.ctx.tenant.getD 64, asid := s.ctx.asid, va := va, spa := spa, bytes := bs, lnch := some s.ctx.lnch, at_ := s.cycle, page := pg, psize := sz }]) ∧
  (∀ k, s.cur = .lodge k → a.toNat < 0x200000 →
    rest ∧ d.carveMem = s.ctx.carveMem ∧ SameElse { s with sram := t.sram, sramBad := t.sramBad } t ∧
    (if a.toNat % 0x100000 < 0x80000 then t.sram = s.sram ∧ t.sramBad = s.sramBad
     else Stored s.sram t.sram a.toNat bs ∧ ∀ w, w ∈ s.sramBad → w ∉ t.sramBad → bs.length = 8 ∧ w = a.toNat / 8)) ∧
  (∀ k, (s.cur = .lodge k ∧ 0x200000 ≤ a.toNat ∨ s.cur = .assist k) → mapsMemory a.toNat = true →
    rest ∧ d.carveMem = s.ctx.carveMem ∧
    (s.isLocal a.toNat = true → Stored s.mem t.mem a.toNat bs ∧
      SameElse { s with mem := t.mem, regions := t.regions, hostHeld := t.hostHeld } t) ∧
    (s.isLocal a.toNat = false → SameElse { s with pend := t.pend, nextId := s.nextId + 1,
                                                               flits := s.flits ++ [.store s.nextId a.toNat bs] } t ∧
      ∃ p, t.pend = s.pend ++ [p] ∧ p.party = rawParty s.cur ∧ p.spa = a.toNat ∧ p.bytes = bs))

/-- Where an aligned store at `a` succeeds. -/
def Sys2Proof.Claim.StoreGoes (s : State) (a : Word) : Prop :=
  (∃ k o, s.cur = .thread k ∧ a.toNat < 2 ^ 56 ∧ s.ctx.target a = .carve o) ∨ (∃ k va spa, Reaches s k a .write va spa) ∨
  (∃ k, s.cur = .lodge k ∧ a.toNat < 0x200000) ∨
  (∃ k, (s.cur = .lodge k ∧ 0x200000 ≤ a.toNat ∨ s.cur = .assist k) ∧ mapsMemory a.toNat = true)

/-- R170, R24: a store of an aligned address stores the low bytes of its register there, and no register changes.
Completes: stb, stbExt, sth, sthExt, stw, stwExt, std, stdExt. -/
def Obligations.StoreEffect : Prop :=
  ∀ op ∈ storeTable, ∀ (rs rb : Reg) (i : Imm14) (e : Ext) (s : State),
    let bs := (List.range op.2.2).map fun j => BitVec.ofNat 8 ((s.g rs).toNat / 256 ^ j)
    (let a := offAddr s rb i.toInt
     a.toNat % op.2.2 = 0 → StoreGoes s a → ∃ t, exec (op.1 rs rb i) s = .next t ∧ StoreDoes s t a bs 4) ∧
    (let a := s.g rb + extValue e
     a.toNat % op.2.2 = 0 → StoreGoes s a → ∃ t, exec (op.2.1 rs rb e) s = .next t ∧ StoreDoes s t a bs (extBytes e))

/-- R171, R24: LDQ loads 16 aligned bytes into an even register and its mate, from the home; with rd = g0 only g1 is
written. -/
def Sys2Proof.Claim.LoadPair : Prop :=
  ∀ (rd rb : Reg) (off : BitVec 13) (es : Bool) (e : Ext) (s : State) (bs : List Byte), rd.toNat % 2 = 0 →
    (let a := offAddr s rb (16 * off.toInt)
     a.toNat % 16 = 0 → LoadFinds s a 16 true bs → ∃ t, exec (.ldq rd rb off es) s = .next t ∧
       AccessFrame s t ∧ SameRest s.ctx t.ctx ∧ Completed s.ctx t.ctx 4 ∧
       ∀ r, t.g r = if r = 0 then 0 else if r = rd then BitVec.ofNat 64 (leNat (bs.take 8)) else
         if r = rd + 1 then BitVec.ofNat 64 (leNat (bs.drop 8)) else s.g r) ∧
    (let a := s.g rb + extValue e
     a.toNat % 16 = 0 → LoadFinds s a 16 true bs → ∃ t, exec (.ldqExt rd rb es e) s = .next t ∧
       AccessFrame s t ∧ SameRest s.ctx t.ctx ∧ Completed s.ctx t.ctx (extBytes e) ∧
       ∀ r, t.g r = if r = 0 then 0 else if r = rd then BitVec.ofNat 64 (leNat (bs.take 8)) else
         if r = rd + 1 then BitVec.ofNat 64 (leNat (bs.drop 8)) else s.g r)

/-- The elements of STQ (R163, R171): two of 8 bytes or four of 4, the even register first. -/
def Sys2Proof.Claim.pairElems (s : State) (rs : Reg) (es : Bool) : List (Nat × List Byte) :=
  let b (r : Reg) (i n : Nat) := (List.range n).map fun j => BitVec.ofNat 8 ((s.g r).toNat / 256 ^ (i + j))
  if es then [(0, b rs 0 8), (8, b (rs + 1) 0 8)]
  else [(0, b rs 0 4), (4, b rs 4 4), (8, b (rs + 1) 0 4), (12, b (rs + 1) 4 4)]

/-- What STQ of a thread does under translation: one store issued for each element, in address order, each
over the links if it is homed in another package. -/
def Sys2Proof.Claim.PairStored (s t : State) (rs : Reg) (es : Bool) (va : Word) (spa len : Nat) : Prop :=
  let els := pairElems s rs es
  SameRest s.ctx t.ctx ∧ t.ctx.regs = s.ctx.regs ∧ Completed s.ctx t.ctx len ∧
  AccessFrame s { t with pend := s.pend, nextId := s.nextId, flits := s.flits } ∧ t.nextId = s.nextId + els.length ∧
  t.flits = s.flits ++ (els.zipIdx.filterMap fun e =>
    if s.isLocal (spa + e.1.1) then none else some (.store (s.nextId + e.2) (spa + e.1.1) e.1.2)) ∧
  t.pend.take s.pend.length = s.pend ∧ t.pend.length = s.pend.length + els.length ∧
  (t.pend.drop s.pend.length).map (fun p => (p.va, p.spa, p.bytes)) =
    els.map fun e => (va + BitVec.ofNat 64 e.1, spa + e.1, e.2)

/-- R171, R163: STQ of 16 aligned bytes, in the carve-out and under a cached translation. -/
def Sys2Proof.Claim.StorePair : Prop :=
  ∀ (rs rb : Reg) (off : BitVec 13) (es : Bool) (e : Ext) (s : State),
    let both (i : Instr) (a : Word) (len : Nat) : Prop := a.toNat % 16 = 0 →
      (∀ k o, s.cur = .thread k → a.toNat < 2 ^ 56 → s.ctx.target a = .carve o → o + 16 ≤ s.ctx.carve →
        o + 16 ≤ 0x1000000 → s.ctx.privbase.toNat + o + 16 ≤ 2 ^ 56 →
        ∃ t, exec i s = .next t ∧ SameElse s t ∧ t.ctx.regs = s.ctx.regs ∧ Completed s.ctx t.ctx len ∧
          Stored s.ctx.carveMem t.ctx.carveMem o ((pairElems s rs es).flatMap fun e => e.2)) ∧
      (∀ k va spa x, s.cur = .thread k → a.toNat < 2 ^ 56 → s.waitsFor (.thread k) (va.toNat / 4096) .write = false →
        (∀ j, j < 16 → s.ctx.target (a + BitVec.ofNat 64 j) = .virt (va + BitVec.ofNat 64 j)) →
        va.toNat + 16 ≤ 2 ^ 56 → va.toNat % 16 = 0 →
        s.fatals = [] → (∀ j, j < 16 → s.xlats.find? (fun x => x.covers (.core (k / 8)) 0 (s.ctx.tenant.getD 64) s.ctx.asid
          (s.ctx.priv == .u) (va.toNat + j) .write) = some x) →
        spa = x.spa + (va.toNat - x.page) →
        ∃ t, exec i s = .next t ∧ PairStored s t rs es va spa len)
    both (.stq rs rb off es) (offAddr s rb (16 * off.toInt)) 4 ∧ both (.stqExt rs rb es e) (s.g rb + extValue e) (extBytes e)


/-- R167, R168: a load, store, LDQ, STQ or WAIT at an address that is not a multiple of its size traps with MISALIGN,
FADDR the address and EINFO the first word, and no general register, no memory and nothing else changes. -/
def Sys2Proof.Claim.MisalignedAccess : Prop :=
  ∀ (rd rb r2 : Reg) (i : Imm14) (e : Ext) (off : BitVec 13) (es : Bool) (s : State),
    let traps (ins : Instr) (a : Word) (n : Nat) : Prop := a.toNat % n ≠ 0 → ∃ t, exec ins s = .next t ∧
      Trapped s t 0x02 (s.ctx.pc &&& ~~~3#64) a ((firstWord ins).zeroExtend 64)
    (∀ op ∈ loadTable, traps (op.1 rd rb i) (offAddr s rb i.toInt) op.2.2.1 ∧
      traps (op.2.1 rd rb e) (s.g rb + extValue e) op.2.2.1) ∧
    (∀ op ∈ storeTable, traps (op.1 rd rb i) (offAddr s rb i.toInt) op.2.2 ∧
      traps (op.2.1 rd rb e) (s.g rb + extValue e) op.2.2) ∧
    traps (.ldq rd rb off es) (offAddr s rb (16 * off.toInt)) 16 ∧ traps (.ldqExt rd rb es e) (s.g rb + extValue e) 16 ∧
    traps (.stq rd rb off es) (offAddr s rb (16 * off.toInt)) 16 ∧ traps (.stqExt rd rb es e) (s.g rb + extValue e) 16 ∧
    traps (.waitLoc rd rb r2) (s.g rb) 8

/-! Tile accesses. -/

/-- The bytes of a tile (R151): rows times the bytes of a row. -/
def Sys2Proof.Claim.tileBytes (t : Tile) : Nat := t.rows * (t.cols * (2 * 2 ^ t.esz) / 8)

/-- The bytes of a tile access (R25). -/
def Sys2Proof.Claim.bytesOf : AccSize → Nat
  | .b => 1 | .h => 2 | .w => 4 | .d => 8

/-- R172, R25, R152: TLD zero-extends the bytes of a READY tile and TST stores the low bytes of its register in it; no
byte outside the tile access changes.
Completes: tld, tldExt, tst, tstExt. -/
def Obligations.TileAccess : Prop :=
  ∀ (r ro : Reg) (h : BitVec 8) (sz : AccSize) (e : BitVec 32) (s : State), s.isThread = true →
    let x := s.tile s.curPlot h.toNat
    let n := bytesOf sz
    let forms (ld st : Instr) (off : Word) (len : Nat) : Prop :=
      x.st = .ready → off.toNat % n = 0 → off.toNat + n ≤ tileBytes x →
      (∃ t, exec ld s = .next t ∧ Result s t r (BitVec.ofNat 64 (leNat (Mem.read x.bytes off.toNat n))) len) ∧
      (∃ t, exec st s = .next t ∧ SameRest s.ctx t.ctx ∧ t.ctx.regs = s.ctx.regs ∧ Completed s.ctx t.ctx len ∧
        SameElse { s with tiles := t.tiles } t ∧ (∀ p g, (p, g) ≠ (s.curPlot, h.toNat) → g < 256 → t.tile p g = s.tile p g) ∧
        { t.tile s.curPlot h.toNat with bytes := x.bytes } = x ∧
        Stored x.bytes (t.tile s.curPlot h.toNat).bytes off.toNat
          ((List.range n).map fun j => BitVec.ofNat 8 ((s.g r).toNat / 256 ^ j)))
    forms (.tld r ro h sz) (.tst r ro h sz) (s.g ro) 4 ∧
    forms (.tldExt r ro h sz e) (.tstExt r ro h sz e) (s.g ro + BitVec.ofInt 64 e.toInt) 8

/-- R172, R168, R397: a tile access of a handle that is FREE or EMPTY, or outside a thread, traps with TILE_STATE; one out
of its tile's range traps with LOADFAULT or STOREFAULT, one not aligned with MISALIGN, FADDR the offset. Each trap's EINFO
holds the first word, the tile's state, bit 35 and the handle. -/
def Sys2Proof.Claim.TileAccessTrap : Prop :=
  ∀ (r ro : Reg) (h : BitVec 8) (sz : AccSize) (e : BitVec 32) (s : State),
    let x := s.tile s.curPlot h.toNat
    let n := bytesOf sz
    let code : TileSt → Nat := fun | .free => 0 | .empty => 1 | .filling => 2 | .ready => 3 | .draining => 4
    let traps (i : Instr) (off : Word) (cause : Nat) : Prop :=
      let info (st : Nat) : Word := BitVec.ofNat 64 ((firstWord i).toNat + st * 2 ^ 32 + 2 ^ 35 + h.toNat * 2 ^ 40)
      let here (c : Nat) (f : Word) (st : Nat) := ∃ t, exec i s = .next t ∧ Trapped s t c (s.ctx.pc &&& ~~~3#64) f (info st)
      (s.isThread = false → here 0x0B 0 0) ∧
      (s.isThread = true → x.st = .free ∨ x.st = .empty → here 0x0B 0 (code x.st)) ∧
      (s.isThread = true → x.st = .ready → off.toNat % n ≠ 0 → here 0x02 off 3) ∧
      (s.isThread = true → x.st = .ready → off.toNat % n = 0 → tileBytes x < off.toNat + n → here cause off 3)
    traps (.tld r ro h sz) (s.g ro) 0x04 ∧ traps (.tst r ro h sz) (s.g ro) 0x05 ∧
    traps (.tldExt r ro h sz e) (s.g ro + BitVec.ofInt 64 e.toInt) 0x04 ∧
    traps (.tstExt r ro h sz e) (s.g ro + BitVec.ofInt 64 e.toInt) 0x05

/-! Atomic operations. -/

namespace Sys2Proof.Claim

/-- The signed value of the low `8 n` bits. -/
def sval (n v : Nat) : Int := if v % 2 ^ (8 * n) < 2 ^ (8 * n - 1) then (v % 2 ^ (8 * n) : Nat) else (v % 2 ^ (8 * n) : Nat) - 2 ^ (8 * n)

/-- The atomic operations with a result, each with what it stores for an old value and an operand of `n` bytes (R173,
Table 7.9). -/
def amoTable : List ((Reg → Reg → Reg → Bool → Bool → AmoOrder → Instr) × (Nat → Nat → Nat → Nat)) :=
  [(.amoAdd, fun n o x => (o + x) % 2 ^ (8 * n)), (.amoAnd, fun _ o x => o &&& x), (.amoOr, fun _ o x => o ||| x),
   (.amoXor, fun _ o x => o ^^^ x), (.amoMin, fun n o x => if sval n x < sval n o then x else o),
   (.amoMax, fun n o x => if sval n o < sval n x then x else o), (.amoMinu, fun _ o x => if x < o then x else o),
   (.amoMaxu, fun _ o x => if o < x then x else o), (.amoSwap, fun _ _ x => x)]

/-- An atomic access of `n` bytes at `a` that finds `old` and stores `new` of it, when `new` says to: in the carve-out; in
memory under translation, after the plot's earlier stores to its bytes; in lodge SRAM outside the journal; in memory
without translation. The release half of its order comes first. `v` is what `rd` takes. -/
def Atomic (s t : State) (a : Word) (n : Nat) (ord : AmoOrder) (new : Nat → Option Nat) (rd : Reg) (v : Nat → Word) : Prop :=
  let put (m m' : List Host.Cell) (x : Nat) :=
    match new (leNat (Mem.read m x n)) with
    | none => m' = m
    | some w => Stored m m' x (leBytes n w)
  let rest := SameRest s.ctx { t.ctx with carveMem := s.ctx.carveMem } ∧ Completed s.ctx t.ctx 4
  let s1 := if ord = .rel ∨ ord = .acqrel then release s else s
  (∀ k o, s.cur = .thread k → s.ctx.target a = .carve o →
    rest ∧ put s.ctx.carveMem t.ctx.carveMem o ∧ Wrote s t rd (v (leNat (Mem.read s.ctx.carveMem o n))) ∧ t.mem = s1.mem) ∧
  (∀ k va spa, Reaches s1 k a .write va spa →
    let m := (drainOver s1 (k / 8) spa n).mem
    rest ∧ t.ctx.carveMem = s.ctx.carveMem ∧ put m t.mem spa ∧ Wrote s t rd (v (leNat (Mem.read m spa n)))) ∧
  (∀ k, s.cur = .lodge k → a.toNat < 0x200000 → 0x80000 ≤ a.toNat % 0x100000 →
    rest ∧ put s.sram t.sram a.toNat ∧ Wrote s t rd (v (leNat (Mem.read s.sram a.toNat n))) ∧ t.mem = s1.mem) ∧
  (∀ k, (s.cur = .lodge k ∧ 0x200000 ≤ a.toNat ∨ s.cur = .assist k) → mapsMemory a.toNat = true →
    rest ∧ put s1.mem t.mem a.toNat ∧ Wrote s t rd (v (leNat (Mem.read s1.mem a.toNat n))))

/-- Where an atomic operation of `n` bytes at `a` succeeds. -/
def AtomicGoes (s : State) (a : Word) (n : Nat) (ord : AmoOrder) : Prop :=
  let s1 := if ord = .rel ∨ ord = .acqrel then release s else s
  a.toNat % n = 0 ∧
  ((∃ k o, s.cur = .thread k ∧ a.toNat < 2 ^ 56 ∧ s.ctx.target a = .carve o) ∨
   (∃ k va spa, Reaches s1 k a .write va spa ∧ s.isLocal spa = true ∧ s.isBad spa n = false) ∨
   (∃ k, s.cur = .lodge k ∧ a.toNat < 0x200000 ∧ 0x80000 ≤ a.toNat % 0x100000 ∧ s.sramBad = []) ∨
   (∃ k, (s.cur = .lodge k ∧ 0x200000 ≤ a.toNat ∨ s.cur = .assist k) ∧ mapsMemory a.toNat = true ∧
     s.isLocal a.toNat = true ∧ s.isBad a.toNat n = false))

/-- Whether the issuing context runs a thread of a reproducible launch (R175). -/
def inRepro (s : State) : Prop := ∃ k, s.cur = .thread k ∧ bitAt (fieldAt (s.slot s.ctx.lnch).record 4 4) 1 = true

end Sys2Proof.Claim

/-- R173, R174: the atomic operations store the operation of the old value and rs2 and, with a result, write the old
value, sign-extended from its size, to rd; without one they change no register. -/
def Sys2Proof.Claim.AmoResult : Prop :=
  ∀ op ∈ amoTable, ∀ (rd rs1 rs2 : Reg) (ret dw : Bool) (ord : AmoOrder) (s : State),
    let n := if dw then 8 else 4
    AtomicGoes s (s.g rs1) n ord → ¬ (inRepro s ∧ ret = true) →
    ∃ t, exec (op.1 rd rs1 rs2 ret dw ord) s = .next t ∧
      Atomic s t (s.g rs1) n ord (fun o => some (op.2 n o ((s.g rs2).toNat % 2 ^ (8 * n)))) (if ret then rd else 0)
        (fun o => BitVec.ofInt 64 (sval n o))

/-- R173: AMOCAS stores rs2 when the old value equals the low bytes of rd, and writes the old value to rd. -/
def Sys2Proof.Claim.CompareAndSwap : Prop :=
  ∀ (rd rs1 rs2 : Reg) (dw : Bool) (ord : AmoOrder) (s : State), let n := if dw then 8 else 4
    AtomicGoes s (s.g rs1) n ord → ¬ inRepro s →
    ∃ t, exec (.amoCas rd rs1 rs2 dw ord) s = .next t ∧
      Atomic s t (s.g rs1) n ord
        (fun o => if o = (s.g rd).toNat % 2 ^ (8 * n) then some ((s.g rs2).toNat % 2 ^ (8 * n)) else none) rd
        (fun o => BitVec.ofInt 64 (sval n o))

/-- R175: in a reproducible launch an atomic operation with a result traps with REPRO and does nothing else. -/
def Sys2Proof.Claim.AmoRepro : Prop :=
  ∀ op ∈ amoTable, ∀ (rd rs1 rs2 : Reg) (dw : Bool) (ord : AmoOrder) (s : State),
    inRepro s → (s.g rs1).toNat % (if dw then 8 else 4) = 0 → (s.g rs1).toNat < 2 ^ 56 →
    (∃ t, exec (op.1 rd rs1 rs2 true dw ord) s = .next t ∧ Trapped s t 0x09 (s.ctx.pc &&& ~~~3#64) 0 0) ∧
    (∃ t, exec (.amoCas rd rs1 rs2 dw ord) s = .next t ∧ Trapped s t 0x09 (s.ctx.pc &&& ~~~3#64) 0 0)

/-- R176, R173: AMOFADD adds in FP32 or FP64 with one rounding to nearest even, without a result; in a reproducible launch
it appends its contribution to the thread's buffer, last in program order, under the ASID it is issued with, where it may
store in its carve-out or in the page it points at, and memory keeps its bytes but for the stores that its release half performs.
Completes: amoFadd. -/
def Obligations.FloatAdd : Prop :=
  ∀ (rs1 rs2 : Reg) (dw : Bool) (ord : AmoOrder) (s : State), let n := if dw then 8 else 4
    let F := if dw then fp64 else fp32
    (AtomicGoes s (s.g rs1) n ord → ¬ inRepro s →
      ∃ t, exec (.amoFadd rs1 rs2 dw ord) s = .next t ∧
        Atomic s t (s.g rs1) n ord (fun o => some (F.round .rne false (Val.add .rne (F.val o)
          (F.val ((s.g rs2).toNat % 2 ^ (8 * n)))) % 2 ^ (8 * n))) 0 (fun _ => 0)) ∧
    (let s1 := if ord = .rel ∨ ord = .acqrel then release s else s
     inRepro s → (s.g rs1).toNat % n = 0 → (s.g rs1).toNat < 2 ^ 56 → s.ctx.fadd.length < 1024 →
     ((∃ o, s.ctx.target (s.g rs1) = .carve o) ∨ ∃ k va spa, Reaches s1 k (s.g rs1) .write va spa) →
      ∃ t, exec (.amoFadd rs1 rs2 dw ord) s = .next t ∧
        (let v := BitVec.ofNat 64 ((s.g rs2).toNat % 2 ^ (8 * n))
         t.ctx.fadd = s.ctx.fadd ++ [{ addr := s.g rs1, size := n, v := v, u := s.ctx.priv == .u, asid := s.ctx.asid,
                                           num := t.nextId - 1 }] ∧ s.nextId < t.nextId) ∧
        t.ctx.regs = s.ctx.regs ∧ SameRest s.ctx { t.ctx with fadd := s.ctx.fadd } ∧ Completed s.ctx t.ctx 4 ∧
        t.mem = s1.mem)


/-! Fences and system instructions. -/

namespace Sys2Proof.Claim

/-- Instruction `i` completes: what it does beside its register and its place in the program makes `s'` of `s`; `rd`
takes `v`. -/
def Does (i : Instr) (s s' : State) (rd : Reg) (v : Word) : Prop := ∃ t, exec i s = .next t ∧ Result s' t rd v 4

/-- Instruction `i` answers a status (R49, R30) and does nothing else. -/
def Answers (i : Instr) (s : State) (rd : Reg) (code : Nat) : Prop := Does i s s rd (BitVec.ofNat 64 code)

/-- The context waits in instruction `i` (R74, R93): its state says so, a limit counts from the cycle the wait began, and
nothing else differs from `s'`. -/
def WaitsIn (i : Instr) (s s' : State) : Prop :=
  ∃ t, exec i s = .next t ∧ SameElse s' t ∧ t.ctx.st = .waiting ∧
    { t.ctx with st := s'.ctx.st, wait := s'.ctx.wait } = s'.ctx ∧
    ∃ w, t.ctx.wait = some w ∧ w.instr = i ∧
      w.start = (match s.ctx.wait with | some u => if u.instr = i then u.start else s.cycle | none => s.cycle)

/-- Whether the limit of a wait has passed: `limit` cycles since it began (R93). -/
abbrev LimitOver (i : Instr) (s : State) (limit : Word) : Prop :=
  limit.toNat ≤ s.cycle - (match s.ctx.wait with | some u => if u.instr = i then u.start else s.cycle | none => s.cycle)

/-- The context has begun to wait in instruction `i`. -/
def Waiting (i : Instr) (s : State) (mark : Nat) : Prop := ∃ w, s.ctx.wait = some w ∧ w.instr = i ∧ w.mark = mark

/-- The context has not begun to wait in instruction `i`. -/
def Fresh (i : Instr) (s : State) : Prop := ∀ w, s.ctx.wait = some w → w.instr ≠ i

end Sys2Proof.Claim

/-- Whether a store precedes a release by thread `h`: it is the thread's, or one of its plot's that a load of the thread
has returned (R166). -/
def Sys2Proof.Claim.Earlier (s : State) (h : Nat) (p : Pend) : Prop := p.party = .thread h ∨ (h, p.id) ∈ s.seen

/-- R177, R162, R160, R166, R385: a fence that releases at a scope beyond the plot performs the stores that precede it and
are homed here; at domain and system scope it completes once no such store awaits another package's acknowledgement, and
not before. One that acquires beyond the plot empties the plot's data cache; kind derived releases and, with no update of
the thread's stores left to apply, completes; kind command and fences at plot scope complete. No register changes. That a
release of die or package scope performs a store at every scope, and waits for no other package, is the model's reading
(log 8).
Completes: fence. -/
def Obligations.FenceEffect : Prop :=
  ∀ (sc : Scope) (k : FenceKind) (s : State) (h : Nat), s.cur = .thread h →
    let drains : Bool := k == .drv || (sc != .plot && (k == .full || k == .rel || k == .ss))
    let drops : Bool := sc != .plot && (k == .full || k == .acq)
    let remote : Prop := (sc = .dom ∨ sc = .sys) ∧ (k = .full ∨ k = .rel ∨ k = .ss) ∧
      ∃ p ∈ s.pend, Earlier s h p ∧ s.isLocal p.spa = false
    (remote → ∃ t, exec (.fence sc k) s = .next t ∧ t.ctx = s.ctx) ∧
    (¬ remote → (k = .drv → (releaseThread s h).regions.all (fun r => r.2.queue.all fun u => u.party != .thread h) = true) →
    ∃ t, exec (.fence sc k) s = .next t ∧ SameRest s.ctx t.ctx ∧ t.ctx.regs = s.ctx.regs ∧ Completed s.ctx t.ctx 4 ∧
      (drains = true → (∀ p ∈ t.pend, Earlier s h p → s.isLocal p.spa = false) ∧ t.mem = (releaseThread s h).mem) ∧
      (drains = false → t.pend = s.pend ∧ t.mem = s.mem) ∧
      (drops = true → (t.plot (h / 8)).dcache = []) ∧
      (drops = false → ∀ p, (t.plot p).dcache = (s.plot p).dcache))

/-- R340, R341, R342, R18: TRAP saves the address after it as EPC and its own as FBYTE, and its operand as EINFO; BRK traps
with its own address as FADDR; an illegal instruction and an instruction that cannot be fetched trap at their address. That none of
them counts in RETIRED is log 58, a reading of the model.
Completes: trap, trapImm, brk, illegal, fetchfault. -/
def Obligations.TrapEntry : Prop :=
  ∀ (a : Reg) (e w : BitVec 32) (f info : Word) (s : State), let pc := s.ctx.pc
    (∃ t, exec (.trap a) s = .next t ∧ Trapped s t 0x07 ((pc + 4) &&& ~~~3#64) 0 (s.g a)) ∧
    (∃ t, exec (.trapImm e) s = .next t ∧ Trapped s t 0x07 ((pc + 8) &&& ~~~3#64) 0 (BitVec.ofNat 64 e.toNat)) ∧
    (∃ t, exec .brk s = .next t ∧ Trapped s t 0x08 (pc &&& ~~~3#64) pc 0) ∧
    (∃ t, exec (.illegal w) s = .next t ∧ Trapped s t 0x01 (pc &&& ~~~3#64) pc (BitVec.ofNat 64 w.toNat)) ∧
    (∃ t, exec (.fetchfault f info) s = .next t ∧ Trapped s t 0x03 (pc &&& ~~~3#64) f info)

/-- R338, R343, R335: an exception in a clause, here BRK's, saves its kind, its header's address, the position of the
instruction, the iterations left and the header, with EPC the instruction's address, and ERET restores it: outside the assist
context, ERET at privilege S or above goes to EPC with the saved privilege, in the clause that CLAUSE, CLREM and CLHDR say, the
next RPT iteration begun where the clause had finished one, and clears the three. A CLAUSE or EPC that no exception leaves is
ILLEGAL.
Completes: eret. -/
def Obligations.ReturnFromTrap : Prop :=
  ∀ (s : State), s.ctx.priv ≠ .u →
    let c := s.ctx
    let kind := c.clause.toNat % 4
    let pos := c.clause.toNat / 2 ^ 56 % 32
    let n := c.clhdr.toNat / 4 % 16 + 1
    let legal := c.epc.toNat % 4 = 0 ∧ c.clause.toNat / 2 ^ 61 = 0 ∧ (kind ≠ 0 → pos ≤ n)
    let back (d : Ctx) : Prop := d.priv = c.pp ∧ d.clause = 0 ∧ d.clrem = 0 ∧ d.clhdr = 0 ∧ d.regs = c.regs ∧
      d.retired = c.retired + 1 ∧ d.epc = c.epc ∧ d.ecause = c.ecause ∧ d.faddr = c.faddr ∧ d.escratch = c.escratch
    (c.cl.kind ≠ .none → ∃ t, exec .brk s = .next t ∧ SameElse s t ∧ t.ctx.epc = c.pc &&& ~~~3#64 ∧
      clauseKindOf (t.ctx.clause.toNat % 4) = c.cl.kind ∧ t.ctx.clause.toNat / 4 % 2 ^ 54 = c.cl.hdr.toNat / 4 % 2 ^ 54 ∧
      t.ctx.clause.toNat / 2 ^ 56 = c.cl.pos % 32 ∧ (c.cl.kind = .rpt → t.ctx.clrem = c.cl.rem) ∧
      t.ctx.clhdr.toNat = c.cl.hdrw.toNat ∧ t.ctx.cl = {}) ∧
    (¬ legal → ∃ t, exec .eret s = .next t ∧
      Trapped s t 0x01 (c.pc &&& ~~~3#64) c.pc (BitVec.ofNat 64 (firstWord .eret).toNat)) ∧
    (legal → (∀ p, s.cur ≠ .assist p) → ∃ t, exec .eret s = .next t ∧ SameElse s t ∧ back t.ctx ∧
      (kind = 0 → t.ctx.pc = c.epc ∧ t.ctx.cl = {}) ∧
      (kind ≠ 0 → pos < n → t.ctx.pc = c.epc ∧ t.ctx.cl.kind = clauseKindOf kind ∧ t.ctx.cl.pos = pos ∧
        t.ctx.cl.count = n ∧ t.ctx.cl.hdr.toNat = c.clause.toNat / 4 % 2 ^ 54 * 4 ∧ (kind = 1 → t.ctx.cl.rem = c.clrem)) ∧
      (kind = 1 → pos = n → 1 < c.clrem.toNat → t.ctx.pc = t.ctx.cl.body ∧ t.ctx.cl.kind = .rpt ∧ t.ctx.cl.pos = 0 ∧
        t.ctx.cl.rem = c.clrem - 1) ∧
      (kind ≠ 0 → pos = n → ¬ (kind = 1 ∧ 1 < c.clrem.toNat) → t.ctx.pc = c.epc ∧ t.ctx.cl = {}))

/-- R93, R95, R94: WAIT returns OK when the 8 bytes differ from rd, BUSY when its limit has passed, and otherwise waits;
NOP does nothing; EXIT ends a thread, and is ILLEGAL where no thread runs (R397).
Completes: waitLoc, exitThread, nop. -/
def Obligations.ThreadControl : Prop :=
  ∀ (rd a b : Reg) (s : State) (bs : List Byte), let i : Instr := .waitLoc rd a b
    ((s.g a).toNat % 8 = 0 → LoadFinds s (s.g a) 8 true bs →
      (BitVec.ofNat 64 (leNat bs) ≠ s.g rd → ∃ t, exec i s = .next t ∧ Loaded s t rd 0 4) ∧
      (BitVec.ofNat 64 (leNat bs) = s.g rd → LimitOver i s (s.g b) → ∃ t, exec i s = .next t ∧ Loaded s t rd 1 4) ∧
      (BitVec.ofNat 64 (leNat bs) = s.g rd → ¬ LimitOver i s (s.g b) →
        ∃ t, exec i s = .next t ∧ AccessFrame s t ∧ t.ctx.st = .waiting ∧ t.ctx.pc = s.ctx.pc ∧ t.ctx.regs = s.ctx.regs)) ∧
    Does .nop s s 0 0 ∧
    (s.isThread = true → ∃ t, exec .exitThread s = .next t ∧ SameElse s t ∧ t.ctx.st = .ending ∧
      t.ctx.retired = s.ctx.retired + 1 ∧ t.ctx.regs = s.ctx.regs ∧ t.ctx.carveMem = s.ctx.carveMem) ∧
    (s.isThread = false → ∃ t, exec .exitThread s = .next t ∧
      Trapped s t 0x01 (s.ctx.pc &&& ~~~3#64) s.ctx.pc (BitVec.ofNat 64 (firstWord .exitThread).toNat))

/-! System registers. -/

namespace Sys2Proof.Claim

/-- A system register as a thread of a tenant meets it: number, the least privilege that reads it, the least that writes
it (none: read-only), its value, and the state after a value is written. Arguments: state, thread id, tenant. -/
structure RegSpec where
  n   : Nat
  rd  : Nat
  wr  : Option Nat := none
  val : State → Nat → Nat → Word
  upd : State → Nat → Nat → Word → State := fun s _ _ _ => s

/-- The thread's own registers (R78, R158, R335, R228, R312). -/
def threadRegs : List RegSpec :=
  [{ n := 0x000, rd := 0, val := fun _ t _ => BitVec.ofNat 64 t },
   { n := 0x001, rd := 0, val := fun _ t _ => BitVec.ofNat 64 (t / 8) },
   { n := 0x002, rd := 0, val := fun _ t _ => BitVec.ofNat 64 (t % 8) },
   { n := 0x003, rd := 0, val := fun s _ _ => BitVec.ofNat 64 s.ctx.lidx },
   { n := 0x006, rd := 0, val := fun s _ _ => BitVec.ofNat 64 s.ctx.nthr },
   { n := 0x007, rd := 0, val := fun s _ _ => BitVec.ofNat 64 s.ctx.lnch },
   { n := 0x008, rd := 0, val := fun s _ _ => s.ctx.retired },
   { n := 0x009, rd := 0, val := fun s _ _ => BitVec.ofNat 64 s.ctx.setcnt },
   { n := 0x010, rd := 0, wr := some 0, val := fun s _ _ => s.ctx.uscratch, upd := fun s _ _ v => s.setCtx { s.ctx with uscratch := v } },
   { n := 0x200, rd := 0, val := fun s _ _ => s.ctx.privbase },
   { n := 0x201, rd := 0, val := fun s _ _ => BitVec.ofNat 64 s.ctx.carve },
   { n := 0x202, rd := 0, val := fun s _ _ => s.ctx.ovfptr },
   { n := 0x203, rd := 0, wr := some 1, val := fun s _ _ => BitVec.ofNat 64 s.ctx.asid,
     upd := fun s _ _ v => s.setCtx { s.ctx with asid := v.toNat % 65536 } },
   { n := 0x204, rd := 0, val := fun _ _ _ => 0x1000000 },
   { n := 0x205, rd := 0, val := fun s t _ => BitVec.ofNat 64 ((s.plot (t / 8)).gfree * 4096) },
   { n := 0x207, rd := 0, val := fun s _ _ => BitVec.ofNat 64 s.ctx.fadd.length },
   { n := 0x216, rd := 1, val := fun s _ _ => if s.ctx.tlbpend then 1 else 0 },
   { n := 0x220, rd := 0, wr := some 0, val := fun s _ _ => s.ctx.nbsel, upd := fun s _ _ v => s.setCtx { s.ctx with nbsel := v &&& 0xFF } },
   { n := 0x300, rd := 0, wr := some 0, val := fun s _ _ => s.ctx.gatesel,
     upd := fun s _ _ v => s.setCtx { s.ctx with gatesel := v &&& 0x7FFF } },
   { n := 0x381, rd := 0, val := fun s _ _ => s.ctx.stageid },
   { n := 0x383, rd := 1, wr := some 1, val := fun s _ _ => s.ctx.qcsel, upd := fun s _ _ v => s.setCtx { s.ctx with qcsel := v &&& 0xF } },
   { n := 0x402, rd := 1, wr := some 1, val := fun s _ _ => s.ctx.epc, upd := fun s _ _ v => s.setCtx { s.ctx with epc := v } },
   { n := 0x403, rd := 1, wr := some 1, val := fun s _ _ => s.ctx.ecause, upd := fun s _ _ v => s.setCtx { s.ctx with ecause := v &&& 0xFF } },
   { n := 0x404, rd := 1, wr := some 1, val := fun s _ _ => s.ctx.faddr, upd := fun s _ _ v => s.setCtx { s.ctx with faddr := v } },
   { n := 0x405, rd := 1, wr := some 1, val := fun s _ _ => s.ctx.fbyte, upd := fun s _ _ v => s.setCtx { s.ctx with fbyte := v } },
   { n := 0x406, rd := 1, wr := some 1, val := fun s _ _ => s.ctx.clause, upd := fun s _ _ v => s.setCtx { s.ctx with clause := v } },
   { n := 0x407, rd := 1, wr := some 1, val := fun s _ _ => s.ctx.escratch, upd := fun s _ _ v => s.setCtx { s.ctx with escratch := v } },
   { n := 0x408, rd := 1, wr := some 1, val := fun s _ _ => s.ctx.einfo, upd := fun s _ _ v => s.setCtx { s.ctx with einfo := v } },
   { n := 0x40A, rd := 1, wr := some 1, val := fun s _ _ => s.ctx.clrem, upd := fun s _ _ v => s.setCtx { s.ctx with clrem := v } },
   { n := 0x40B, rd := 1, wr := some 1, val := fun s _ _ => s.ctx.clhdr, upd := fun s _ _ v => s.setCtx { s.ctx with clhdr := v &&& 0xFFFFFFFF } }]

/-- A tenant's register changed. -/
def onVf (s : State) (v : Nat) (f : Tenant → Tenant) : State := s.setTenant v (f (s.tenant v))

/-- The registers of the thread's tenant and of the package (R257, R312, R335, R369, R391). -/
def tenantRegs : List RegSpec :=
  [{ n := 0x210, rd := 1, wr := some 1, val := fun s _ v => BitVec.ofNat 64 (s.tenant v).asidtab,
     upd := fun s _ v w => onVf s v fun x => { x with asidtab := w.toNat / 2 ^ 19 % 2 ^ 29 * 2 ^ 19 } },
   { n := 0x211, rd := 1, val := fun s _ v => BitVec.ofNat 64 (s.tenant v).pbase },
   { n := 0x212, rd := 1, val := fun s _ v => BitVec.ofNat 64 (s.tenant v).plimit },
   { n := 0x213, rd := 1, wr := some 1, val := fun s _ v => (s.tenant v).prqlog,
     upd := fun s _ v w => onVf s v fun x => { x with prqlog := w &&& 0x0000FFFFFFFFF007 } },
   { n := 0x401, rd := 1, wr := some 1, val := fun s _ v => (s.tenant v).tvec,
     upd := fun s _ v w => onVf s v fun x => { x with tvec := w &&& 0x00FFFFFFFFFFFFFC } },
   { n := 0x409, rd := 1, wr := some 1, val := fun s _ v => BitVec.ofNat 64 (s.tenant v).qstallmax,
     upd := fun s _ v w => onVf s v fun x => { x with qstallmax := max 1 (w.toNat % 2 ^ 32) } },
   { n := 0x414, rd := 1, wr := some 1, val := fun s _ v => (s.tenant v).savecfg,
     upd := fun s _ v w => onVf s v fun x => { x with savecfg := w &&& 0x0000FFFFFFFFFFFF } },
   { n := 0x480, rd := 0, val := fun _ _ v => BitVec.ofNat 64 v },
   { n := 0x481, rd := 1, wr := some 1, val := fun s _ v => (s.tenant v).tokbuf,
     upd := fun s _ v w => onVf s v fun x => { x with tokbuf := w &&& 0x0000FFFFFFFFF000 } },
   { n := 0x482, rd := 1, wr := some 1, val := fun s _ v => (s.tenant v).nonce[0],
     upd := fun s _ v w => onVf s v fun x => { x with nonce := x.nonce.set 0 w } },
   { n := 0x485, rd := 1, wr := some 1, val := fun s _ v => (s.tenant v).nonce[3],
     upd := fun s _ v w => onVf s v fun x => { x with nonce := x.nonce.set 3 w } },
   { n := 0x486, rd := 0, val := fun s _ v => (s.tenant v).tokseq },
   { n := 0x488, rd := 1, wr := some 1, val := fun s _ v => (s.tenant v).fqbase,
     upd := fun s _ v w => onVf s v fun x => { x with fqbase := w &&& 0x0000FFFFFFFFF007 } },
   { n := 0x48A, rd := 1, val := fun s _ v => BitVec.ofNat 64 (s.tenant v).fqlost },
   { n := 0x503, rd := 0, val := fun s t _ => (s.plot (t / 8)).throttle },
   { n := 0x506, rd := 0, val := fun s _ _ => BitVec.ofNat 64 s.locid }]

/-- A register's word from its fields: value, lowest bit, width. -/
def word (fs : List (Nat × Nat × Nat)) : Word := BitVec.ofNat 64 (fs.map fun f => f.1 % 2 ^ f.2.2 * 2 ^ f.2.1).sum

/-- One bit of a register. -/
def bit (b : Bool) : Nat := if b then 1 else 0

/-- Whether a tenant holds plane `k` of plot `p`, the plane that claims port `n`, or the lattice `l` (R109, R140, R202). -/
def ofPlane (s : State) (p v k : Nat) : Bool := s.planeOwner p k == some v
def ofPort (s : State) (p v n : Nat) : Bool := match s.portPlane p n with | some k => ofPlane s p v k | none => false
def ofLat (s : State) (p v l : Nat) : Bool :=
  match s.latPlane p l with | some k => ofPlane s p v k && s.latHolder p l == some v | none => false

/-- A bit for each unit of a die that a tenant holds. -/
def heldMask (held : Nat → Bool) (die : Nat) : Word := word ((List.range 64).map fun i => (bit (held (die * 64 + i)), i, 1))

/-- The registers of the planes, ports, lattices and tiles of the thread's plot (R109, R140, R202, R335). PCELL takes effect
as log 80 says, LSTATE reads as logs 43 and 45 say, and a port that no plane claims reads 0 (log 92). -/
def plotRegs : List RegSpec :=
  (List.range 4).flatMap (fun k =>
    [{ n := 0x100 + k, rd := 0, wr := some 1,
       val := fun s t v => if ofPlane s (t / 8) v k then
         word [((s.plane (t / 8) k).written.1, 0, 12), (bit (s.plane (t / 8) k).written.2, 12, 1)] else 0,
       upd := fun s t v w => if ofPlane s (t / 8) v k then
         let x := s.plane (t / 8) k
         s.setPlane (t / 8) k { x with agelim := (x.opts s.cycle).1, deadtrap := (x.opts s.cycle).2,
                                       nextOpt := (x.nextOpt.filter fun e => decide (s.cycle < e.1 + 8)) ++
                                         [(s.cycle, max 1 (w.toNat % 4096), w.getLsbD 12)] } else s },
     { n := 0x104 + k, rd := 0, val := fun s t v => if ofPlane s (t / 8) v k then (s.plane (t / 8) k).fires else 0 },
     { n := 0x108 + k, rd := 0, val := fun s t v => if ofPlane s (t / 8) v k then (s.plane (t / 8) k).promo else 0 },
     { n := 0x10C + k, rd := 0, val := fun s t v => if ofPlane s (t / 8) v k then (s.plane (t / 8) k).cfault else 0 },
     { n := 0x110 + k, rd := 0, val := fun s t v => if ofPlane s (t / 8) v k then
         let x := s.plane (t / 8) k
         word [(match x.st with | .unconfigured => 0 | .loading => 1 | .configured => 2 | .faulted => 3, 0, 2),
               (bit (s.residentPlane (t / 8) == some k), 2, 1), (x.portmask, 3, 16), (x.latmask, 19, 4)] else 0 },
     { n := 0x410 + k, rd := 0, val := fun s t v => if ofPlane s (t / 8) v k then
         let c := s.cutsOf (s.regionKey (t / 8) k)
         word [(c.lastNum, 0, 16), (if c.active then c.num else 0, 16, 16), (bit c.active, 32, 1), (bit c.exists_, 33, 1),
               (bit c.rolled, 34, 1)] else 0 },
     { n := 0x180 + k, rd := 0, val := fun s t v => if ofLat s (t / 8) v k then
         let x := s.lat (t / 8) k
         word [(latCode s (t / 8) k, 0, 2), (bit x.shadow.isSome, 2, 1), (x.actSlot, 3, 5), (x.actFmt.getD 15, 8, 4),
               ((s.latPlane (t / 8) k).getD 0, 12, 2), (1, 14, 1), (x.binds.length, 15, 3)] else 0 },
     { n := 0x184 + k, rd := 0, val := fun s t v => if ofLat s (t / 8) v k then
         word ((List.range 32).map (fun i => (bit (((s.lat (t / 8) k).slot i).st == .valid), i, 1)) ++
               (List.range 32).map fun i => (bit (((s.lat (t / 8) k).slot i).st == .failed), 32 + i, 1)) else 0 },
     { n := 0x188 + k, rd := 0, val := fun s t v => if ofLat s (t / 8) v k then BitVec.ofNat 64 (s.lat (t / 8) k).free else 0 },
     { n := 0x18C + k, rd := 0, val := fun s t v => if ofLat s (t / 8) v k then (s.lat (t / 8) k).rows else 0 }]) ++
  (List.range 16).flatMap (fun n =>
    [{ n := 0x120 + n, rd := 0, val := fun s t v => if ofPort s (t / 8) v n then
         let x := s.port (t / 8) n
         word [(match x.st with | .idle => 0 | .bound => 1 | .closed => 2 | .faulted => 3, 0, 2),
               ((s.portPlane (t / 8) n).getD 0, 2, 2), (bit x.d.write, 4, 1), (bit x.stalled, 5, 1), (bit x.marker.isSome, 6, 1),
               (x.count.toNat, 32, 32)] else 0 },
     { n := 0x190 + n, rd := 0, val := fun s t v => if ofLat s (t / 8) v (n / 4) then
         let x := s.acc (t / 8) n
         word [(x.renorm, 0, 32), (x.maxshift, 32, 8), (bit x.ovf, 40, 1), (bit x.wide, 41, 1)] else 0 },
     { n := 0x1A0 + n, rd := 0, val := fun s t v => if ofLat s (t / 8) v (n / 4) then
         BitVec.ofNat 64 (s.acc (t / 8) n).trunc else 0 }]) ++
  [{ n := 0x130, rd := 0, val := fun s t _ => word [(((s.plot (t / 8)).cmds.filter fun c => !c.k.signal).length, 0, 5),
       (((s.plot (t / 8)).cmds.filter fun c => c.k.signal).length, 8, 4)] }]

/-- What a write of CUTINT leaves: the value, or one of its range that the manual does not state (R335, log 44). -/
def cutintOf (s : State) (v : Nat) (w : Word) : State :=
  let n := w.toNat % 2 ^ 20
  if 100 ≤ n ∧ n ≤ 1000000 then onVf s v fun x => { x with cutint := n }
  else onVf { s with free := s.free + 1 } v fun x => { x with cutint := 100 + (Config.freeWord s.free).toNat % 999901 }

/-- STATUS: PPRIV takes no level above the current one (R335). -/
def statusReg : RegSpec :=
  { n := 0x400, rd := 0, wr := some 1, val := fun s _ _ => word [(s.ctx.priv.code, 0, 2), (s.ctx.pp.code, 2, 2)],
    upd := fun s _ _ w => s.setCtx { s.ctx with
      pp := match w.toNat / 4 % 4 with | 0 => .u | 1 => if s.ctx.priv = .u then .u else .s | _ => s.ctx.priv } }

/-- The remaining registers that a thread reaches (R78, R158, R202, R228, R257, R289, R312, R321, R335, R347, R369, R391). TIME
and CYCLE are the plot's readings of the package's clocks (log 12); a DBGCTL write acts as log 78 says. -/
def unitRegs : List RegSpec :=
  [{ n := 0x004, rd := 0, val := fun s t _ => BitVec.ofNat 64 (s.timeOn (t / 8)) },
   { n := 0x005, rd := 0, val := fun s t _ => BitVec.ofNat 64 (s.cycleOn (t / 8)) },
   { n := 0x206, rd := 0, val := fun s t v => BitVec.ofNat 64
       (min ((s.tenant v).pinq * 256 - s.pinned (dieOf (t / 8)) (some v)) (32768 - s.pinned (dieOf (t / 8)) none) * 4096) },
   { n := 0x214, rd := 1, wr := some 1, val := fun _ _ _ => 0, upd := fun s t v w => prqResp (releaseThread s t) v w },
   { n := 0x215, rd := 1, val := fun s t v =>
       let l := prqHeld s (dieOf (t / 8)) v
       word [(l.length, 0, 9), ((l.filter fun i => decide (256 ≤ i)).length, 9, 9)] },
   { n := 0x221, rd := 0, wr := some 0,
     val := fun s _ v => if s.mboxHeld s.ctx.nbsel.toNat v then (s.mbox s.ctx.nbsel.toNat).wake else 0,
     upd := fun s _ v w => if s.mboxHeld s.ctx.nbsel.toNat v then
       s.setMbox s.ctx.nbsel.toNat { s.mbox s.ctx.nbsel.toNat with wake := w &&& 0xFFFF } else s },
   { n := 0x222, rd := 0, val := fun s _ v => if s.mboxHeld s.ctx.nbsel.toNat v then
       word [((s.mbox s.ctx.nbsel.toNat).st, 0, 2), ((s.mbox s.ctx.nbsel.toNat).status, 2, 3),
             ((s.mbox s.ctx.nbsel.toNat).rows, 16, 11)] else 0 },
   { n := 0x280, rd := 0, val := fun s _ v => word [(s.regionsOf v, 0, 13), ((s.tenant v).regq, 16, 13)] },
   { n := 0x281, rd := 0, val := fun s _ _ => BitVec.ofNat 64 s.freeStates },
   { n := 0x282, rd := 0, val := fun s t v => BitVec.ofNat 64 (bit (s.derivedPend v (.thread t))) },
   { n := 0x301, rd := 0, val := fun s _ v =>
       let g := s.gate (s.ctx.gatesel.toNat / 32 % 1024) (s.ctx.gatesel.toNat % 32)
       if s.ctx.gatesel.toNat < 2 ^ 15 ∧ s.plotOwner (s.ctx.gatesel.toNat / 32 % 1024) = some v then
         word [(g.arr, 0, 16), ((g.txn % 2 ^ 24).toNat, 16, 24), (bit g.overrun, 40, 1)] else 0 },
   { n := 0x302, rd := 0, val := fun s _ v =>
       let g := s.gate (s.ctx.gatesel.toNat / 32 % 1024) (s.ctx.gatesel.toNat % 32)
       if s.ctx.gatesel.toNat < 2 ^ 15 ∧ s.plotOwner (s.ctx.gatesel.toNat / 32 % 1024) = some v then
         word [(g.phase.toNat, 0, 32), (g.arrinit, 32, 16)] else 0 },
   { n := 0x380, rd := 0, val := fun s _ v => word [((s.tenant v).recFirst, 0, 14), ((s.tenant v).recCount, 14, 15)] },
   { n := 0x382, rd := 1, val := fun s _ v =>
       word [(s.classUse v s.ctx.qcsel.toNat, 0, 16), (s.lmaxOf v s.ctx.qcsel.toNat, 16, 16)] },
   statusReg,
   { n := 0x415, rd := 1, wr := some 1, val := fun s _ v => BitVec.ofNat 64 (s.tenant v).cutint,
     upd := fun s _ v w => cutintOf s v w },
   { n := 0x418, rd := 1, wr := some 1, val := fun s _ v => dbgRead s v,
     upd := fun s _ v w => if w.getLsbD 15 ∧ w.getLsbD 16 then s else dbgWrite s v w },
   { n := 0x483, rd := 1, wr := some 1, val := fun s _ v => (s.tenant v).nonce[1],
     upd := fun s _ v w => onVf s v fun x => { x with nonce := x.nonce.set 1 w } },
   { n := 0x484, rd := 1, wr := some 1, val := fun s _ v => (s.tenant v).nonce[2],
     upd := fun s _ v w => onVf s v fun x => { x with nonce := x.nonce.set 2 w } },
   { n := 0x489, rd := 1, wr := some 1, val := fun s _ v => (s.tenant v).fqtake, upd := fun s _ v w => fqTake s v w },
   { n := 0x48B, rd := 0, val := fun s _ v =>
       word [((s.tenant v).setq, 0, 15), ((s.tenant v).regq, 15, 13), ((s.tenant v).pinq, 28, 8)] },
   { n := 0x48C, rd := 0, val := fun s _ v => BitVec.ofNat 64 (s.sets.filter fun x => x.tenant = v).length },
   { n := 0x500, rd := 0, val := fun s t _ => word [(s.physOf (t / 8), 0, 8), (bit (s.plot (t / 8)).partner.isSome, 8, 1),
       ((s.plot (t / 8)).partner.getD 0, 9, 10)] },
   { n := 0x501, rd := 0, val := fun s _ _ => BitVec.ofNat 64 (min s.repairs.length (2 ^ 32 - 1)) },
   { n := 0x502, rd := 0, val := fun s _ _ => BitVec.ofNat 64 (bit (s.isRepro (some s.ctx.lnch))) },
   { n := 0x504, rd := 1, val := fun s t _ =>
       word [(20 - s.sparesUsed (dieOf (t / 8)), 0, 5), (s.pairsOn (dieOf (t / 8)), 8, 5)] },
   { n := 0x505, rd := 1, val := fun s _ _ => BitVec.ofNat 64 s.pwrcap }] ++
  (List.range 4).flatMap (fun d =>
    [{ n := 0x228 + d, rd := 0, val := fun s _ v => heldMask (fun m => s.mboxHeld m v) d },
     { n := 0x310 + d, rd := 0, val := fun s _ v => heldMask (fun c => s.chanHeld c v) d },
     { n := 0x490 + d, rd := 0, val := fun _ _ _ => BitVec.ofNat 64 (leNat ((devidBytes.drop (8 * d)).take 8)) }]) ++
  (List.range 64).map (fun i =>
    { n := 0x440 + i, rd := 1, wr := some 2, val := fun s t _ => Tbl.getD s.frames (dieOf (t / 8) * 64 + i) 0 })

/-- The registers that a lodge core reaches at L; the second argument is its number (R309, R312, R335, R321, R369). Its clocks are
its own readings (log 12). -/
def lodgeRegs : List RegSpec :=
  [{ n := 0x000, rd := 0, val := fun _ _ _ => 0xFFFF }, { n := 0x001, rd := 0, val := fun _ _ _ => 0xFFFF },
   { n := 0x004, rd := 0, val := fun s k _ => BitVec.ofNat 64 (s.timeOn (640 + k)) },
   { n := 0x005, rd := 0, val := fun s k _ => BitVec.ofNat 64 (s.cycleOn (640 + k)) },
   { n := 0x008, rd := 0, val := fun s _ _ => s.ctx.retired },
   { n := 0x3C0, rd := 2, val := fun s k _ => word [(k, 0, 2),
       (match (s.lodge k).role with | .standby => 0 | .active => 1 | .failed => 2, 2, 2)] },
   { n := 0x3C1, rd := 2, val := fun s _ _ => BitVec.ofNat 64 s.jnext },
   { n := 0x3C2, rd := 2, val := fun s _ _ => BitVec.ofNat 64 s.held.length },
   { n := 0x3C3, rd := 2, val := fun s _ _ => s.lfault },
   { n := 0x3C4, rd := 2, wr := some 2, val := fun s _ _ => s.takevec, upd := fun s _ _ w => { s with takevec := w &&& ~~~3#64 } },
   { n := 0x3C5, rd := 2, wr := some 2, val := fun s k _ => BitVec.ofNat 64 (s.lodge k).lfrsel,
     upd := fun s k _ w => s.setLodge k { s.lodge k with lfrsel := w.toNat % 4 } },
   statusReg,
   { n := 0x401, rd := 1, wr := some 1, val := fun s k _ => (s.lodge k).tvec,
     upd := fun s k _ w => s.setLodge k { s.lodge k with tvec := w &&& 0x00FFFFFFFFFFFFFC } },
   { n := 0x402, rd := 1, wr := some 1, val := fun s _ _ => s.ctx.epc, upd := fun s _ _ v => s.setCtx { s.ctx with epc := v } },
   { n := 0x4A0, rd := 2, val := fun s _ _ => word [(s.scrubs.length, 0, 4), (bit (s.scrubs.any fun q => q.started && !q.cleared), 4, 1)] },
   { n := 0x4A1, rd := 2, val := fun s _ _ => BitVec.ofNat 64 s.scrubLast }] ++
  (List.range 64).map (fun i =>
    { n := 0x440 + i, rd := 1, wr := some 2, val := fun s k _ => Tbl.getD s.frames ((s.lodge k).lfrsel * 64 + i) 0,
      upd := fun s k _ w => { s with frames := Tbl.set s.frames ((s.lodge k).lfrsel * 64 + i) (w &&& frameMaskBits) } })

/-- The registers of an assist context, of its plot's first waiting column (R201, R202); the second argument is the plot. -/
def assistRegs : List RegSpec :=
  [{ n := 0x1B0, rd := 2, val := fun s p _ => match (s.plot p).presented with
       | some r => word [(r.tile, 0, 4), (r.row, 4, 6), (r.col, 10, 6), (1, 16, 1)] | none => 0 },
   { n := 0x1B1, rd := 2, val := fun s p _ => ((s.plot p).presented.map fun r => r.acc).getD (unitless 0x1B1) },
   { n := 0x1B2, rd := 2, val := fun s p _ => ((s.plot p).presented.map fun r => r.a).getD (unitless 0x1B2) },
   { n := 0x1B3, rd := 2, val := fun s p _ => ((s.plot p).presented.map fun r => r.b).getD (unitless 0x1B3) },
   { n := 0x1B4, rd := 2, wr := some 2, val := fun _ _ _ => 0, upd := fun s p _ w => assistResult s p w },
   { n := 0x1B5, rd := 2, val := fun s p _ => (s.plot p).acnt },
   { n := 0x1B6, rd := 2, wr := some 2, val := fun s p _ => (s.plot p).avec,
     upd := fun s p _ w => s.setPlot p { s.plot p with avec := w &&& ~~~3#64 } }]

/-- Numbers that no chapter assigns (R28). -/
def unassigned (n : Nat) : Bool :=
  [(0x00A, 0x00F), (0x011, 0x0FF), (0x114, 0x11F), (0x131, 0x17F), (0x1B7, 0x1FF), (0x208, 0x20F), (0x217, 0x21F),
   (0x223, 0x227), (0x22C, 0x27F), (0x283, 0x2FF), (0x303, 0x30F), (0x314, 0x37F), (0x384, 0x3BF), (0x3C6, 0x3FF),
   (0x40C, 0x40F), (0x416, 0x417), (0x419, 0x43F), (0x487, 0x487), (0x48D, 0x48F), (0x494, 0x49F), (0x4A2, 0x4FF),
   (0x507, 0x7FF)].any fun r => decide (r.1 ≤ n) && decide (n ≤ r.2)

/-- The four instructions on system register `n`, with the value each writes for an old value; CSRS and CSRC with g0
write nothing (R79). -/
def csrForms (rd a : Reg) (n : BitVec 11) (s : State) : List (Instr × Option (Word → Word)) :=
  [(.csrr rd n, none), (.csrw rd a n, some fun _ => s.g a),
   (.csrs rd a n, if a = 0 then none else some fun old => old ||| s.g a),
   (.csrc rd a n, if a = 0 then none else some fun old => old &&& ~~~(s.g a))]

end Sys2Proof.Claim

/-- R79, R78, R109, R140, R158, R202, R228, R257, R289, R312, R335, R369, R391: on a context of sufficient privilege, each of the
four instructions puts the register's old value in rd, and those that write leave in it what the table keeps of the new
value, as one step: the registers a thread reaches, those of a lodge core and those of an assist context. The model's own
choices among them are logs 12, 43, 44, 45, 78, 80 and 92. -/
def Sys2Proof.Claim.SystemRegister : Prop :=
  let works (r : RegSpec) (s : State) (t v : Nat) : Prop := ∀ (rd a : Reg), ∀ f ∈ csrForms rd a (BitVec.ofNat 11 r.n) s,
    (f.2 = none → r.rd ≤ s.ctx.priv.code → Does f.1 s s rd (r.val s t v)) ∧
    (∀ g, f.2 = some g → ∀ p, r.wr = some p → p ≤ s.ctx.priv.code →
      Does f.1 s (r.upd s t v (g (r.val s t v))) rd (r.val s t v))
  (∀ r ∈ threadRegs ++ tenantRegs, ∀ (s : State) (t v : Nat), s.cur = .thread t → s.ctx.tenant = some v → works r s t v) ∧
  (∀ r ∈ plotRegs, ∀ (s : State) (t v : Nat), s.cur = .thread t → s.ctx.tenant = some v → works r s t v) ∧
  (∀ r ∈ unitRegs, ∀ (s : State) (t v : Nat), s.cur = .thread t → s.ctx.tenant = some v → s.ctx.priv ≠ .l → works r s t v) ∧
  (∀ r ∈ lodgeRegs, ∀ (s : State) (k : Nat), s.cur = .lodge k → works r s k 64) ∧
  (∀ r ∈ assistRegs, ∀ (s : State) (p : Nat), s.cur = .assist p → works r s p 64)

/-- R18, R28, R79: an unassigned number and a write of a read-only register are ILLEGAL; an access below the register's
privilege is PRIV. Nothing is read or written. -/
def Sys2Proof.Claim.SystemRegisterRefused : Prop :=
  ∀ (rd a : Reg) (n : BitVec 11) (s : State), ∀ f ∈ csrForms rd a n s,
    let traps (cause : Nat) : Prop := ∃ t, exec f.1 s = .next t ∧
      Trapped s t cause (s.ctx.pc &&& ~~~3#64) s.ctx.pc (BitVec.ofNat 64 (firstWord f.1).toNat)
    (unassigned n.toNat = true → traps 0x01) ∧
    (∀ r ∈ threadRegs ++ tenantRegs ++ plotRegs ++ unitRegs ++ lodgeRegs ++ assistRegs, r.n = n.toNat →
      (f.2 ≠ none → r.wr = none → traps 0x01) ∧
      (f.2 = none → s.ctx.priv.code < r.rd → traps 0x06) ∧
      (∀ p, f.2 ≠ none → r.wr = some p → s.ctx.priv.code < p → traps 0x06))

/-- R18: an instruction of privilege S at U, and one of privilege L below it, traps with PRIV and has none of its effect. -/
def Sys2Proof.Claim.PrivilegeTrap : Prop :=
  ∀ (rd a b : Reg) (s : State),
    let traps (i : Instr) : Prop := ∃ t, exec i s = .next t ∧
      Trapped s t 0x06 (s.ctx.pc &&& ~~~3#64) s.ctx.pc (BitVec.ofNat 64 (firstWord i).toNat)
    (s.ctx.priv = .u → ∀ i ∈ ([.eret, .tlbinv rd a b, .tlbinva rd a, .tlbsync rd a] : List Instr), traps i) ∧
    (s.ctx.priv ≠ .l → ∀ i ∈ ([.kscan rd a, .jrnl rd a, .disp rd a, .chold rd a, .crel rd a, .hbeat rd, .scrub rd a] :
      List Instr), traps i)


/-! Translation. -/

/-- R255, R254: TLBINV posts an invalidation of the pages of one ASID, TLBINVA of an ASID's whole space or of all the
tenant's, to every holder of a translation of the tenant and to the walkers of the four dies, after the stores that
precede it; TLBPEND reads 1. -/
def Sys2Proof.Claim.InvalidationPosted : Prop :=
  ∀ (rd a b : Reg) (s : State) (h : Nat), s.cur = .thread h → s.ctx.priv ≠ .u →
    let posts (i : Instr) (asid : Option Nat) (va len : Nat) : Prop :=
      ∃ t x, exec i s = .next t ∧ Wrote s t rd 0 ∧ Completed s.ctx t.ctx 4 ∧ t.ctx.tlbpend = true ∧
        SameRest s.ctx { t.ctx with tlbpend := s.ctx.tlbpend } ∧ t.mem = (releaseThread s h).mem ∧
        (∀ p ∈ t.pend, Earlier s h p → s.isLocal p.spa = false) ∧ t.xlats = s.xlats ∧ t.invals = s.invals ++ [x] ∧
        x.tid = h ∧ x.tenant = s.ctx.tenant.getD 64 ∧ x.asid = asid ∧ x.va = va ∧ x.len = len ∧
        (∀ y ∈ s.xlats, y.tenant = x.tenant → y.holder ∈ x.todo) ∧ ∀ d, d < 4 → .walkers d ∈ x.todo
    let va := (s.g a).toNat
    let w := (s.g b).toNat
    let one := (s.g a).toNat
    (va % 4096 = 0 → va + 4096 * (w / 65536) ≤ 2 ^ 56 → w < 2 ^ 52 → 0 < w / 65536 →
      posts (.tlbinv rd a b) (some (w % 65536)) va (4096 * (w / 65536))) ∧
    (one < 65536 → posts (.tlbinva rd a) (some one) 0 (2 ^ 56)) ∧
    (one = 65536 → posts (.tlbinva rd a) none 0 0) ∧
    (2 ^ 17 ≤ one → Answers (.tlbinva rd a) s rd 6) ∧ (va % 4096 ≠ 0 → Answers (.tlbinv rd a b) s rd 6)

/-- R256: TLBSYNC returns OK once the thread's invalidations posted before it began have reached every holder and the stores and
remote atomic operations bound under them are performed, with TLBPEND
clear and its plot's data cache empty; BUSY when its limit has passed; otherwise it waits. -/
def Sys2Proof.Claim.InvalidationSync : Prop :=
  ∀ (rd a : Reg) (s : State) (h : Nat), s.cur = .thread h → s.ctx.priv ≠ .u → let i : Instr := .tlbsync rd a
    ∀ m, (Waiting i s m ∨ Fresh i s ∧ m = s.nextId) →
      let mine (x : Inval) : Prop := x.tid = h ∧ x.id < m
      let done := ∀ x ∈ s.invals, mine x → x.todo = [] ∧ ∀ b ∈ x.bound, (∀ p ∈ s.pend, p.id ≠ b) ∧
        ∀ r ∈ s.remotes, r.id = b → r.st ≠ .sent
      (done → ∃ t, exec i s = .next t ∧ Wrote s t rd 0 ∧ Completed s.ctx t.ctx 4 ∧ t.ctx.tlbpend = false ∧
        (t.plot (h / 8)).dcache = [] ∧ t.mem = s.mem ∧ (∀ x, x ∈ t.invals ↔ x ∈ s.invals ∧ ¬ mine x)) ∧
      (¬ done → LimitOver i s (s.g a) → Answers i s rd 1) ∧ (¬ done → ¬ LimitOver i s (s.g a) → WaitsIn i s s)

/-- R255, R252, R160, R162: the events of translation and of the homes. An invalidation that reaches a holder takes from it
every translation it covers, from a die's walkers the table entries it covers too; an answer to a page request, after the stores
that precede it of the thread that writes it, frees its entry, and a FATAL one also leaves the outcome for each of its
requesters, and an answer of another tenant frees nothing; a data-cache line 4,096 cycles old goes; a store performed changes
its bytes and leaves the list of issued stores, and one that must follow another, or whose derived unit has no room (R283),
waits.
Completes: invalidationArrive, dcacheLineExpiry, accessPerformed, prqrespWrite. -/
def Obligations.MemoryEvents : Prop :=
  (∀ (id : Nat) (h : Holder) (s : State) (i : Inval), s.invals.find? (fun x => x.id = id) = some i → h ∈ i.todo →
    ∃ t, exec (.invalidationArrive id h) s = .next t ∧
      { t with xlats := s.xlats, tabs := s.tabs, remotes := s.remotes, invals := s.invals } = s ∧
      (∀ x, x ∈ t.xlats ↔ x ∈ s.xlats ∧ ¬ (x.holder = h ∧ i.covers x.tenant x.asid x.page x.size = true)) ∧
      (∀ x, x ∈ t.tabs ↔ x ∈ s.tabs ∧ ¬ (h = .walkers x.die ∧ i.covers x.tenant x.asid x.page x.size = true))) ∧
  (∀ (h v : Nat) (w : Word) (s : State) (e : Prq), (s.thread h).tenant = some v →
    Tbl.get? s.prqs (w.toNat % 4096) = some e → s.prqWait = [] →
    let s0 := releaseThread s h
    ∃ t, exec (.prqrespWrite h w) s = .next t ∧
      (e.tenant ≠ v → t = s0) ∧
      (e.tenant = v → { t with prqs := s.prqs, fatals := s.fatals } = s0 ∧ t.prqs = Tbl.del s.prqs (w.toNat % 4096) ∧
        t.fatals = s.fatals ++ (if w.getLsbD 12 then e.reqs.map fun r => (r, e.page, e.kind, e.level) else []))) ∧
  (∀ (p l : Nat) (s : State), ∃ t, exec (.dcacheLineExpiry p l) s = .next t ∧
    { t with plots := s.plots } = s ∧ { t.plot p with dcache := (s.plot p).dcache } = s.plot p ∧
    ∀ x, x ∈ (t.plot p).dcache ↔ x ∈ (s.plot p).dcache ∧ ¬ (x.line = l ∧ x.fill + 4096 ≤ s.cycle)) ∧
  (∀ (s : State) (l r : List Pend) (p : Pend), s.pend = l ++ p :: r → s.isLocal p.spa = true →
    (∀ q ∈ l, q.id ≠ p.id ∧ q.ordered p = false) → (∀ q ∈ r, p.id < q.id) → s.derivedFull p = false →
    ∃ t, exec (.accessPerformed p.id) s = .next t ∧ t.pend = l ++ r ∧ Stored s.mem t.mem p.spa p.bytes ∧
      { t with pend := s.pend, mem := s.mem, regions := s.regions, hostHeld := s.hostHeld } = s) ∧
  (∀ (s : State) (p : Pend), s.pend.find? (fun x => x.id = p.id) = some p →
    (∃ q ∈ s.pend, q.id < p.id ∧ q.ordered p = true) ∨ s.derivedFull p = true → exec (.accessPerformed p.id) s = .next s)

/-- R244, R245, R243: a walk of four levels. With the ASID's entry and the three tables' entries pointing on, a 4 KiB leaf whose
permissions allow the access gives the page's address in the partition plus the offset; one that does not gives the fatal
outcome WRITE, EXEC or USER, and an entry whose P is clear asks for the page. The tables are read as the thread's loads see
memory, and the page is cached for the party.
Completes: pageWalk. -/
def Obligations.WalkResult : Prop :=
  ∀ (s : State) (h : Nat) (v asid : Nat) (u : Bool) (va : Word) (k : AccKind) (root t1 t2 t3 e : Nat),
    let x := s.tenant v
    let word (a : Nat) := leNat (s.plotView (h / 8) (x.pbase + a) 8)
    let in_ (a : Nat) := a < x.plimit ∧ s.isLocal (x.pbase + a) = true ∧ s.isBad (x.pbase + a) 8 = false
    let A := va.toNat
    let ptr (w next : Nat) := w = 1 + next ∧ next % 4096 = 0 ∧ next < 2 ^ 48
    (s.thread h).tenant = some v → (s.thread h).asid = asid → ((s.thread h).priv == .u) = u → s.fatals = [] →
    A < 2 ^ 56 → s.xlats.find? (fun y => y.covers (.core (h / 8)) 0 v asid u A k) = none →
    s.waitsFor (.thread h) (A / 4096) k = false → s.tabFor (dieOf (h / 8)) v asid A = none →
    in_ (x.asidtab + 8 * asid) → word (x.asidtab + 8 * asid) = 1 + root → root % 2 ^ 20 = 0 → root < 2 ^ 48 →
    in_ (root + 8 * (A / 2 ^ 39)) → ptr (word (root + 8 * (A / 2 ^ 39))) t1 →
    in_ (t1 + 8 * (A / 2 ^ 30 % 512)) → ptr (word (t1 + 8 * (A / 2 ^ 30 % 512))) t2 →
    in_ (t2 + 8 * (A / 2 ^ 21 % 512)) → ptr (word (t2 + 8 * (A / 2 ^ 21 % 512))) t3 →
    in_ (t3 + 8 * (A / 2 ^ 12 % 512)) → word (t3 + 8 * (A / 2 ^ 12 % 512)) = e →
    let frame := e / 4096 * 4096
    let ans (r : XRes) : Prop := (translate s (.thread h) 0 v asid u va k).1 = r
    (e % 2 = 1 → e / 2 % 2 = 1 → e / 32 % 128 = 0 → e < 2 ^ 48 →
      (k = .write → e / 4 % 2 = 0 → ans (.fatal .write 3)) ∧
      (k = .fetch → e / 8 % 2 = 0 → ans (.fatal .exec 3)) ∧
      ((k = .write → e / 4 % 2 = 1) → (k = .fetch → e / 8 % 2 = 1) → u = true → e / 16 % 2 = 0 → ans (.fatal .user 3)) ∧
      ((k = .write → e / 4 % 2 = 1) → (k = .fetch → e / 8 % 2 = 1) → (u = true → e / 16 % 2 = 1) →
        (x.plimit ≤ frame + A % 4096 → ans (.fatal .bound 3)) ∧
        (frame + A % 4096 < x.plimit → mapsMemory (x.pbase + frame + A % 4096) = true →
          ans (.ok (x.pbase + frame + A % 4096)) ∧
          ∃ t, exec (.pageWalk (.thread h) va k) s = .next t ∧
            { t with xlats := s.xlats, tabs := s.tabs, remotes := s.remotes, invals := s.invals } = s ∧
            ∃ y, y ∈ t.xlats ∧ y.covers (.core (h / 8)) 0 v asid u A k = true ∧ y.spa + (A - y.page) = x.pbase + frame + A % 4096))) ∧
    (e % 2 = 0 → ans .wait ∧ ∃ t, exec (.pageWalk (.thread h) va k) s = .next t ∧ t.xlats = s.xlats ∧
      t.waitsFor (.thread h) (A / 4096) k = true)

/-! Sets. -/

/-- A set of the issuing thread's tenant by key, no phase of which is completing; keys are unique in the states that arise,
and the first counts. -/
def Sys2Proof.Claim.TheSet (s : State) (key : Word) (x : MSet) : Prop :=
  key.toNat < 2 ^ 32 ∧ s.sets.find? (fun y => y.tenant = s.ctx.tenant.getD 64 ∧ y.key = key.toNat) = some x ∧
  x.tenant = s.ctx.tenant.getD 64 ∧ x.key = key.toNat ∧ (0 < x.cur → x.arr ≠ x.cur)

/-- The sets with one put back. -/
def Sys2Proof.Claim.withSet (s : State) (x : MSet) : List MSet :=
  (s.sets.filter fun y => !(y.tenant == x.tenant && y.key == x.key)) ++ [x]

/-- R89, R88: JOIN makes a set with its first member, or adds the thread: at once when nobody has arrived in the phase, as a
pending member of the next phase otherwise. A member that joins again, and a key beyond 32 bits, is BADARG; a thread of 8
sets is NOSPACE; a tenant at its quota is QUOTA. SETCNT counts. -/
def Sys2Proof.Claim.SetJoin : Prop :=
  ∀ (rd a : Reg) (s : State) (h : Nat), s.cur = .thread h → let i : Instr := .join rd a
    let key := s.g a
    let v := s.ctx.tenant.getD 64
    let counted (s' : State) : State := s'.setCtx { s'.ctx with setcnt := s.ctx.setcnt + 1 }
    (2 ^ 32 ≤ key.toNat → Answers i s rd 6) ∧
    (∀ x, TheSet s key x → (∃ m ∈ x.mem, m.tid = h) → Answers i s rd 6) ∧
    (∀ x, TheSet s key x → (∀ m ∈ x.mem, m.tid ≠ h) → s.ctx.setcnt = 8 → Answers i s rd 3) ∧
    (∀ x, TheSet s key x → (∀ m ∈ x.mem, m.tid ≠ h) → s.ctx.setcnt ≠ 8 → 0 < x.cur →
      Does i s (counted { s with sets := withSet s (if x.arr = 0 then
          { x with cur := x.cur + 1, mem := x.mem ++ [{ tid := h, current := true, arrived := false }] } else
          { x with nxt := x.nxt + 1, mem := x.mem ++ [{ tid := h, current := false, arrived := false }] }) }) rd 0) ∧
    (key.toNat < 2 ^ 32 → (∀ y ∈ s.sets, ¬ (y.tenant = v ∧ y.key = key.toNat)) → s.ctx.setcnt ≠ 8 →
      let mine := (s.sets.filter fun y => y.tenant == v).length
      ((s.tenant v).setq ≤ mine → Answers i s rd 2) ∧
      (mine < (s.tenant v).setq → 16384 ≤ s.sets.length → Answers i s rd 3) ∧
      (mine < (s.tenant v).setq → s.sets.length < 16384 →
        Does i s (counted { s with sets := s.sets ++ [{ tenant := v, key := key.toNat, cur := 1, mem := [{ tid := h, current := true, arrived := false }] }] })
          rd 0))

/-- R89, R91, R92: an SBAR that is not the last arrival of its phase arrives, after the thread's earlier stores, and waits; the
last arrival, with no contribution of an arriver left to merge, completes the phase and returns; once the phase has ended a
waiting SBAR returns OK with its plot's data cache empty, and until then it waits on. LEAVE by a current member that completes
no phase arrives and leaves. -/
def Sys2Proof.Claim.SetBarrier : Prop :=
  ∀ (rd a : Reg) (s : State) (h : Nat) (x : MSet), s.cur = .thread h → TheSet s (s.g a) x →
    let i : Instr := .sbar rd a
    (∀ m, Waiting i s m → m < x.phase → ∃ t, exec i s = .next t ∧ Wrote s t rd 0 ∧ Completed s.ctx t.ctx 4 ∧
      (t.plot (h / 8)).dcache = [] ∧ t.mem = s.mem ∧ t.sets = s.sets) ∧
    (∀ m, Waiting i s m → x.phase ≤ m → WaitsIn i s s) ∧
    (Fresh i s → (∀ m ∈ x.mem, m.tid ≠ h) → Answers i s rd 6) ∧
    (∀ m, Fresh i s → x.mem.find? (fun y => y.tid = h) = some m → m.current = true → x.arr + 1 < x.cur →
      ∃ t, exec i s = .next t ∧ t.ctx.st = .waiting ∧ Waiting i t x.phase ∧ t.ctx.regs = s.ctx.regs ∧ t.ctx.pc = s.ctx.pc ∧
        t.mem = (releaseThread s h).mem ∧ t.sets = withSet s
          { x with arr := x.arr + 1, arrivers := x.arrivers ++ [h], mem := x.mem.map fun y => if y.tid = h then { y with arrived := true } else y }) ∧
    (∀ m, Fresh i s → x.mem.find? (fun y => y.tid = h) = some m → m.current = true → x.arr + 1 = x.cur → x.left = 0 →
      x.nxt = 0 → x.nxtarr = 0 → (∀ j ∈ h :: x.arrivers, j < 8192 ∧ (s.thread j).fadd = []) → ∃ t y, exec i s = .next t ∧ Wrote s t rd 0 ∧ t.ctx.retired = s.ctx.retired + 1 ∧
        t.ctx.st ≠ .waiting ∧ TheSet t (s.g a) y ∧ y.phase = x.phase + 1 ∧ y.arr = 0 ∧ y.cur = x.cur) ∧
    ((∀ m ∈ x.mem, m.tid ≠ h) → Answers (.leave rd a) s rd 6) ∧
    (∀ m, x.mem.find? (fun y => y.tid = h) = some m → m.current = true → x.arr + 1 < x.cur →
      ∃ t, exec (.leave rd a) s = .next t ∧ Wrote s t rd 0 ∧ Completed s.ctx t.ctx 4 ∧
        t.ctx.setcnt = s.ctx.setcnt - 1 ∧ t.mem = (releaseThread s h).mem ∧
        t.sets = withSet s
          { x with arr := x.arr + 1, left := x.left + 1, arrivers := x.arrivers ++ [h], mem := x.mem.filter fun y => y.tid ≠ h })


/-! Commands, streams, tiles, rings, gates and channels. -/

namespace Sys2Proof.Claim

/-- A free entry in the command queue of the issuing thread's plot (R141): 24 of the data class, 8 of the signal class. -/
abbrev HasRoom (s : State) (signal : Bool) : Prop :=
  ((s.plot s.curPlot).cmds.filter fun c => c.k.signal == signal).length < if signal then 8 else 24

/-- The command queue with one command more, last, numbered in the order of acceptance (R141). -/
def queued (s : State) (k : CmdKind) : State :=
  let p := s.curPlot
  { s.setPlot p { s.plot p with cmds := (s.plot p).cmds ++ [{ id := s.nextId, tid := s.curTid, asid := s.ctx.asid, tenant := s.ctx.tenant.getD 64, lnch := s.ctx.lnch, k := k }] }
    with nextId := s.nextId + 1 }

/-- What an acquire beyond the plot by thread `h` leaves: its plot's data cache empty (R160), and the cycle as the last at which
it acquired (log 91). -/
def emptied (s : State) (h : Nat) : State :=
  { s.setPlot (h / 8) { s.plot (h / 8) with dcache := [] } with knows := Tbl.set s.knows h s.cycle }

/-- The plane that a tenant holds. -/
abbrev Holds (s : State) (p k : Nat) : Prop := s.planeOwner p k = some (s.ctx.tenant.getD 64)

end Sys2Proof.Claim

/-- R141, R142: a command whose class has no free entry stalls its thread; a thread that has stalled for QSTALLMAX cycles
traps with CMDQ_STALL, at the instruction's next attempt or, unless it is STOPPED (R74), by the event CMDQ_STALL. -/
def Sys2Proof.Claim.CommandStall : Prop :=
  ∀ (rd a : Reg) (re : Bool) (s : State) (h : Nat), s.cur = .thread h →
    let w := (s.g a).toNat
    let p := h / 8
    let i : Instr := .sclose rd a re
    let limit := (s.tenant (s.ctx.tenant.getD 64)).qstallmax
    (w < 2 ^ 18 → Holds s p (w / 65536) → (w % 65536) &&& (s.plane p (w / 65536)).portmask = w % 65536 → ¬ HasRoom s false →
      (s.ctx.stall = none → 0 < limit → exec i s = .next (s.setCtx { s.ctx with stall := some s.cycle })) ∧
      (∀ c, s.ctx.stall = some c → s.cycle - c < limit → exec i s = .next (s.setCtx { s.ctx with stall := some c })) ∧
      (∀ c, s.ctx.stall = some c → limit ≤ s.cycle - c → ∃ t, exec i s = .next t ∧
        Trapped s t 0x0C (s.ctx.pc &&& ~~~3#64) 0 0)) ∧
    (∀ c, s.ctx.stall = some c → s.ctx.st = .running → limit ≤ s.cycle - c → ∃ t, exec (.cmdqStall h) s = .next t ∧
      Trapped s t 0x0C (s.ctx.pc &&& ~~~3#64) 0 0) ∧
    (s.ctx.stall = none ∨ s.ctx.st = .stopped → exec (.cmdqStall h) s = .next s)

/-- R145, R147, R148, R149, R141: SCFG of a legal header makes its plane LOADING with the header's claims and options, SBIND of
a legal descriptor binds an IDLE port, SCLOSE and SMARK take effect at their start; each is accepted with one command.
Completes: sbind, sclose, smark, scfg. -/
def Obligations.StreamAccepted : Prop :=
  ∀ (rd a b : Reg) (re : Bool) (s s1 : State) (d : List Byte) (h : Nat), s.cur = .thread h →
    let p := h / 8
    let v := s.ctx.tenant.getD 64
    let w := (s.g a).toNat
    let sel := (s.g b).toNat
    (w < 2 ^ 18 → Holds s p (w / 65536) → (w % 65536) &&& (s.plane p (w / 65536)).portmask = w % 65536 → HasRoom s false →
      Does (.sclose rd a re) s (queued s (.sclose (w % 65536) (w / 65536) re)) rd 0) ∧
    (let k := w / 65536 % 4
     w % 2 ^ 32 < 2 ^ 18 → w / 2 ^ 32 < 0x8000 → Holds s p k → (w % 65536) &&& (s.plane p k).portmask = w % 65536 →
     (s.cutsOf (s.regionKey p k)).active = false → HasRoom s true →
     (∀ n, n < 16 → bitAt (w % 65536) n = true → (s.port p n).holds = true →
       (s.port p n).d.write = false ∧ (s.port p n).marker = none ∧ smarkQueued s p n = false) →
     Does (.smark rd a) s (queued s (.smark (w % 65536) k (w / 2 ^ 32))) rd 0) ∧
    (let n := sel % 16
     let k := sel / 16 % 4
     sel % 65536 < 64 → sel < 2 ^ 32 → Holds s p k → bitAt (s.plane p k).portmask n = true → (s.plane p k).st = .configured →
     (s.g a).toNat % 8 = 0 → loadWords s (s.g a) 8 [] = (.ok d, s1) → sdescOk d = true → (s1.port p n).st = .idle →
     HasRoom s1 false →
     Does (.sbind rd a b) s (queued (s1.setPort p n
         { st := .bound, plane := k, desc := d, after := afterOf s1 p n (sel / 65536), serial := s1.nextId, tid := h, asid := s1.ctx.asid, lnch := s1.ctx.lnch, hor := (s1.port p n).hor, ackq := (s1.port p n).ackq })
       (.sbind n k (sel / 65536) d)) rd 0) ∧
    (let k := sel
     sel < 4 → Holds s p k → (s.g a).toNat % 64 = 0 → dataLoad s (s.g a) 64 false = (.ok d, s1) → hdrOk s1 p v d = true →
     (s1.plane p k).st ≠ .loading → portsBusy s1 p k = false → claimsClash s1 p k d = false → HasRoom s1 false →
     ∃ t, exec (.scfg rd a b) s = .next t ∧ Wrote s t rd 0 ∧ Completed s.ctx t.ctx 4 ∧
       (let x := t.plane p k
        x.st = .loading ∧ x.portmask = leNat ((d.drop 8).take 2) ∧ x.latmask = leNat ((d.drop 10).take 1) % 16 ∧
        x.agelim = leNat ((d.drop 4).take 4) % 4096 ∧ x.deadtrap = bitAt (leNat ((d.drop 4).take 4)) 12 ∧
        x.e4nan = bitAt (leNat ((d.drop 4).take 4)) 13 ∧ x.image = s.g a ∧ x.asid = s.ctx.asid ∧ x.lnch = some s.ctx.lnch) ∧
       (∀ c, c < 16 → t.cell p k c = {}) ∧
       ((t.plot p).cmds.getLast?.map fun c => (c.tid, c.k)) = some (h, .scfg k (s.g a) d))

/-- R150, R146: SWAIT returns OK, with an acquire at the stream's scope, when its port is IDLE, DENIED when it is FAULTED or its
plane is not held, BUSY when its limit has passed, and waits otherwise; that both the plane named and the one that claims the
port must be held is the model's reading (log 53). CBAR completes once no command of its thread is left. -/
def Sys2Proof.Claim.StreamWait : Prop :=
  ∀ (rd a b : Reg) (s : State) (h : Nat), s.cur = .thread h →
    let p := h / 8
    let sel := (s.g a).toNat
    let x := s.port p (sel % 16)
    let i : Instr := .swait rd a b
    let left := ∃ c ∈ (s.plot p).cmds ++ (s.plot p).inflight ++ (s.plot p).mops, c.tid = h
    (64 ≤ sel → Answers i s rd 6) ∧ (sel < 64 → ¬ Holds s p (sel / 16) → Answers i s rd 4) ∧
    (∀ j, sel < 64 → s.portPlane p (sel % 16) = some j → ¬ Holds s p j → Answers i s rd 4) ∧
    (sel < 64 → Holds s p (sel / 16) → (∀ j, s.portPlane p (sel % 16) = some j → Holds s p j) →
      (x.st = .faulted → Answers i s rd 4) ∧
      (x.st = .idle → Does i s (if x.d.scope = 0 then s else emptied s h) rd 0) ∧
      (x.st = .bound ∨ x.st = .closed → LimitOver i s (s.g b) → Answers i s rd 1) ∧
      (x.st = .bound ∨ x.st = .closed → ¬ LimitOver i s (s.g b) → WaitsIn i s s)) ∧
    (¬ left → Does .cbar s s 0 0) ∧ (left → WaitsIn .cbar s s)

/-- R179, R180, R154, R155: TALLOC of a legal geometry gives the handle its tile and takes its granules, QUOTA and NOSPACE
where they do not suffice; TFREE of a tile that nothing references makes it FREE and its granules go to zeroing. -/
def Sys2Proof.Claim.TileAllocation : Prop :=
  ∀ (rd a b : Reg) (s : State) (h : Nat), s.cur = .thread h →
    let p := h / 8
    let n := (s.g a).toNat
    let w := (s.g b).toNat
    let t : Tile := { st := if bitAt w 37 then .ready else .empty, level := w / 2 ^ 35 % 4, esz := w / 2 ^ 32 % 8, rows := w % 65536 + 1, cols := w / 65536 % 65536 + 1 }
    let size := tileBytes t
    let g := (size + 4095) / 4096
    let x := s.plot p
    let i : Instr := .talloc rd a b
    (n < 256 → w < 2 ^ 38 → t.esz ≤ 5 → t.cols * (2 * 2 ^ t.esz) % 64 = 0 → (s.tile p n).st = .free →
      (t.level = 0 → size ≤ 0x600000 → g ≤ x.gfree → Does i s ((s.setPlot p { x with gfree := x.gfree - g }).setTile p n t) rd 0) ∧
      (t.level = 0 → size ≤ 0x600000 → x.gfree < g → Answers i s rd (if g ≤ x.gfree + x.gzero then 1 else 3)) ∧
      (let v := s.ctx.tenant.getD 64
       let quota := (s.tenant v).pinq * 256
       t.level = 1 → size ≤ 0x4000000 →
        (quota < s.pinned (dieOf p) (some v) + g → Answers i s rd 2) ∧
        (s.pinned (dieOf p) (some v) + g ≤ quota → 32768 < s.pinned (dieOf p) none + g → Answers i s rd 3) ∧
        (s.pinned (dieOf p) (some v) + g ≤ quota → s.pinned (dieOf p) none + g ≤ 32768 → Does i s (s.setTile p n t) rd 0))) ∧
    (n < 256 → let y := s.tile p n
      (y.st = .empty ∨ y.st = .ready → s.referenced p n = false →
        Does (.tfree rd a) s ((s.setPlot p (if y.level = 0 then { x with gzero := x.gzero + (tileBytes y + 4095) / 4096 }
          else { x with gzero1 := x.gzero1 + (tileBytes y + 4095) / 4096 })).setTile p n {}) rd 0) ∧
      (y.st = .filling ∨ y.st = .draining ∨ (y.st ≠ .free ∧ s.referenced p n = true) → Answers (.tfree rd a) s rd 1) ∧
      (y.st = .free → Answers (.tfree rd a) s rd 6))

/-- R181, R182, R183, R184: TFILL makes an EMPTY or READY tile FILLING and TDRAIN a READY one DRAINING, each clearing ERR, with one
command; TSTAT reads the state word; TWAIT returns OK when the tile is READY, DENIED when ERR is set, BUSY at its limit. -/
def Sys2Proof.Claim.TileCommands : Prop :=
  ∀ (rd a b : Reg) (s : State) (h : Nat), s.cur = .thread h →
    let p := h / 8
    let n := (s.g a).toNat
    let x := s.tile p n
    let va := s.g b
    let code : TileSt → Nat := fun | .free => 0 | .empty => 1 | .filling => 2 | .ready => 3 | .draining => 4
    n < 256 →
    (va.toNat % 8 = 0 → va.toNat < 2 ^ 56 → HasRoom s false →
      (x.st = .empty ∨ x.st = .ready →
        Does (.tfill rd a b) s (queued (s.setTile p n { x with st := .filling, err := false }) (.tfill n va)) rd 0) ∧
      (x.st = .ready →
        Does (.tdrain rd a b) s (queued (s.setTile p n { x with st := .draining, err := false }) (.tdrain n va)) rd 0) ∧
      (x.st = .filling ∨ x.st = .draining → Answers (.tfill rd a b) s rd 1 ∧ Answers (.tdrain rd a b) s rd 1) ∧
      (x.st = .free → Answers (.tfill rd a b) s rd 6) ∧ (x.st = .free ∨ x.st = .empty → Answers (.tdrain rd a b) s rd 6)) ∧
    Does (.tstat rd a) s s rd (if x.st = .free then 0 else BitVec.ofNat 64 (code x.st + (if x.err then 8 else 0) + x.level * 16 +
      x.esz * 32 + (x.rows - 1) * 2 ^ 8 + (x.cols - 1) * 2 ^ 24 + (if s.referenced p n then 2 ^ 40 else 0))) ∧
    (let i : Instr := .twait rd a b
     (x.st = .free → Answers i s rd 6) ∧ (x.st ≠ .free → x.err = true → Answers i s rd 4) ∧
     (x.st = .ready → x.err = false → Does i s (emptied s h) rd 0) ∧
     (x.st ≠ .free → x.st ≠ .ready → x.err = false → LimitOver i s (s.g b) → Answers i s rd 1) ∧
     (x.st ≠ .free → x.st ≠ .ready → x.err = false → ¬ LimitOver i s (s.g b) → WaitsIn i s s))

/-- R230, R231, R232, R233: RINIT makes a ring of EMPTY unreferenced tiles ACTIVE, or with END makes an ACTIVE one UNINIT; RAWAIT
returns OK once more slots are filled than its operand, with an acquire; RREL is accepted while a filled slot is left
to release; RPEEK reads the state word. -/
def Sys2Proof.Claim.RingInstructions : Prop :=
  ∀ (rd a b : Reg) (s : State) (h : Nat), s.cur = .thread h →
    let p := h / 8
    let v := s.ctx.tenant.getD 64
    let w := (s.g a).toNat
    let r := w % 16
    let g := s.ring p r
    (let k := w / 16 % 4
     let h0 := w / 256 % 256
     let ns := w / 2 ^ 16 % 32 + 1
     let fan := w / 2 ^ 21 % 16 + 1
     let mask := (s.g b).toNat
     w < 2 ^ 25 → bitAt w 7 = false → mask < 2 ^ 16 → Holds s p k → (s.plane p k).st = .configured →
      (bitAt w 6 = false → g.active = false → h0 + ns ≤ 256 → ((List.range 16).filter fun i => bitAt mask i).length ≤ fan →
        mask &&& (s.plane p k).portmask = mask →
        (∀ j, j < ns → (s.tile p (h0 + j)).st = .empty ∧ s.referenced p (h0 + j) = false) →
        Does (.rinit rd a b) s (s.setRing p r { active := true, plane := k, h0 := h0, ns := ns, fan := fan, pmask := mask }) rd 0) ∧
      (bitAt w 6 = true → s.ringHeld p r v = true → ringBusy s p r = false →
        Does (.rinit rd a b) s { s with rings := Tbl.del s.rings (p * 16 + r) } rd 0)) ∧
    (let i : Instr := .rawait rd a b
     let j := w / 16
     w < 2 ^ 9 → s.ringHeld p r v = true → j < g.ns →
      (j < g.filled → Does i s (emptied s h) rd 0) ∧
      (g.filled ≤ j → LimitOver i s (s.g b) → Answers i s rd 1) ∧
      (g.filled ≤ j → ¬ LimitOver i s (s.g b) → WaitsIn i s s)) ∧
    (w < 16 → s.ringHeld p r v = true →
      (s.rrelsOf p r < g.filled → HasRoom s true → Does (.rrel rd a) s (queued s (.rrel r)) rd 0) ∧
      (g.filled ≤ s.rrelsOf p r → Answers (.rrel rd a) s rd 6)) ∧
    (w < 16 → Does (.rpeek rd a) s s rd (if s.ringHeld p r v then
      BitVec.ofNat 64 (1 + g.plane * 4 + g.h0 * 2 ^ 4 + (g.ns - 1) * 2 ^ 12 + g.rc % g.ns * 2 ^ 17 + g.filled * 2 ^ 22 +
        (g.fan - 1) * 2 ^ 28 + g.pmask * 2 ^ 32 + g.marks.length * 2 ^ 48) else 0))

/-- R234, R235, R236, R237, R220: GINIT gives a gate its arrival count and releases the GWAITs that wait there for another
phase than 0; GARR is accepted as a command; GEXP adds to ARR or TXN at
acceptance, and traps with EXPECT_RANGE where the sum leaves its range; GWAIT returns OK, with an acquire, once PHASE
differs from its operand or an advance has released it. A gate that is not held or not initialised is DENIED. -/
def Sys2Proof.Claim.GateInstructions : Prop :=
  ∀ (rd a b : Reg) (arr : Bool) (s : State) (h : Nat), s.cur = .thread h →
    let sel := (s.g a).toNat
    let q := sel / 32
    let j := sel % 32
    let n := (s.g b).toNat
    let x := s.gate q j
    let held := s.plotOwner q = some (s.ctx.tenant.getD 64)
    sel < 2 ^ 15 →
    (¬ held → (0 < n → n < 2 ^ 16 → Answers (.ginit rd a b) s rd 4) ∧ Answers (.garr rd a) s rd 4 ∧
      (n < 65536 → Answers (.gexp rd a b arr) s rd 4) ∧
      (n < 2 ^ 32 → ¬ Waiting (.gwait rd a b) s 1 → Answers (.gwait rd a b) s rd 4)) ∧
    (held → x.arrinit = 0 → Answers (.garr rd a) s rd 4) ∧
    (Waiting (.gwait rd a b) s 1 → Does (.gwait rd a b) s (emptied s h) rd 0) ∧
    (held → (s.plot q).resident = true → x.due = false →
      (0 < n → n < 2 ^ 16 → Does (.ginit rd a b) s (releaseGwaits (s.setGate q j { arrinit := n, arr := n }) q j 0) rd 0) ∧
      (x.arrinit ≠ 0 → HasRoom s true → Does (.garr rd a) s (queued s (.garr sel)) rd 0) ∧
      (x.arrinit ≠ 0 → n ≤ (if arr then 65535 else 8388607) → HasRoom s true →
        let y : Gate := if arr then { x with arr := x.arr + n } else { x with txn := x.txn + n }
        let inRange := if arr then x.arr + n ≤ 65535 else x.txn + n ≤ 8388607
        (inRange → y.arr ≠ 0 ∨ y.txn ≠ 0 → Does (.gexp rd a b arr) s (queued (s.setGate q j y) (.gexp sel)) rd 0) ∧
        (¬ inRange → ∃ t, exec (.gexp rd a b arr) s = .next t ∧ Trapped s t 0x0A (s.ctx.pc &&& ~~~3#64) 0
          (BitVec.ofNat 64 (firstWord (.gexp rd a b arr)).toNat))) ∧
      (x.arrinit ≠ 0 → n < 2 ^ 32 →
        (x.phase.toNat ≠ n → Does (.gwait rd a b) s (emptied s h) rd 0) ∧
        (x.phase.toNat = n → ¬ Waiting (.gwait rd a b) s 1 → WaitsIn (.gwait rd a b) s s)))

/-- R238, R239, R240: CKICK of an IDLE channel of the tenant is accepted; CSTAT reads the channel's state word; CSTOP abandons
the record in progress and, with no store of the channel left to perform, makes the channel IDLE; one that waits returns once
its channel is IDLE. -/
def Sys2Proof.Claim.CopyInstructions : Prop :=
  ∀ (rd a b : Reg) (s : State) (h v : Nat), s.cur = .thread h → s.ctx.tenant = some v → v < 64 →
    let c := (s.g a).toNat
    let x := s.chan c
    let mine := x.scrubbing = false ∧ x.owner = some v
    let head := s.g b
    (c < 256 → mine → head.toNat % 64 = 0 → head.toNat < 2 ^ 56 →
      (x.st = 0 → s.kickQueued c = false → HasRoom s false → Does (.ckick rd a b) s (queued s (.ckick c head)) rd 0) ∧
      (x.st ≠ 0 ∨ s.kickQueued c = true → Answers (.ckick rd a b) s rd 1)) ∧
    (c < 256 → mine → Does (.cstat rd a) s s rd (BitVec.ofNat 64 (x.st + (if x.stalled then 4 else 0) + (if x.unowned then 8 else 0) +
      (if x.invalid then 16 else 0) + x.cur.toNat / 64 % 2 ^ 50 * 64))) ∧
    (256 ≤ c → Does (.cstat rd a) s s rd (BitVec.ofInt 64 (-1)) ∧ Answers (.ckick rd a b) s rd 6 ∧ Answers (.cstop rd a) s rd 6) ∧
    (c < 256 → mine → Fresh (.cstop rd a) s → (∀ p ∈ s.pend, p.party ≠ .chan c) → ∃ t, exec (.cstop rd a) s = .next t ∧ Wrote s t rd 0 ∧
      Completed s.ctx t.ctx 4 ∧ t.mem = s.mem ∧ t.pend = s.pend ∧ (t.plot (h / 8)).dcache = [] ∧
      t.chan c = { x with st := 0, recRun := false, waitSlot := false, held := false, marked := false, counted := false, lost := false, stalled := false, invalid := false, stopping := false }) ∧
    (∀ m, c < 256 → mine → Waiting (.cstop rd a) s m → x.stopping = false → Does (.cstop rd a) s (emptied s h) rd 0) ∧
    (c < 256 → mine → Fresh (.cstop rd a) s → (∃ p ∈ s.pend, p.party = .chan c) → ∃ t, exec (.cstop rd a) s = .next t ∧ t.ctx.st = .waiting ∧
      (t.chan c).recRun = false ∧ (t.chan c).stopping = true ∧ t.pend = s.pend)


/-! Cells. -/

namespace Sys2Proof.Claim

/-- The event is a cycle in which the picker chooses the rule of a slot, and the rule has one beat (R107): the cell acts, no
rule is fired, no result is on its way, and the slot holds the rule. -/
abbrev Fires (s : State) (r : RuleAt) (t : Trigger) (o : OpWord) : Prop :=
  let x := s.cell r.plot r.plane r.cell
  r.plane < 4 ∧ r.cell < 16 ∧ cellActs s r.plot r.plane r.cell = true ∧ x.run = none ∧ x.land_ = [] ∧ x.ruleAt r.slot = some (t, o) ∧ t.nm1 = 0 ∧
  pickOf (s.plane r.plot r.plane) s.cycle r.cell x = .fire r.slot

/-- What an event of a cell leaves as it was: everything but its plane and its cell. -/
def CellOnly (s t : State) (p k c : Nat) : Prop :=
  { t with planes := s.planes, cells := s.cells } = s ∧ (∀ q j, j < 4 → (q, j) ≠ (p, k) → t.plane q j = s.plane q j) ∧
  (∀ q j d, j < 4 → d < 16 → (q, j, d) ≠ (p, k, c) → t.cell q j d = s.cell q j d)

/-- The rule has fired: FIRES counts it, the cell has acted in this cycle, and `l` is on its way. -/
def Fired (s t : State) (r : RuleAt) (l : List Landing) : Prop :=
  CellOnly s t r.plot r.plane r.cell ∧ (t.cell r.plot r.plane r.cell).land_ = l ∧
  (t.cell r.plot r.plane r.cell).last = some s.cycle ∧
  (t.plane r.plot r.plane).fires = (s.plane r.plot r.plane).fires + 1

/-- The rule's event puts one result on its way, readable `lat` cycles after the beat began (R106); one for a predicate clears
its pending bit only when the rule set it, its latency being greater than 1 (R101). -/
def Lands (i : RuleAt → Instr) (s : State) (r : RuleAt) (lat : Nat) (dst : ResDst) (v : Word) (isPred : Bool) : Prop :=
  let long := match dst with | .pred _ => decide (1 < lat) | _ => false
  ∃ t, exec (i r) s = .next t ∧ Fired s t r [{ at_ := s.cycle + lat, dst := dst, v := v, isPred := isPred, long := long }]

/-- The value of register `n` of the rule's cell. -/
def regOf (s : State) (r : RuleAt) (n : Nat) : Word := ((s.cell r.plot r.plane r.cell).reg n).v

/-- Lane `i` of width `w`, and a value of lanes (R50). -/
def lane (w i : Nat) (v : Word) : Nat := v.toNat / 2 ^ (w * i) % 2 ^ w
def ofLanes (w : Nat) (f : Nat → Nat) : Word := BitVec.ofNat 64 (((List.range (64 / w)).map fun i => f i % 2 ^ w * 2 ^ (w * i)).sum)

/-- Latencies of one beat (Table 5.3): integer and moves 1, floating 4, special functions 12, or 15 in FP64. -/
def one (_ : Nat) : Nat := 1
def four (_ : Nat) : Nat := 4
def special (fmt : Nat) : Nat := if fmt = 2 then 15 else 12

/-- An integer lane: wrapped, or saturated when RM is 1 (R114). -/
def wrapSat (w rm : Nat) (k : Int) : Nat :=
  let lo : Int := -(2 ^ (w - 1))
  let hi : Int := 2 ^ (w - 1) - 1
  ((if rm = 1 then (if k < lo then lo else if hi < k then hi else k) else k) % 2 ^ w).toNat

/-- The integer operations on lanes of width `w` (R114). -/
def IntOp (op : (RuleAt → Instr) × CellOp × (Nat → Nat → Nat → Nat → Nat)) : Prop := op ∈
  ([(.cellAdd, .add, fun w rm a b => wrapSat w rm (signedOf w a + signedOf w b)),
   (.cellSub, .sub, fun w rm a b => wrapSat w rm (signedOf w a - signedOf w b)),
   (.cellMul, .mul, fun w rm a b => wrapSat w rm (signedOf w a * signedOf w b)),
   (.cellAnd, .and, fun _ _ a b => a &&& b), (.cellOr, .or, fun _ _ a b => a ||| b), (.cellXor, .xor, fun _ _ a b => a ^^^ b),
   (.cellShl, .shl, fun w rm a b => wrapSat w rm (signedOf w a * 2 ^ (b % (if w = 64 then 64 else 32)))),
   (.cellShr, .shr, fun w _ a b => a / 2 ^ (b % (if w = 64 then 64 else 32))),
   (.cellSar, .sar, fun w _ a b => wrapSat w 0 (signedOf w a / 2 ^ (b % (if w = 64 then 64 else 32)))),
   (.cellMin, .min, fun w _ a b => if signedOf w b < signedOf w a then b else a),
   (.cellMax, .max, fun w _ a b => if signedOf w a < signedOf w b then b else a),
   (.cellAbs, .abs, fun w rm a _ => wrapSat w rm (if signedOf w a < 0 then -signedOf w a else signedOf w a)),
   (.cellNeg, .neg, fun w rm a _ => wrapSat w rm (-signedOf w a))] : List _)

/-- The lesser or the greater of two floating lanes: NaN where one is NaN, -0 below +0 (R116). -/
def minmax (F : FFmt) (a b : Nat) (less : Bool) : Nat :=
  match F.val a, F.val b with
  | .nan, _ => F.nan
  | _, .nan => F.nan
  | x, y => if less then (if y.below x then b else a) else (if x.below y then b else a)

/-- The floating operations, each with its latency and its lane of `a`, `b` and the destination's `d`, in format `F` under
rounding `m` (R116, R120). -/
def FloatOp (op : (RuleAt → Instr) × CellOp × (Nat → Nat) × (FFmt → Nat → Bool → Nat → Nat → Nat → Nat)) : Prop := op ∈
  ([(.cellFadd, .fadd, four, fun F m e a b _ => F.round (rmodeOf m) e (Val.add (rmodeOf m) (F.val a) (F.val b))),
   (.cellFsub, .fsub, four, fun F m e a b _ => F.round (rmodeOf m) e (Val.add (rmodeOf m) (F.val a) (F.val b).neg)),
   (.cellFmul, .fmul, four, fun F m e a b _ => F.round (rmodeOf m) e (Val.mul (F.val a) (F.val b))),
   (.cellFma, .fma, four, fun F m e a b d => F.round (rmodeOf m) e (Val.add (rmodeOf m) (F.val d) (Val.mul (F.val a) (F.val b)))),
   (.cellFmin, .fmin, four, fun F _ _ a b _ => minmax F a b true),
   (.cellFmax, .fmax, four, fun F _ _ a b _ => minmax F a b false),
   (.cellFabs, .fabs, four, fun F _ _ a _ _ => if F.val a = .nan then F.nan else a % 2 ^ (F.w - 1)),
   (.cellFneg, .fneg, four, fun F _ _ a _ _ => if F.val a = .nan then F.nan else a ^^^ 2 ^ (F.w - 1)),
   (.cellExp2, .exp2, special, fun F m e a _ _ => specRound .exp2 F (rmodeOf m) e (F.val a)),
   (.cellLog2, .log2, special, fun F m e a _ _ => specRound .log2 F (rmodeOf m) e (F.val a)),
   (.cellRcp, .rcp, special, fun F m e a _ _ => specRound .rcp F (rmodeOf m) e (F.val a)),
   (.cellRsqrt, .rsqrt, special, fun F m e a _ _ => specRound .rsqrt F (rmodeOf m) e (F.val a)),
   (.cellSqrt, .sqrt, special, fun F m e a _ _ => specRound .sqrt F (rmodeOf m) e (F.val a)),
   (.cellTanh, .tanh, special, fun F m e a _ _ => specRound .tanh F (rmodeOf m) e (F.val a)),
   (.cellSigm, .sigm, special, fun F m e a _ _ => specRound .sigm F (rmodeOf m) e (F.val a)),
   (.cellGact, .gact, special, fun F m e a b _ => gactRound F m e (F.val a) (F.val b))] : List _)

/-- The compares, each with its latency and what it asks of each lane (R115, R116). -/
def CompareOp (op : (RuleAt → Instr) × CellOp × (Nat → Nat) × (Nat → Nat → Nat → Prop)) : Prop := op ∈
  ([(.cellCmpeq, .cmpeq, one, fun _ a b => a = b),
   (.cellCmplt, .cmplt, one, fun f a b => signedOf (laneBits f) a < signedOf (laneBits f) b),
   (.cellCmple, .cmple, one, fun f a b => signedOf (laneBits f) a ≤ signedOf (laneBits f) b),
   (.cellFcmpeq, .fcmpeq, four, fun f a b => Val.eq ((ffmtOf f).val a) ((ffmtOf f).val b) = true),
   (.cellFcmplt, .fcmplt, four, fun f a b => Val.lt ((ffmtOf f).val a) ((ffmtOf f).val b) = true)] : List _)

end Sys2Proof.Claim

/-- R114, R106, R112: the integer operations on register operands: each lane of the destination takes the lane's value, one
cycle after the beat begins. -/
def Sys2Proof.Claim.CellIntegerResult : Prop :=
  ∀ op, IntOp op → ∀ (s : State) (r : RuleAt) (t : Trigger) (o : OpWord), Fires s r t o → o.op = op.2.1 →
    o.sa < 24 → o.sb < 24 → o.dst < 24 → o.fmt ≤ 1 →
    let w := if o.fmt = 0 then 64 else 32
    Lands op.1 s r 1 (.reg o.dst)
      (ofLanes w fun i => op.2.2 w o.rm (lane w i (regOf s r o.sa)) (lane w i (regOf s r o.sb))) false

/-- R116, R120, R106, R112: the floating operations and the special functions on register operands. -/
def Sys2Proof.Claim.CellFloatResult : Prop :=
  ∀ op, FloatOp op → ∀ (s : State) (r : RuleAt) (t : Trigger) (o : OpWord), Fires s r t o → o.op = op.2.1 →
    o.sa < 24 → o.sb < 24 → o.dst < 24 → 2 ≤ o.fmt → o.fmt < 8 →
    let F := ffmtOf o.fmt
    Lands op.1 s r (op.2.2.1 o.fmt) (.reg o.dst)
      (ofLanes F.w fun i => op.2.2.2 F o.rm (s.plane r.plot r.plane).e4nan (lane F.w i (regOf s r o.sa))
        (lane F.w i (regOf s r o.sb)) (lane F.w i (regOf s r o.dst))) false

/-- R115, R116: a compare of register operands writes whether it holds in every lane to the predicate of DST[1:0]. -/
def Sys2Proof.Claim.CellCompareResult : Prop :=
  ∀ op, CompareOp op → ∀ (s : State) (r : RuleAt) (t : Trigger) (o : OpWord), Fires s r t o → o.op = op.2.1 →
    o.sa < 24 → o.sb < 24 → o.dst < 4 → o.fmt < 8 → (o.op.fmtOk o.fmt = true) →
    let w := laneBits o.fmt
    let holds := ∀ i, i < 64 / w → op.2.2.2 o.fmt (lane w i (regOf s r o.sa)) (lane w i (regOf s r o.sb))
    (holds → Lands op.1 s r (op.2.2.1 o.fmt) (.pred o.dst) 1 false) ∧
    (¬ holds → Lands op.1 s r (op.2.2.1 o.fmt) (.pred o.dst) 0 false)

/-- R113, R117, R118, R119, R121, R122, R123, R124: moves, conversions, reductions of one token, predicate operations and token
operations: the value each puts on its way, where it goes, and the tokens it takes.
Completes: cellNop, cellMov, cellSel, cellCvt, cellQbfp, cellDqbfp, cellRsum, cellRmax, cellPset, cellPand, cellPor,
cellPnot, cellSteer, cellMerge, cellPsend, cellPrecv, cellTagset, cellDrop. -/
def Obligations.CellOtherResult : Prop :=
  ∀ (s : State) (r : RuleAt) (t : Trigger) (o : OpWord), Fires s r t o →
    let x := s.cell r.plot r.plane r.cell
    let pl := s.plane r.plot r.plane
    let A := regOf s r o.sa
    let B := regOf s r o.sb
    let D : ResDst := .reg o.dst
    let F := fun (c : CellOp) => o.op = c
    let regs := o.sa < 24 ∧ o.sb < 24 ∧ o.dst < 24
    let fl := if o.fmt ≤ 1 then 1 else 4
    (F .nop → ∃ u, exec (.cellNop r) s = .next u ∧ Fired s u r []) ∧
    (F .mov → regs → Lands .cellMov s r 1 D A false) ∧
    (F .sel → regs → Lands .cellSel s r 1 D (if (x.pred 0).1 then A else B) false) ∧
    (F .cvt → regs → Lands .cellCvt s r 4 D (convertBeat (o.sb % 8) o.fmt o.rm pl.e4nan A) false) ∧
    (F .qbfp → regs → ∀ m, (quantBlock o.fmt o.rm o.sb [A]).1.getLast? = some m → Lands .cellQbfp s r 4 D m false) ∧
    (F .dqbfp → regs → x.dq = [] → Lands .cellDqbfp s r 4 D (dequantBeat o.fmt o.rm pl.e4nan B A 0) false) ∧
    (F .rsum → regs → Lands .cellRsum s r fl D (reduceBeats .rsum o.fmt o.rm pl.e4nan [A]) false) ∧
    (F .rmax → regs → Lands .cellRmax s r fl D (reduceBeats .rmax o.fmt o.rm pl.e4nan [A]) false) ∧
    (F .pset → Lands .cellPset s r 1 (.pred (o.dst % 4)) (if o.sa % 2 = 1 then 1 else 0) false) ∧
    (F .pand → Lands .cellPand s r 1 (.pred (o.dst % 4)) (if (x.pred (o.sa % 4)).1 ∧ (x.pred (o.sb % 4)).1 then 1 else 0) false) ∧
    (F .por → Lands .cellPor s r 1 (.pred (o.dst % 4)) (if (x.pred (o.sa % 4)).1 ∨ (x.pred (o.sb % 4)).1 then 1 else 0) false) ∧
    (F .pnot → Lands .cellPnot s r 1 (.pred (o.dst % 4)) (if (x.pred (o.sa % 4)).1 then 0 else 1) false) ∧
    (F .psend → 24 ≤ o.dst → outRoom pl x r.cell (o.dst - 24) = true →
      Lands .cellPsend s r 1 (.out (o.dst - 24) 0) (if (x.pred (o.sa % 4)).1 then 1 else 0) true) ∧
    (F .tagset → o.sa < 24 → 24 ≤ o.dst → outRoom pl x r.cell (o.dst - 24) = true →
      Lands .cellTagset s r 1 (.out (o.dst - 24) (if o.sb % 8 = 7 then 0 else o.sb % 8)) A false) ∧
    (∀ b, pinTok pl r.cell = some b →
      (F .precv → ∃ u, exec (.cellPrecv r) s = .next u ∧
        Fired s u r [{ at_ := s.cycle + 1, dst := .pred (o.dst % 4), v := if b then 1 else 0 }] ∧
        (u.plane r.plot r.plane).epBuf (160 + r.cell) = (pl.epBuf (160 + r.cell)).tail) ∧
      (F .merge → regs → ∃ u, exec (.cellMerge r) s = .next u ∧
        Fired s u r [{ at_ := s.cycle + 1, dst := D, v := if b then A else B }] ∧
        (u.plane r.plot r.plane).epBuf (160 + r.cell) = (pl.epBuf (160 + r.cell)).tail) ∧
      (F .steer → o.sa < 24 → 24 ≤ o.dst → let q := if b then o.dst - 24 else (o.dst - 24) ^^^ 1
        outRoom pl x r.cell q = true → ∃ u, exec (.cellSteer r) s = .next u ∧
          Fired s u r [{ at_ := s.cycle + 1, dst := .out q 0, v := A }] ∧
          (u.plane r.plot r.plane).epBuf (160 + r.cell) = (pl.epBuf (160 + r.cell)).tail)) ∧
    (F .drop → 24 ≤ o.sa → o.peek = false → ∀ k, tokAt pl r.cell (o.sa - 24) 0 = some k →
      ∃ u, exec (.cellDrop r) s = .next u ∧ Fired s u r [] ∧
        (u.plane r.plot r.plane).epBuf (r.cell * 8 + (o.sa - 24)) = (pl.epBuf (r.cell * 8 + (o.sa - 24))).tail)

/-- R107, R103, R106, R110, R101, R218: a picking cycle that fires a rule is that rule's first beat, and one that finds none
only marks the cycle; a later beat of a MOV ends its rule; a result whose cycle has come is written; an end-of-tile marker moves
from inQ to outQ, and leaves the predicate input in a picking cycle; at the end of a picking cycle a ready rule that did not
fire and whose counter has reached AGELIM is promoted; a fault halts the cell, faults the plane and is recorded in CFAULT.
Completes: pickingCycle, ruleBeat, ruleResultLand, markerMove, predMarkerRemove, rulePromotion, cellFault. -/
def Obligations.CellEvents : Prop :=
  ∀ (s : State) (r : RuleAt), r.plane < 4 → r.cell < 16 →
    let p := r.plot; let k := r.plane; let c := r.cell
    let x := s.cell p k c
    let pl := s.plane p k
    (∀ t o, Fires s r t o → o.op = .mov → o.sa < 24 → o.dst < 24 →
      Lands (fun _ => .pickingCycle p k c) s r 1 (.reg o.dst) (regOf s r o.sa) false) ∧
    (cellActs s p k c = true → x.run = none → x.land_ = [] → pickOf pl s.cycle c x = .idle →
      (pl.headTok (160 + c)).map (fun h => h.k) ≠ some .eot → ∃ t, exec (.pickingCycle p k c) s = .next t ∧ CellOnly s t p k c ∧ t.plane p k = pl ∧
        { t.cell p k c with last := x.last, ages := x.ages, promoted := x.promoted } = x ∧ (t.cell p k c).last = some s.cycle) ∧
    (∀ t o w, cellActs s p k c = true → x.run = some w → x.land_ = [] → x.ruleAt w.slot = some (t, o) → o.op = .mov →
      o.sa < 24 → o.dst < 24 → (x.reg o.sa).st = .full → w.beat = t.nm1 → w.outq = [] → w.spent = false → w.due ≤ s.cycle →
      ∃ u, exec (.ruleBeat p k c) s = .next u ∧ CellOnly s u p k c ∧ (u.cell p k c).run = none ∧
        (u.cell p k c).land_ = [{ at_ := s.cycle + 1, dst := .reg o.dst, v := regOf s r o.sa }] ∧ u.plane p k = pl) ∧
    (∀ l, x.land_ = [l] → l.at_ ≤ s.cycle → ∃ t, exec (.ruleResultLand p k c) s = .next t ∧ CellOnly s t p k c ∧
      (t.cell p k c).land_ = [] ∧
      (∀ n, l.dst = .reg n → n < 24 → (t.cell p k c).reg n = { v := l.v, st := .full }) ∧
      (∀ n, l.dst = .pred n → n < 4 → (t.cell p k c).pred n = (l.v.getLsbD 0, !l.long && (x.pred n).2)) ∧
      (∀ q g, l.dst = .out q g → pl.fed (c * 8 + q) ≠ [] → (t.plane p k).srcBuf (c * 8 + q) = pl.srcBuf (c * 8 + q) ++
        [{ k := if l.isPred then .pred (l.v.getLsbD 0) else .data l.v g, todo := pl.fed (c * 8 + q), hor := x.hor }])) ∧
    (∀ q, q < 8 → x.land_ = [] → (pl.headTok (c * 8 + q)).map (fun h => h.k) = some .eot → s.planeRuns p k = true →
      x.halted = false → x.run = none → outRoom pl x c q = true → pl.fed (c * 8 + q) ≠ [] →
      ∃ t, exec (.markerMove p k c q) s = .next t ∧ CellOnly s t p k c ∧
        (t.plane p k).epBuf (c * 8 + q) = (pl.epBuf (c * 8 + q)).tail ∧
        ((t.plane p k).srcBuf (c * 8 + q)).getLast?.map (fun h => h.k) = some .eot) ∧
    (x.land_ = [] → (pl.headTok (160 + c)).map (fun h => h.k) = some .eot → cellActs s p k c = true → x.run = none →
      exec (.predMarkerRemove p k c) s = exec (.pickingCycle p k c) s ∧
      (pickOf pl s.cycle c x = .idle → ∃ t, exec (.predMarkerRemove p k c) s = .next t ∧ CellOnly s t p k c ∧
        (t.plane p k).epBuf (160 + c) = (pl.epBuf (160 + c)).tail)) ∧
    (∀ j t o, Fires s { r with slot := j } t o → o.op = .mov → o.sa < 24 → o.dst < 24 → j ≠ r.slot → r.slot ∈ x.slots →
      x.readySlot pl s.cycle c r.slot = .yes → r.slot ∉ x.promoted → (pl.opts s.cycle).1 ≤ min (Tbl.getD x.ages r.slot 0 + 1) 4095 →
      ∃ u, exec (.rulePromotion p k c r.slot) s = .next u ∧ exec (.pickingCycle p k c) s = .next u ∧
        r.slot ∈ (u.cell p k c).promoted ∧
        (u.plane p k).promo = pl.promo + BitVec.ofNat 64 ((u.cell p k c).promoted.filter fun i => !x.promoted.contains i).length) ∧
    (∀ sub slot, cellActs s p k c = true → x.run = none → x.land_ = [] → pickOf pl s.cycle c x = .fault sub slot →
      ∃ t, exec (.cellFault p k c) s = .next t ∧ (t.cell p k c).halted = true ∧ (t.plane p k).st = .faulted ∧
        (t.plane p k).cfault = BitVec.ofNat 64 (sub + c * 2 ^ 8 + slot * 2 ^ 12 + k * 2 ^ 17))

/-! Tokens and configurations. -/

/-- R129, R132, R133, R97: a token whose endpoint has room moves from its source to it, crossed between the data and the predicate
network; on an ordering arc only once the accesses of its horizon are performed. The source keeps the token for the
endpoints it has still to reach. Nothing moves on a plot that is not resident (R379). -/
def Sys2Proof.Claim.TokenDelivery : Prop :=
  ∀ (s : State) (p k ep src : Nat) (t : Tok) (rest : List Tok), k < 4 → ep < 152 ∨ 156 ≤ ep →
    ((s.plot p).resident = false → exec (.tokenDelivery p k ep) s = .next s ∧ exec (.orderingArcDelivery p k ep) s = .next s) ∧
   ((s.plot p).resident = true →
    let x := s.plane p k
    let arc := (x.route ep).ord
    let moves (i : Instr) : Prop := ∃ u, exec i s = .next u ∧ { u with planes := s.planes } = s ∧
      (∀ q j, j < 4 → (q, j) ≠ (p, k) → u.plane q j = s.plane q j) ∧
      (u.plane p k).srcBuf src = rest ∧
      (u.plane p k).epBuf ep = x.epBuf ep ++ [{ k := crossTok ep t.k, hor := if arc then t.hor else [] }]
    x.feed ep = some src → x.cutDue src = false → takeTok ep (x.srcBuf src) = some (t, rest) → (x.epBuf ep).length < epDepth ep →
    (arc = false → moves (.tokenDelivery p k ep) ∧ exec (.orderingArcDelivery p k ep) s = .next s) ∧
    (arc = true → exec (.tokenDelivery p k ep) s = .next s ∧
      ((∀ i ∈ t.hor, ∀ q ∈ s.pend, q.id ≠ i) → moves (.orderingArcDelivery p k ep)) ∧
      ((∃ i ∈ t.hor, ∃ q ∈ s.pend, q.id = i) → exec (.orderingArcDelivery p k ep) s = .next s)))

/-- R145, R34, R98, R187: a load whose image is legal, and whose lattices have left their former claim, ends with its plane
CONFIGURED, the rules and routes of the image in force and the counters zero; a rule-illegal image leaves the plane UNCONFIGURED
with the first illegal slot in CFAULT. -/
def Sys2Proof.Claim.ConfigurationLoad : Prop :=
  ∀ (s s1 : State) (p k : Nat) (body : List Byte) (va : Word) (sp : Nat), k < 4 → (s.plane p k).st = .loading →
    s.loadStarted p k = true → (∀ l, l < 4 → bitAt (s.plane p k).latmask l = true → (s.lat p l).ending = false) →
    unitRead s (.core p) (s.planeTenant p k) (s.plane p k).asid (segsOf ((s.plane p k).image + 64) 0x1160) = ((.ok sp, va, body), s1) →
    (illegalSlot body = none → ∃ t, exec (.configurationLoadEnd p k) s = .next t ∧ (t.plane p k).st = .configured ∧
      (t.plane p k).fires = 0 ∧ (t.plane p k).promo = 0 ∧ (t.plane p k).cfault = 0 ∧ (t.plane p k).src = [] ∧ (t.plane p k).ep = [] ∧
      (∀ e, e < 176 → (t.plane p k).routes[e]? = some (BitVec.ofNat 16 (leNat ((body.drop (0x1000 + 2 * e)).take 2) / 8 * 8))) ∧
      (∀ c, c < 16 → (t.cell p k c).run = none ∧ ∀ i, i < 32 → Tbl.getD (t.cell p k c).rules i (0, 0) = ruleWords body c i)) ∧
    (∀ c i, illegalSlot body = some (c, i) → ∃ t, exec (.configurationLoadEnd p k) s = .next t ∧
      (t.plane p k).st = .unconfigured ∧ (t.plane p k).cfault = BitVec.ofNat 64 (4 + c * 2 ^ 8 + i * 2 ^ 12 + k * 2 ^ 17))


/-! Events of streams, commands and units. -/

namespace Sys2Proof.Claim

/-- The oldest accepted command of a context and class (R141): one that an ended thread left goes first, and names its thread by a
number beyond the contexts'. -/
abbrev Oldest (s : State) (h : Nat) (signal : Bool) (c : Cmd) : Prop :=
  (s.plot (h / 8)).cmds.find? (fun d => decide (d.tid % 8192 = h) && d.k.signal == signal) = some c

/-- The state once a command has left its entry. -/
def left (s : State) (h : Nat) (c : Cmd) : State :=
  s.setPlot (h / 8) { s.plot (h / 8) with cmds := (s.plot (h / 8)).cmds.filter fun d => d.id ≠ c.id }

/-- A port at work: bound and begun, its plane running, nothing that stops it. -/
abbrev AtWork (s : State) (p n : Nat) : Prop :=
  let x := s.port p n
  x.st = .bound ∧ x.begun = true ∧ x.ended = false ∧ x.fatal = none ∧ s.planeRuns p x.plane = true ∧ s.horizonDone x.hor = true ∧
  x.marker = none ∧ x.eotDue = false ∧ x.plane < 4 ∧ n < 16

/-- A source buffer with one data token more, for every endpoint it feeds. -/
def Emitted (x y : Plane) (src : Nat) (v : Word) (tag : Nat) (hor : List Nat) : Prop :=
  x.fed src ≠ [] → y.srcBuf src = x.srcBuf src ++ [{ k := .data v tag, todo := x.fed src, hor := hor }]

end Sys2Proof.Claim

/-- R141, R148, R149, R27: a command starts when it is its thread's oldest of its class: it leaves its entry; a configuration
load, fill or drain is under way in its unit, a matrix command joins the order of its plot's matrix commands. A started SCLOSE
closes the BOUND ports it names, or reopens CLOSED ones; a started SMARK leaves its marker pending at the ports. That a started
SMARK of another number than the cut under way has waits is the model's choice (log 53).
Completes: scloseApply, smarkInject, commandStart. -/
def Obligations.CommandStart : Prop :=
  ∀ (s : State) (h : Nat) (signal : Bool) (c : Cmd), Oldest s h signal c →
    let p := h / 8
    (∀ k a d, c.k = .scfg k a d → ∃ t, exec (.commandStart h signal) s = .next t ∧
      t = (left s h c).setPlot p { (left s h c).plot p with inflight := (s.plot p).inflight ++ [c] }) ∧
    (∀ n va, c.k = .tfill n va ∨ c.k = .tdrain n va →
      exec (.commandStart h signal) s = .next ((left s h c).setPlot p { (left s h c).plot p with inflight := (s.plot p).inflight ++ [c] })) ∧
    (∀ w, c.k = .mbind w ∨ c.k = .mzero w ∨ c.k = .mnorm w →
      exec (.commandStart h signal) s = .next { (left s h c).setPlot p
        { (left s h c).plot p with mops := (s.plot p).mops ++ [{ c with begun := s.nextId }] } with nextId := s.nextId + 1 }) ∧
    (∀ g, c.k = .gexp g → exec (.commandStart h signal) s = .next (left s h c)) ∧
    (∀ mask k re, signal = false → c.k = .sclose mask k re → ∃ t, exec (.scloseApply h) s = .next t ∧
      { t with ports := (left s h c).ports } = left s h c ∧ ∀ n, n < 16 → t.port p n =
        if bitAt mask n ∧ re = false ∧ (s.port p n).st = .bound then { s.port p n with st := .closed }
        else if bitAt mask n ∧ re = true ∧ (s.port p n).st = .closed then { s.port p n with st := .bound } else s.port p n) ∧
    (∀ mask k n, signal = true → c.k = .smark mask k n → (s.cutsOf (s.regionKey p k)).active = true →
      ((s.cutsOf (s.regionKey p k)).num ≠ n → exec (.smarkInject h) s = .next s) ∧
      ((s.cutsOf (s.regionKey p k)).num = n → ∃ t, exec (.smarkInject h) s = .next t ∧ t.mem = s.mem ∧
        (t.plot p).cmds = (s.plot p).cmds.filter (fun d => d.id ≠ c.id) ∧
        ∀ i, i < 16 → (t.port p i).marker =
          if bitAt mask i ∧ (s.port p i).holds ∧ !(s.port p i).d.write then some n else (s.port p i).marker))

/-- R137, R135, R97: a read beat of a memory or tile stream without scales, whose port is at work and finds room, writes the next
8 bytes in visit order to its source as a data token with the descriptor's tag; COUNT and the position go up by one. A
write beat of a memory stream stores the token's 8 bytes at the next address and takes the token. -/
def Sys2Proof.Claim.StreamBeat : Prop :=
  ∀ (s s1 : State) (p n : Nat) (bs : List Byte) (a : Nat) (w : Word), AtWork s p n →
    let x := s.port p n
    let d := x.d
    let pl := s.plane p x.plane
    (d.write = false → d.fmtw = 0 → x.pos < d.beats → pl.connected (136 + n) = false → pl.headTok (136 + n) = none →
      0 < pl.srcRoom (128 + 2 * n) →
      (d.tile = true ∧ tileRead s p (d.base % 256) (d.tileAt x.pos) 8 = .ok bs ∧ s1 = s ∨
       d.tile = false ∧ unitLoad s (.port p n) 0 (s.planeTenant p x.plane) x.asid [(d.va x.pos, 8)] [] = ((.ok a, w, bs), s1)) →
      ∃ t, exec (.portReadBeat p n) s = .next t ∧ (t.port p n).pos = x.pos + 1 ∧ (t.port p n).count = x.count + 1 ∧
        (t.port p n).st = .bound ∧ Emitted pl (t.plane p x.plane) (128 + 2 * n) (BitVec.ofNat 64 (leNat bs)) d.tag x.hor ∧
        t.mem = s.mem ∧ t.pend = s.pend) ∧
    (∀ tok v g, d.write = true → d.tile = false → x.pos < d.beats → pl.headTok (136 + n) = some tok → tok.k = .data v g → tok.hor = [] →
      unitStore (s.setPort p n x) (.port p n) (s.planeTenant p x.plane) x.asid (some x.lnch) (d.va x.pos) (leBytes 8 v.toNat) =
        ((.ok a, s.nextId), s1) →
      ∃ t, exec (.portWriteBeat p n) s = .next t ∧ (t.port p n).pos = x.pos + 1 ∧ (t.port p n).count = x.count + 1 ∧
        (t.plane p x.plane).epBuf (136 + n) = (pl.epBuf (136 + n)).tail ∧ t.mem = s.mem ∧
        ∃ pg sz : Nat, t.pend = s.pend ++ [{ id := s.nextId, party := .port p n, tenant := s.planeTenant p x.plane, asid := x.asid, va := d.va x.pos, spa := a, bytes := leBytes 8 v.toNat, lnch := some x.lnch, at_ := s.cycle, page := pg, psize := sz }])

/-- R139, R137, R138, R217, R379: on a resident plot, a bound stream begins once the streams its AFTER mask recorded have ended;
a write stream's row is acknowledged with its number once its stores are performed at SCOPE; a stream that has done all its
beats ends, its port IDLE; a fatal outcome makes the port FAULTED; a ring producer's port that has filled its part consumes an
end-of-tile marker and delivers its marker, and the last producer's fills the slot. -/
def Sys2Proof.Claim.StreamEvents : Prop :=
  ∀ (s : State) (p n : Nat), n < 16 →
    let x := s.port p n
    let d := x.d
    let pl := s.plane p x.plane
    (x.st = .bound → x.begun = false → (∀ c ∈ (s.plot p).cmds, ∀ k m e, c.k ≠ .sbind n k m e) →
      (∀ e ∈ x.after, ((s.port p e.1).st = .idle ∨ (s.port p e.1).serial ≠ e.2) ∧ ∀ q ∈ s.pend, q.party ≠ .port p e.1) →
      (s.cutsOf (s.regionKey p x.plane)).active = false →
      exec (.streamBegin p n) s = .next (s.setPort p n { x with begun := true, after := [] })) ∧
    (x.plane < 4 → s.planeRuns p x.plane = true → 0 < pl.srcRoom (128 + 2 * n) → x.ackq = [] → x.st = .bound → d.write = true →
      (x.acked + 1) * d.rowBeats ≤ x.pos → (∀ e ∈ x.stores, e.1 = x.acked → d.scope = 0 ∨ ∀ q ∈ s.pend, q.id ≠ e.2) →
      ∃ t, exec (.rowAcknowledgement p n) s = .next t ∧ t.port p n = { x with acked := x.acked + 1, stores := x.stores.filter fun e => e.1 ≠ x.acked } ∧
        Emitted pl (t.plane p x.plane) (128 + 2 * n) (BitVec.ofNat 64 x.acked) d.tag x.hor) ∧
    ((s.plot p).resident = false → exec (.streamEnd p n) s = .next s ∧ exec (.streamFatal p n) s = .next s) ∧
    ((s.plot p).resident = true → x.st = .bound → x.begun = true → x.pos = d.beats → x.marker = none → x.ended = false →
      d.write = false → x.eotDue = false →
      exec (.streamEnd p n) s =
        .next (endXlats (s.setPort p n { x with st := .idle, ended := false, stores := [], stalled := false }) (.port p n))) ∧
    ((s.plot p).resident = true → x.st = .bound → x.begun = true → x.pos = d.beats → x.marker = none → x.ended = false →
      d.write = true → d.tile = false →
      s.ringOfPort p n = none → (∀ e ∈ x.stores, d.scope = 0 ∨ ∀ q ∈ s.pend, q.id ≠ e.2) → s.isRollback pl.lnch = false →
      ∃ t, exec (.streamEnd p n) s = .next t ∧ (t.port p n).st = .idle ∧ (t.port p n).stores = [] ∧ t.mem = s.mem) ∧
    (∀ va, (s.plot p).resident = true → x.fatal = some va → x.st = .bound → ∃ t, exec (.streamFatal p n) s = .next t ∧ (t.port p n).st = .faulted ∧
      (t.port p n).fatal = none) ∧
    (∀ r, AtWork s p n → s.ringOfPort p n = some r → r < 16 → let g := s.ring p r
      g.indexOf (.port n) = g.w → (pl.headTok (136 + n)).map (fun e => e.k) = some .eot →
      g.filled < g.ns → (let y := s.tile p (g.h0 + g.w % g.ns); y.st = .empty ∨ y.st = .filling ∧ s.fillingBy p (g.h0 + g.w % g.ns) = false) →
      x.acked = x.pos / d.rowBeats → Producer.port n ∉ g.marks → g.plane < 4 →
      ∃ t, exec (.eotMarkerConsume p n) s = .next t ∧ t.port p n = { x with pos := 0, acked := 0, stores := [] } ∧
        (t.plane p x.plane).epBuf (136 + n) = (pl.epBuf (136 + n)).tail ∧
        (g.marks.length + 1 < g.fan → (t.ring p r).marks = g.marks ++ [.port n] ∧ (t.ring p r).w = g.w ∧ t.tiles = s.tiles) ∧
        (g.fan ≤ g.marks.length + 1 → s.isRollback (s.plane p g.plane).lnch = false →
          (t.ring p r).marks = [] ∧ (t.ring p r).w = g.w + 1 ∧ (t.ring p r).filled = g.filled + 1 ∧
          (t.tile p (g.h0 + g.w % g.ns)).st = .ready))

/-- R232, R235, R221, R238, R240: RREL empties the oldest filled slot after the stores that precede it; an arrival takes one from
ARR, and the one that leaves both counts zero advances PHASE and restores ARR; CKICK makes its channel RUNNING from the
head of the chain, or IDLE without one; a stopped channel is IDLE once its stores to this package
are performed. -/
def Sys2Proof.Claim.SignalEvents : Prop :=
  ∀ (s : State) (h : Nat) (c : Cmd), let p := h / 8
    (∀ r, Oldest s h true c → c.k = .rrel r → let g := s.ring p r
      g.active = true → 0 < g.filled → ∃ t, exec (.rrelStart h) s = .next t ∧
        t.ring p r = { g with rc := g.rc + 1, filled := g.filled - 1 } ∧ (t.tile p (g.h0 + g.rc % g.ns)).st = .empty ∧
        t.mem = (releaseThread s c.tid).mem ∧ (∀ q ∈ t.pend, Earlier s c.tid q → s.isLocal q.spa = false)) ∧
    (∀ sel, Oldest s h true c → c.k = .garr sel → let q := sel / 32 % 1024; let j := sel % 32; let x := s.gate q j
      (s.plot q).resident = true → x.arrinit ≠ 0 →
      (x.arr = 0 → x.due = false → ∃ t, exec (.garrStart h) s = .next t ∧ t.gate q j = { x with overrun := true }) ∧
      (1 < x.arr → ∃ t, exec (.garrStart h) s = .next t ∧ (t.gate q j).arr = x.arr - 1 ∧ (t.gate q j).phase = x.phase ∧
        t.mem = (releaseThread s c.tid).mem) ∧
      (x.arr = 1 → x.txn = 0 → x.deferBy = [] → s.isRollback (some c.lnch) = false →
        (∀ i ∈ c.tid :: x.arrivers, i < 8192 ∧ (s.thread i).fadd = []) →
        ∃ t, exec (.garrStart h) s = .next t ∧ (t.gate q j).arr = x.arrinit ∧ (t.gate q j).phase = x.phase + 1 ∧
          (t.gate q j).txn = 0 ∧ (t.gate q j).overrun = false)) ∧
    (∀ ch hd, Oldest s h false c → c.k = .ckick ch hd → (s.chan ch).scrubbing = false → (s.chan ch).owner = some c.tenant →
      ∃ t, exec (.ckickStart h) s = .next t ∧ t.mem = (releaseThread s c.tid).mem ∧ (t.chan ch).tid = c.tid % 8192 ∧ (t.chan ch).asid = c.asid ∧
        (t.chan ch).st = (if hd = 0 then 0 else 1) ∧ (hd ≠ 0 → (t.chan ch).cur = hd)) ∧
    (∀ ch, (s.chan ch).stopping = true → ∃ t, exec (.cstopDone ch) s = .next t ∧ (t.chan ch).st = 0 ∧
      (t.chan ch).stopping = false ∧ ∀ q ∈ t.pend, q.party = .chan ch → s.isLocal q.spa = false) ∧
    (∀ ch, (s.chan ch).stopping = false → exec (.cstopDone ch) s = .next s)

/-- R227, R226, R225: a RUNNING channel reads the record at its address and begins it when OWN is 1 and it is valid, becomes
IDLE with UNOWNED when OWN is 0, and FAULTED with INVALID when it is not valid. A record is copied piece by piece, in one event
one piece at least: that order is the model's choice (log 57). A memory-to-memory record whose pieces are copied ends with its
control word stored, and the channel goes to the record NEXT names, or IDLE at 0. -/
def Sys2Proof.Claim.ChannelRecord : Prop :=
  ∀ (s s1 s2 s4 : State) (c a : Nat) (w : Word) (b nb : List Byte), let x := s.chan c
    x.st = 1 → x.stopping = false → s.chanHalted c = false →
    (x.recRun = false → x.waitSlot = false → unitRead s (.chan c) x.tenant x.asid (segsOf x.cur 64) = ((.ok a, w, b), s1) →
      let r := recOf b
      (r.own = false → ∃ t, exec (.channelRecordStart c) s = .next t ∧ (t.chan c).st = 0 ∧ (t.chan c).unowned = true) ∧
      (r.own = true → recValid s1 c x.tenant b = false → ∃ t, exec (.channelRecordStart c) s = .next t ∧ (t.chan c).st = 3 ∧
        (t.chan c).invalid = true) ∧
      (r.own = true → recValid s1 c x.tenant b = true → r.dkind ≠ 2 → ∃ t, exec (.channelRecordStart c) s = .next t ∧
        (t.chan c).st = 1 ∧ (t.chan c).recRun = true ∧ (t.chan c).record = b)) ∧
    (let r := recOf x.record
     x.recRun = true → recResident s r = true → x.pos < r.pieces → ∃ n, 1 ≤ n ∧ x.pos + n ≤ r.pieces ∧
       ∀ u, copyPieces { s with free := s.free + 1 } c r n = .done u → (u.chan c).pos < r.pieces →
         exec (.channelRecordComplete c) s = .next u) ∧
    (let r := recOf x.record
     x.recRun = true → x.held = false → recResident s r = true → r.dkind = 0 → r.mark = false → r.gdone = false →
     r.pieces ≤ x.pos →
     storePieces (drainParty { s with free := s.free + 1 } (.chan c)) c x.lnch [(x.cur + 8, leBytes 4 (fieldAt x.record 8 4 - 1))] = .ok s2 →
     unitRead ((drainParty s2 (.chan c)).setChan c { (drainParty s2 (.chan c)).chan c with held := true, stalled := false }) (.chan c)
       x.tenant x.asid [(x.cur, 8)] = ((.ok a, w, nb), s4) → s2.chan c = x → s4.chan c = { x with held := true, stalled := false } →
     ∃ t, exec (.channelRecordComplete c) s = .next t ∧ (t.chan c).recRun = false ∧ t.mem = s4.mem ∧
       (leNat nb = 0 → (t.chan c).st = 0) ∧ (leNat nb ≠ 0 → (t.chan c).st = 1 ∧ (t.chan c).cur = BitVec.ofNat 64 (leNat nb)))

/-- R181, R182, R155: a fill whose bytes can all be read ends with its tile READY, holding them, and a drain whose beats can all
be stored with its tile READY and its stores performed; a fill that meets a fatal outcome leaves the tile EMPTY with ERR.
A zeroed granule is free. That a fill's beats are read at the one moment it ends is the model's choice (log 57).
Completes: tfillEnd, tdrainEnd, granuleZero. -/
def Obligations.TileEvents : Prop :=
  ∀ (s s1 s2 : State) (p n a : Nat) (va w : Word) (c : Cmd) (bs : List Byte), n < 256 → let x := s.tile p n
    (s.fillCmd p n false = some (c, va) → x.st = .filling →
      (unitRead s (.fill p n) c.tenant c.asid (segsOf va (tileBytes x)) = ((.ok a, w, bs), s1) →
        ∃ t, exec (.tfillEnd p n) s = .next t ∧ (t.tile p n).st = .ready ∧ Stored [] (t.tile p n).bytes 0 bs ∧
          (t.plot p).inflight = (s1.plot p).inflight.filter (fun d => !(d.id == c.id)) ∧ t.mem = s1.mem) ∧
      (∀ r l, unitRead s (.fill p n) c.tenant c.asid (segsOf va (tileBytes x)) = ((.fatal r l, w, bs), s1) →
        ∃ t, exec (.tfillEnd p n) s = .next t ∧ (t.tile p n).st = .empty ∧ (t.tile p n).err = true ∧ (t.tile p n).bytes = x.bytes)) ∧
    (s.fillCmd p n true = some (c, va) → x.st = .draining →
      pagesWait s (.fill p n) c.tenant c.asid .write (segsOf va (tileBytes x)) = (false, s1) →
      drainBeats s1 (.fill p n) c.tenant c.asid (some c.lnch) va (beatsOf (Mem.read x.bytes 0 (tileBytes x)) (tileBytes x / 8)) =
        ((.ok a, w), s2) →
      ∃ t, exec (.tdrainEnd p n) s = .next t ∧ t.tile p n = { x with st := .ready } ∧ (∀ q ∈ t.pend, q.party = .fill p n → s.isLocal q.spa = false) ∧
        t.mem = (drainParty s2 (.fill p n)).mem) ∧
    (let y := s.plot p
     (0 < y.gzero → exec (.granuleZero p) s = .next (s.setPlot p { y with gzero := y.gzero - 1, gfree := y.gfree + 1 })) ∧
     (y.gzero = 0 → 0 < y.gzero1 → exec (.granuleZero p) s = .next (s.setPlot p { y with gzero1 := y.gzero1 - 1 })) ∧
     (y.gzero = 0 → y.gzero1 = 0 → exec (.granuleZero p) s = .next s))

/-! Lattices. -/

/-- R207, R208, R209, R210, R211, R212, R213, R189: on a lattice the thread's tenant may use, MLOAD of a READY tile makes its slot
LOADING and takes its lines, MBIND of a legal word joins the lattice's queue, MZERO, MREAD to the lattice's sources and MNORM
are accepted, each as one command; MHEAD reads a row's state word.
Completes: mload, mbind, mzero, mread, mnorm, mhead. -/
def Obligations.MatrixAccepted : Prop :=
  ∀ (rd a b : Reg) (clr e4 : Bool) (s : State) (h : Nat), s.cur = .thread h →
    let p := h / 8
    let v := s.ctx.tenant.getD 64
    let sel := (s.g a).toNat
    let usable (l : Nat) : Prop := s.latClaimed p l v = true ∧ (s.lat p l).faulted = false
    (let l := sel % 4
     let n := sel / 16
     let src := s.g b
     let t := s.tile p (src.toNat % 256)
     let off := src.toNat / 256
     let hd := Mem.read t.bytes off 16
     let x := s.lat p l
     let need := (16 + fieldAt hd 4 4 + 63) / 64
     HasRoom s false → sel < 2 ^ 9 → bitAt sel 3 = false → bitAt sel 2 = true → usable l → src.toNat < 2 ^ 40 → off % 16 = 0 → t.st = .ready →
     off + 16 + fieldAt hd 4 4 ≤ tileBytes t → sliceHdrOk hd = true → (x.slot n).st ≠ .loading → x.named n = false →
     need ≤ x.free + (x.slot n).lines →
     ∃ u, exec (.mload rd a b) s = .next u ∧ Wrote s u rd 0 ∧ Completed s.ctx u.ctx 4 ∧
       (u.lat p l).free = x.free + (x.slot n).lines - need ∧ (let y := (u.lat p l).slot n
        y.st = .loading ∧ y.bfmt = fieldAt hd 0 1 ∧ y.kb = fieldAt hd 2 2 ∧ y.lines = need ∧ y.src = src ∧ y.tile = true) ∧
       ((u.plot p).cmds.getLast?.map fun c => (c.tid, c.k)) = some (h, .mload l n src true)) ∧
    (let w := s.g a
     let l := sel % 4
     let x := s.lat p l
     HasRoom s false → sel < 2 ^ 28 → sel / 2 ^ 7 % 16 ≤ 8 → usable l → mbindOk s p w = true → x.binds.length < 4 →
     Does (.mbind rd a) s (queued (s.setLat p l
       { x with binds := x.binds ++ [{ cmd := s.nextId, word := w, left := sel / 2 ^ 21 % 64 + 1 }] }) (.mbind w)) rd 0) ∧
    (HasRoom s false → sel < 2 ^ 17 → sel % 65536 ≠ 0 → (∀ n, n < 16 → bitAt sel n = true → usable (n / 4)) →
      Does (.mzero rd a) s (queued s (.mzero (s.g a))) rd 0) ∧
    (HasRoom s false → sel < 2 ^ 21 → sel / 2 ^ 16 % 8 ≠ 7 → sel / 16 % 64 + sel / 2 ^ 10 % 64 < 64 → usable (sel % 16 / 4) → bitAt sel 19 = true →
      s.g b = 0 → Does (.mread rd a b clr e4) s (queued s (.mread (s.g a) (s.g b) clr e4)) rd 0) ∧
    (HasRoom s false → sel < 2 ^ 22 → sel / 2 ^ 16 ≤ 39 → sel / 16 % 64 + sel / 2 ^ 10 % 64 < 64 → usable (sel / 4 % 4) →
      Does (.mnorm rd a) s (queued s (.mnorm (s.g a))) rd 0) ∧
    (sel < 2 ^ 10 → s.latClaimed p (sel % 16 / 4) v = true → (s.acc p (sel % 16)).wide = false →
      let r := (s.acc p (sel % 16)).row (sel / 16)
      Does (.mhead rd a) s s rd (BitVec.ofNat 64 ((r.x % 1024).toNat + r.h * 2 ^ 10 + (if r.empty then 2 ^ 16 else 0) +
        (if r.spcs.any fun c => c != 0 then 2 ^ 17 else 0)))) ∧
    (2 ^ 10 ≤ sel → Does (.mhead rd a) s s rd (BitVec.ofInt 64 (-1)))


/-! Waiting instructions tried again, and instruction caches. -/

namespace Sys2Proof.Claim

/-- The return events, each with the instructions it returns from. -/
def ReturnOf (ev : Nat → Instr) (i : Instr) : Prop :=
  (ev = .waitWake ∧ ∃ a b c, i = .waitLoc a b c) ∨ (ev = .swaitReturn ∧ ∃ a b c, i = .swait a b c) ∨
  (ev = .twaitReturn ∧ ∃ a b c, i = .twait a b c) ∨ (ev = .rawaitReturn ∧ ∃ a b c, i = .rawait a b c) ∨
  (ev = .gwaitReturn ∧ ∃ a b c, i = .gwait a b c) ∨ (ev = .sbarReturn ∧ ∃ a b, i = .sbar a b) ∨
  (ev = .tlbsyncReturn ∧ ∃ a b, i = .tlbsync a b) ∨ (ev = .dsyncReturn ∧ ∃ a b c, i = .dsync a b c) ∨
  (ev = .drdReturn ∧ ∃ a b c n, i = .drd a b c n) ∨ (ev = .nbwaitReturn ∧ ∃ a b c, i = .nbwait a b c) ∨
  (ev = .cbarReturn ∧ i = .cbar) ∨ (ev = .icinvReturn ∧ ∃ a b c sc, i = .icinv a b c sc)

/-- The waiting instructions that have a limit, and its register. -/
def HasLimit (i : Instr) (r : Reg) : Prop :=
  (∃ a b, i = .waitLoc a b r ∨ i = .swait a b r ∨ i = .twait a b r ∨ i = .rawait a b r ∨ i = .dsync a b r ∨ i = .nbwait a b r) ∨
  ∃ a, i = .tlbsync a r

/-- Thread `h` waits in `i`, and may try it again: its core runs, and it is neither halted nor waiting on a page. -/
def MayRetry (s : State) (h : Nat) (i : Instr) : Prop :=
  s.live (.thread h) = true ∧ s.coreRuns (.thread h) = true ∧ ∃ w, (s.thread h).wait = some w ∧ w.instr = i

/-- Event `ev` brings thread `h` back from the instruction it waits in: `rd` holds `v`, the pc advances, and it waits no more. -/
def Back (ev : Instr) (s : State) (h : Nat) (rd : Reg) (v : Word) : Prop :=
  ∃ t : State, exec ev s = .next { t with cur := s.cur } ∧ t.cur = .thread h ∧ Wrote { s with cur := .thread h } t rd v ∧
    Completed (s.thread h) t.ctx 4 ∧ t.ctx.wait = none

end Sys2Proof.Claim

/-- R93, R150, R184, R231, R237, R92, R256, R293, R292, R267, R146, R344: the return of a waiting instruction is that instruction
tried again by its thread, which answers as the instruction does; so is the expiry of its limit, once as many cycles have
passed. Where the thread waits in no such instruction, nothing happens. Each return event brings its thread back once what the
instruction waits for holds: the status is in rd, the pc advances, and the thread waits no more. That a return is the
instruction tried again is log 83, and that ICINV always waits at its first trial log 64: the model's. -/
def Sys2Proof.Claim.WaitReturns : Prop :=
  (∀ ev i, ReturnOf ev i → ∀ (s : State) (h : Nat),
    (MayRetry s h i → ∃ t, exec i { s with cur := .thread h } = .next t ∧ exec (ev h) s = .next { t with cur := s.cur }) ∧
    ((∀ j, MayRetry s h j → ¬ ReturnOf ev j) → exec (ev h) s = .next s)) ∧
  (∀ i r, HasLimit i r → ∀ (s : State) (h : Nat) (w : Machine.Waiting), MayRetry s h i → (s.thread h).wait = some w →
    (((s.thread h).get r).toNat ≤ s.cycle - w.start → ∃ t, exec i { s with cur := .thread h } = .next t ∧
      exec (.waitLimitExpiry h) s = .next { t with cur := s.cur }) ∧
    (s.cycle - w.start < ((s.thread h).get r).toNat → exec (.waitLimitExpiry h) s = .next s)) ∧
  (∀ (s : State) (h n : Nat) (rd a b : Reg) (sc : IcScope) (nb : Bool) (bs : List Byte) (w : Machine.Waiting),
    let d := s.thread h
    let s0 := { s with cur := .thread h }
    let p := h / 8
    let v := d.tenant.getD 64
    let x := (d.get a).toNat
    let late := (d.get b).toNat ≤ s.cycle - w.start
    d.wait = some w →
    (MayRetry s h (.waitLoc rd a b) → x % 8 = 0 → LoadFinds s0 (d.get a) 8 true bs → BitVec.ofNat 64 (leNat bs) ≠ d.get rd →
      Back (.waitWake h) s h rd 0) ∧
    (MayRetry s h (.swait rd a b) → x < 64 → Holds s0 p (x / 16) → (∀ j, s.portPlane p (x % 16) = some j → Holds s0 p j) →
      ((s.port p (x % 16)).st = .idle → Back (.swaitReturn h) s h rd 0) ∧
      ((s.port p (x % 16)).st = .bound → late → Back (.waitLimitExpiry h) s h rd 1)) ∧
    (MayRetry s h (.twait rd a b) → x < 256 → (s.tile p x).err = false →
      ((s.tile p x).st = .ready → Back (.twaitReturn h) s h rd 0) ∧
      ((s.tile p x).st = .filling → late → Back (.waitLimitExpiry h) s h rd 1)) ∧
    (MayRetry s h (.rawait rd a b) → x < 2 ^ 9 → s.ringHeld p (x % 16) v = true → x / 16 < (s.ring p (x % 16)).ns →
      x / 16 < (s.ring p (x % 16)).filled → Back (.rawaitReturn h) s h rd 0) ∧
    (MayRetry s h (.gwait rd a b) → w.mark = 1 → Back (.gwaitReturn h) s h rd 0) ∧
    (∀ y, MayRetry s h (.sbar rd a) → s.findSet v x = some y → w.mark < y.phase → Back (.sbarReturn h) s h rd 0) ∧
    (MayRetry s h (.tlbsync rd a) → d.priv ≠ .u → (∀ i ∈ s.invals, i.tid ≠ h) → Back (.tlbsyncReturn h) s h rd 0) ∧
    (MayRetry s h (.dsync rd a b) → x = 0 → (∀ e ∈ s.regions, e.2.tenant ≠ v) → Back (.dsyncReturn h) s h rd 0) ∧
    (MayRetry s h (.drd rd a b nb) → w.mark = 1 → ∃ t : State, exec (.drdReturn h) s = .next { t with cur := s.cur } ∧ t.cur = .thread h ∧
      t.g rd = (if rd = 0 then 0 else 4) ∧ Completed d t.ctx 4 ∧ t.ctx.wait = none) ∧
    (MayRetry s h (.nbwait rd a b) → x < 256 → s.mboxHeld x v = true → (s.mbox x).st = 2 →
      Back (.nbwaitReturn h) s h rd (BitVec.ofNat 64 (s.mbox x).status)) ∧
    (MayRetry s h .cbar → (∀ c ∈ (s.plot p).cmds ++ (s.plot p).inflight ++ (s.plot p).mops, c.tid ≠ h) → Back (.cbarReturn h) s h 0 0) ∧
    (MayRetry s h (.icinv rd a b sc) → x < 2 ^ 56 → n = (d.get b).toNat → 0 < n → n ≤ 2 ^ 32 → x + n ≤ 2 ^ 56 →
      (sc = .dom → ∀ q ∈ s.pend, Earlier s h q → s.isLocal q.spa = true) → Back (.icinvReturn h) s h rd 0))

/-- R344: ICINV releases and waits for the caches in its scope; then it has discarded every line of its tenant that the range
touches in each of them, keeps every other line, and returns OK. At domain scope it is sent to the other packages and waits for
the stores that precede it to be acknowledged there. An empty range, and one beyond 2^32 bytes or 2^56, is BADARG. That it
waits at its first trial, that it is tried again, and that it is sent over the links are logs 64, 83 and 67: the model's. -/
def Sys2Proof.Claim.CodeInvalidation : Prop :=
  ∀ (rd a b : Reg) (sc : IcScope) (s : State) (h m : Nat), s.cur = .thread h →
    let i : Instr := .icinv rd a b sc
    let x := (s.g a).toNat
    let n := (s.g b).toNat
    let legal := 0 < n ∧ n ≤ 2 ^ 32 ∧ x < 2 ^ 56 ∧ x + n ≤ 2 ^ 56
    let inScope (p : Nat) : Prop := (match sc with | .plot => p = h / 8 | .die => p / 160 = h / 8 / 160 | .pkg | .dom => True)
    (¬ legal → Answers i s rd 6) ∧
    let s1 := releaseThread s h
    let remote := sc = .dom ∧ ∃ q ∈ s.pend, Earlier s h q ∧ s.isLocal q.spa = false
    (legal → Fresh i s → WaitsIn i s (if sc = .dom then { s1 with flits := s1.flits ++ [.icinv (s.ctx.tenant.getD 64) (s.g a) n] } else s1)) ∧
    (legal → Claim.Waiting i s m → remote → WaitsIn i s s) ∧
    (legal → Claim.Waiting i s m → ¬ remote → ∃ t, exec i s = .next t ∧ Wrote s t rd 0 ∧ Completed s.ctx t.ctx 4 ∧ t.mem = s.mem ∧
      ∀ p l, l ∈ (t.plot p).icache ↔ l ∈ (s.plot p).icache ∧
        ¬ (inScope p ∧ l.tenant = s.ctx.tenant.getD 64 ∧ x < l.line * 64 + 64 ∧ l.line * 64 < x + n))

/-! Near-bank units. -/

/-- R264, R261, R262, R265, R266, R267: NBDOT of a legal descriptor makes the tenant's mailbox BUSY with one command; its start
releases the thread's accesses; a command of one FP16 row completes with the dot product, summed in FP32 in element order,
stored and in slot 0, or, where the permission table refuses the row, with the table's status and a NaN. NBWAIT returns
a completed command's status. A refresh is postponed or runs, and changes nothing else.
Completes: nbdot, nbwait, nbdotStart, nbdotComplete, hbmRefreshDue. -/
def Obligations.NearBank : Prop :=
  ∀ (rd a b : Reg) (s s1 s2 s3 s4 : State) (h : Nat) (d : List Byte), s.cur = .thread h →
    let m := (s.g b).toNat
    let k := (s.g a).toNat
    (m < 256 → s.mboxHeld m (s.ctx.tenant.getD 64) = true → (s.g a).toNat % 64 = 0 → (s.g a).toNat < 2 ^ 56 →
      dataLoad s (s.g a) 64 false = (.ok d, s1) → ndescOk d = true → (s1.mbox m).st ≠ 1 → HasRoom s1 false →
      Does (.nbdot rd a b) s (queued (s1.setMbox m { s1.mbox m with st := 1, status := 0, rows := 0 }) (.nbdot m d)) rd 0) ∧
    (m < 256 → s.mboxHeld m (s.ctx.tenant.getD 64) = false → Answers (.nbdot rd a b) s rd 4) ∧
    (∀ c n, Oldest s h false c → c.k = .nbdot n d → (s.mbox n).tenant = c.tenant → ∃ t, exec (.nbdotStart h) s = .next t ∧
      t.mbox n = { s.mbox n with cmd := some c } ∧ (∀ q ∈ t.pend, Earlier s c.tid q → s.isLocal q.spa = false) ∧ t.mem = (releaseThread s c.tid).mem) ∧
    (∀ (n c : Nat) (cmd : Cmd) (x y : Nat) (w : Word) (vec row : List Byte), let e := ndesc d
      let va := BitVec.ofInt 64 e.waddr
      (s.mbox n).cmd = some cmd → cmd.k = .nbdot n d → (s.mbox n).owed = [] → bitAt (s.mbox n).wake.toNat 0 = false →
      e.rows = 1 → e.fmt = 3 → va.toNat / 2048 = (va.toNat + 2 * e.len - 1) / 2048 →
      pagesWait s (.near n) cmd.tenant cmd.asid .write (segsOf (BitVec.ofNat 64 e.raddr) 4) = (false, s1) →
      unitLoad s1 (.near n) 0 cmd.tenant cmd.asid (segsOf (BitVec.ofNat 64 e.vaddr) (2 * e.len)) [] = ((.ok x, w, vec), s2) →
      translate s2 (.near n) 0 cmd.tenant cmd.asid true va .read = (.ok y, s3) → isHbm y = true → s3.isLocal y = true →
      (s3.permRefuses y cmd.tenant = none → s3.isBad y (2 * e.len) = false → row = Mem.read s3.mem y (2 * e.len) →
        let elem (bs : List Byte) (i : Nat) := fp16.val (leNat bs / 2 ^ (16 * i) % 2 ^ 16)
        let v : BitVec 32 := BitVec.ofNat 32 (fp32.round .rne false (((List.range e.len).map fun i =>
          Val.mul (elem row i) (elem vec i)).foldl (Val.add .rne) (.fin false 0 0)))
        ∀ z, unitStore s3 (.near n) cmd.tenant cmd.asid (some cmd.lnch) (BitVec.ofNat 64 e.raddr) (leBytes 4 v.toNat) = ((.ok z, c), s4) →
        ∃ t, exec (.nbdotComplete n) s = .next t ∧ (t.mbox n).st = 2 ∧ (t.mbox n).status = 0 ∧ (t.mbox n).rows = 1 ∧
          (t.mbox n).cmd = none ∧ Tbl.get? (t.mbox n).slots 0 = some v ∧ ∀ q ∈ t.pend, q.party = .near n → s.isLocal q.spa = false) ∧
      (∀ code z, s3.permRefuses y cmd.tenant = some code →
        unitStore s3 (.near n) cmd.tenant cmd.asid (some cmd.lnch) (BitVec.ofNat 64 e.raddr) (leBytes 4 0x7FC00000) = ((.ok z, c), s4) →
        ∃ t, exec (.nbdotComplete n) s = .next t ∧ (t.mbox n).st = 2 ∧ (t.mbox n).status = code ∧ (t.mbox n).cmd = none ∧
          Tbl.get? (t.mbox n).slots 0 = some 0x7FC00000)) ∧
    (k < 256 → s.mboxHeld k (s.ctx.tenant.getD 64) = true → let i : Instr := .nbwait rd a b
      ((s.mbox k).st = 2 → Does i s (emptied s h) rd (BitVec.ofNat 64 (s.mbox k).status)) ∧
      ((s.mbox k).st = 0 → Answers i s rd 6) ∧
      ((s.mbox k).st = 1 → LimitOver i s (s.g b) → Answers i s rd 1) ∧
      ((s.mbox k).st = 1 → ¬ LimitOver i s (s.g b) → WaitsIn i s s)) ∧
    (∀ n, ∃ t, exec (.hbmRefreshDue n) s = .next t ∧ { t with mboxes := s.mboxes } = s ∧
      (∀ j, { t.mbox j with postponed := (s.mbox j).postponed } = s.mbox j) ∧
      (t.mbox n).postponed = if (s.mbox n).st ≠ 1 then (s.mbox n).postponed else
        if (s.mbox n).postponed < Config.refreshAllowance then (s.mbox n).postponed + 1 else 0)

/-! Derived regions. -/

namespace Sys2Proof.Claim

/-- Instruction `i` writes a status to `rd` and a value to its mate (R290); with `rd` g0 only g1 is written. -/
def Paired (i : Instr) (s s' : State) (rd : Reg) (code : Nat) (v : Word) : Prop :=
  ∃ t, exec i s = .next t ∧ SameElse s' t ∧ SameRest s'.ctx t.ctx ∧ Completed s'.ctx t.ctx 4 ∧
    ∀ r, t.g r = if r = 0 then 0 else if r = rd then BitVec.ofNat 64 code else if r = rd + 1 then v else s.g r

/-- The cycle in which instruction `i` began: now, unless the context waits in it. -/
def began (i : Instr) (s : State) : Nat :=
  match s.ctx.wait with
  | some u => if u.instr = i then u.start else s.cycle
  | none => s.cycle

/-- The party that a DSYNC selector names, and the state in which its updates are looked at. -/
def SyncParty (s : State) (h w : Nat) (party : Holder) (s1 : State) : Prop :=
  (w = 0 ∧ party = .thread h ∧ s1 = releaseThread s h) ∨
  (w < 256 ∧ w % 4 = 1 ∧ Holds s (h / 8) (w / 64) ∧ party = .port (h / 8) (w / 4 % 16) ∧ s1 = s) ∨
  (w < 65536 ∧ w % 256 = 2 ∧ (s.chan (w / 256)).owner = some (s.ctx.tenant.getD 64) ∧ party = .chan (w / 256) ∧ s1 = s)

end Sys2Proof.Claim

/-- R291, R273, R271: DDECL of a legal descriptor, whose pages translate to memory of the package, gives the region the lowest
free id, with its result rows zero and its build begun. -/
def Sys2Proof.Claim.DerivedDeclare : Prop :=
  ∀ (rd a : Reg) (s s1 s3 s4 : State) (h id : Nat) (d : List Byte) (bm rm : List (Nat × Nat)), s.cur = .thread h →
    let v := s.ctx.tenant.getD 64
    let r := regionOf v d
    let u := s.ctx.priv == .u
    let x := { r with bmap := bm, rmap := rm }
    let w := (s.g a).toNat
    (w % 64 ≠ 0 ∨ 2 ^ 56 ≤ w → Paired (.ddecl rd a) s s rd 6 0) ∧
    (w % 64 = 0 → w < 2 ^ 56 → dataLoad s (s.g a) 64 false = (.ok d, s1) →
      (regionOk r (fieldAt d 44 4) = false → Paired (.ddecl rd a) s s1 rd 6 0) ∧
      (regionOk r (fieldAt d 44 4) = true →
        bindPages (releaseThread s1 h) h v s.ctx.asid u .read (rowPages r.base.toNat r.pitch (r.cols * bfmtBytes r.bfmt) r.rows) [] = (.ok bm, s3) →
        bindPages s3 h v s.ctx.asid u .write (rowPages r.result.toNat r.rpitch r.rowBytes r.rows) [] = (.ok rm, s4) →
        pagesHome s4 bm = true → pagesHome s4 rm = true → resultHitsBase x x = false →
        (∀ e ∈ s4.regions, resultHitsBase x e.2 = false ∧ resultHitsBase e.2 x = false) →
        ((s4.tenant v).regq ≤ s4.regionsOf v → Paired (.ddecl rd a) s s4 rd 2 0) ∧
        (s4.regionsOf v < (s4.tenant v).regq → regionFits s4 x = true → Tbl.get? s4.regions id = none → id < 4096 →
          (∀ j, j < id → Tbl.get? s4.regions j ≠ none) → Mem.wf s4.mem = true →
          ∃ t y, exec (.ddecl rd a) s = .next t ∧ Completed s.ctx t.ctx 4 ∧
            (∀ q, t.g q = if q = 0 then 0 else if q = rd then 0 else if q = rd + 1 then BitVec.ofNat 64 id else s.g q) ∧
            Tbl.get? t.regions id = some y ∧ y.tenant = v ∧ y.building = true ∧ y.queue = [] ∧ (y.base, y.cols, y.rows, y.kind) = (r.base, r.cols, r.rows, r.kind) ∧
            (∀ e ∈ y.parts, e.2.built = false) ∧
            (∀ row j, row < r.rows → j < r.rowBytes → Mem.get t.mem (boundAddr rm (r.result.toNat + row * r.rpitch + j)) = 0))))

/-- R286, R287, R292, R293, R294, R295, R296: DRD performs its plot's stores and waits while an update of its rows is queued whose
store is ordered before it: its own, or one performed, or issued in its plot, by the thread's last acquire; then a row that can
be read, as the thread sees the region, gives its value in a register or in a tile, and STALE or a wait follows otherwise. DSYNC
returns OK once the party's updates and the result writes that show them are done. DREB begins a new build; DDROP ends the
region, and a DRD that waits on it returns DENIED; DSTAT reads its state word. That DRD performs its whole plot's stores, and
that a DDROP marks the DRDs that wait, is log 64; what a thread's acquires order before a DRD, of the updates and of the
batches, is log 91: readings of the model. -/
def Sys2Proof.Claim.DerivedInstructions : Prop :=
  ∀ (rd a b : Reg) (nb : Bool) (s s2 : State) (h : Nat) (r x z : Region) (party : Holder), s.cur = .thread h →
    let p := h / 8
    let v := s.ctx.tenant.getD 64
    let sel := (s.g a).toNat
    let w := (s.g b).toNat
    let s1 := drainIf s fun q => q.ofPlot p
    let row := sel / 2 ^ 12
    let lone := Tbl.get? s.regions sel
    let known := Tbl.getD s.knows h 0
    (let i : Instr := .drd rd a b nb
     sel < 2 ^ 28 → s.regionFor (s.g a) = some r → s1.regionFor (s.g a) = some z → x = z.seenBy s1 h → ¬ Claim.Waiting i s 1 →
      let n := if b = 0 then 1 else w / 2 ^ 40 % 2 ^ 16 + 1
      let rows := (List.range n).map fun k => row + k
      let ready := x.building = false ∧ ∀ k ∈ rows, x.rowReady k = true
      let y := s.tile p (w % 256)
      let off := w / 256 % 2 ^ 32
      let stillQueued := ∃ q ∈ x.queue, q.row ∈ rows ∧
        (q.party = .thread h ∨ q.at_ ≤ known ∨ (plotOfParty q.party = some p ∧ q.issued ≤ known))
      row + n ≤ r.rows → (b = 0 → r.kind ≠ 4 ∧ r.kind ≠ 5) →
      (b ≠ 0 → w < 2 ^ 56 ∧ off % 8 = 0 ∧ y.st = .ready ∧ off + n * r.rowBytes ≤ tileBytes y) →
      (ready → ¬ stillQueued → b = 0 → Paired i s s1 rd 0 (BitVec.ofNat 64 (leNat (x.rowValue row)))) ∧
      (ready → ¬ stillQueued → b ≠ 0 → Paired i s (s1.setTile p (w % 256) (y.store off (rows.flatMap fun k => x.rowValue k))) rd 0 0) ∧
      (¬ stillQueued → ¬ ready → nb = true → Paired i s s1 rd 7 0) ∧
      (¬ stillQueued → ¬ ready → nb = false → WaitsIn i s s1) ∧ (stillQueued → WaitsIn i s s1)) ∧
    (Claim.Waiting (.drd rd a b nb) s 1 → Paired (.drd rd a b nb) s s rd 4 0) ∧
    (sel < 2 ^ 28 → s.regionFor (s.g a) = none → Paired (.drd rd a b nb) s s rd 4 0) ∧
    (SyncParty s h sel party s2 →
      let i : Instr := .dsync rd a b
      let busy := ∃ e ∈ s2.regions, e.2.tenant = v ∧ ((∃ q ∈ e.2.queue, q.party = party ∧ q.at_ ≤ began i s) ∨
        ∃ q ∈ e.2.reflects, q.2.1 = party ∧ q.2.2 ≤ began i s)
      (¬ busy → Does i s (emptied s2 h) rd 0) ∧ (busy → LimitOver i s (s.g b) → Does i s s2 rd 1) ∧
      (busy → ¬ LimitOver i s (s.g b) → WaitsIn i s s2)) ∧
    (sel < 2 ^ 12 → (lone = none ∨ ∃ y, lone = some y ∧ y.tenant ≠ v) →
      Answers (.dreb rd a) s rd 4 ∧ Answers (.ddrop rd a) s rd 4 ∧ Does (.dstat rd a) s s rd (BitVec.ofInt 64 (-1))) ∧
    (sel < 2 ^ 12 → lone = some r → r.tenant = v → s.regionsScrubbing v = false →
      (r.building = true → Answers (.dreb rd a) s rd 1) ∧
      (r.building = false → ∀ y, Tbl.get? (releaseThread s h).regions sel = some y → ∃ t z, exec (.dreb rd a) s = .next t ∧ Wrote s t rd 0 ∧ Completed s.ctx t.ctx 4 ∧
        t.mem = (releaseThread s h).mem ∧ Tbl.get? t.regions sel = some z ∧ { z with building := y.building, drift := y.drift, parts := y.parts, older := y.older, redo := y.redo } = y ∧
        z.building = true ∧ z.drift = [] ∧ (∀ e ∈ z.parts, e.2.built = false)) ∧
      ∃ t, exec (.ddrop rd a) s = .next t ∧ Wrote s t rd 0 ∧ Completed s.ctx t.ctx 4 ∧
        { t with threads := s.threads } = { s with regions := Tbl.del s.regions sel } ∧
        ∀ j, j ≠ h → { t.thread j with wait := (s.thread j).wait } = s.thread j ∧
          ∀ z rd' a' b' nb', (s.thread j).wait = some z → z.instr = .drd rd' a' b' nb' → (s.thread j).tenant = some v →
            ((s.thread j).get a').toNat % 2 ^ 12 = sel → (t.thread j).wait = some { z with mark := 1 }) ∧
    (sel < 2 ^ 28 → s.regionFor (s.g a) = some r → row < r.rows →
      let stale := ((List.range r.rows).filter fun k => (r.rowParts k).any fun q => q.stale).length
      Does (.dstat rd a) s s rd (BitVec.ofNat 64 ((if r.building then 1 else 2) + r.kind * 4 + r.bfmt * 2 ^ 5 + min stale 65535 * 2 ^ 8 +
        Tbl.getD r.drift row 0 * 2 ^ 24 + r.rescans % 65536 * 2 ^ 48)))

/-- R283, R276, R284, R285: the oldest queued update of a granule that its part can take is applied: to an exact sum of integers
it adds the new element and takes off the old. A part that is built or rescanned is no longer stale, and the updates queued
for it stay queued, to be applied afterward (the point of the update sequence a build or rescan stands at is log 66, a reading
of the model); the last part built makes the region active. A changed row value is written to its row, and the row is then no
longer due.
Completes: derivedUpdateApply, derivedBuild, rowRescan, derivedResultWrite. -/
def Obligations.DerivedEvents : Prop :=
  ∀ (s : State) (id g row part : Nat) (r : Region), Tbl.get? s.regions id = some r →
    let key := partKey row part
    let only (t : State) (y : Region) : Prop := Tbl.get? t.regions id = some y ∧
      { t with regions := s.regions, mem := s.mem } = s ∧ ∀ j, j ≠ id → Tbl.get? t.regions j = Tbl.get? s.regions j
    (∀ l l' u q c old new, r.queue = l ++ u :: l' → u.elts = [(c, old, new)] → u.gran = g → Tbl.get? r.parts (partKey u.row u.part) = some q → q.built = true → q.stale = false →
      (∀ e ∈ l, e.gran = g → r.canTake e = false) →
      ∃ t y, exec (.derivedUpdateApply id g) s = .next t ∧ only t y ∧ t.mem = s.mem ∧ y.queue = l ++ l' ∧
        ∃ z, Tbl.get? y.parts (partKey u.row u.part) = some z ∧ (let wd := if r.bfmt = 4 then 8 else 32
          r.kind = 0 → r.bfmt = 4 ∨ r.bfmt = 5 → q.x = 0 → z = { q with n := q.n - signedOf wd old.toNat + signedOf wd new.toNat })) ∧
    (∀ q, Tbl.get? r.parts key = some q → q.built = false → ∃ t y z, exec (.derivedBuild id row part) s = .next t ∧ only t y ∧
      t.mem = s.mem ∧ Tbl.get? y.parts key = some z ∧ z.built = true ∧ z.stale = false ∧ y.queue = r.queue ∧
      (y.building = false ↔ r.building = false ∨ ∀ e ∈ y.parts, e.2.built = true)) ∧
    (∀ q, Tbl.get? r.parts key = some q → q.built = true → q.stale = true → ∃ t y z, exec (.rowRescan id row part) s = .next t ∧ only t y ∧
      t.mem = s.mem ∧ Tbl.get? y.parts key = some z ∧ z.built = true ∧ z.stale = false ∧ y.rescans = (r.rescans + 1) % 65536 ∧
      y.queue = r.queue) ∧
    (∀ e, row ∈ r.dirty → r.rowReady row = true → let va := r.result.toNat + row * r.rpitch
      r.rmap.find? (fun m => m.1 = va / 4096) = some e → va % 4096 + (r.rowValue row).length ≤ 4096 →
      ∃ t y, exec (.derivedResultWrite id row) s = .next t ∧ only t y ∧ Stored s.mem t.mem (e.2 * 4096 + va % 4096) (r.rowValue row) ∧
        (∀ k, k ∈ y.dirty ↔ k ∈ r.dirty ∧ k ≠ row) ∧ (∀ k, k ∈ y.reflects ↔ k ∈ r.reflects ∧ k.1 ≠ row)) ∧
    (row ∉ r.dirty ∨ r.rowReady row = false → exec (.derivedResultWrite id row) s = .next s)


/-! Launches. -/

namespace Sys2Proof.Claim

/-- The fields of a launch record that LPATCH names: number, offset and bytes (Table 15.2). -/
def fieldTable : List (Nat × Nat × Nat) :=
  [(0, 0x08, 8), (1, 0x10, 8), (2, 0x18, 8), (3, 0x20, 8), (4, 0x28, 8), (5, 0x30, 8), (6, 0x38, 8), (7, 0x40, 2), (8, 0x42, 1),
   (9, 0x43, 1), (10, 0x45, 1), (11, 0x48, 4), (12, 0x4C, 4), (13, 0x58, 8), (15, 0xB8, 8)]

/-- A completion ring that takes a record now: it exists, holds nothing back, and has room, and no older one waits (R303, R318). -/
def Takes (s : State) (v n : Nat) : Prop :=
  (s.cring v n).en = true ∧ (s.cring v n).hold = false ∧ (s.cring v n).room = true ∧
  ∀ c ∈ s.held, ¬ (c.tenant = v ∧ c.ring = n)

/-- No set and no gate knows a thread. -/
def Apart (s : State) (h : Nat) : Prop :=
  (∀ x ∈ s.sets, (∀ m ∈ x.mem, m.tid ≠ h) ∧ h ∉ x.arrivers ∧ h ∉ x.nextArr) ∧ ∀ e ∈ s.gates, h ∉ e.2.arrivers

/-- A completion record as it lies in memory (Table 15.3). -/
def recordOf (c : Completion) (seq : Nat) : List Byte :=
  leBytes 4 seq ++ leBytes 1 c.status ++ leBytes 1 c.cause ++ leBytes 2 c.slot ++ leBytes 2 c.queue ++ leBytes 6 0 ++
    leBytes 8 c.tag.toNat ++ leBytes 8 c.ns

/-- What DISP asks of a launch that it starts (R319), beside its slot at the head of its queue: no barrier waits, the class has
room, no unit is scrubbed or awaits its token, the tenant holds the plots, and contexts and granules suffice. -/
def MayStart (s : State) (i q : Nat) (r : LRec) (v : Nat) : Prop :=
  (bitAt r.flags 0 = true → (s.queue q).live.takeWhile (fun j => j ≠ i) = []) ∧
  ((s.slot i).host = true →
    (s.slots.filter fun e => e.2.counts v r.qclass && !(e.2.st == .queued && e.2.host)).length < s.lmaxOf v r.qclass) ∧
  (∀ p ∈ r.plots, (s.plot p).scrubbing = false ∧ (s.plane p r.plane).scrubbing = false ∧ s.plotOwner p = some v ∧
    (bitAt r.flags 2 = true → tokenAwaited s p r.plane = false ∧ tokenBarred s p r.plane = false)) ∧ roomFor s r = true

end Sys2Proof.Claim

/-- R314, R315, R316, R300: LPATCH writes a field of an idle slot's record in the tenant's range, or the whole record at
privilege S; LARM of a legal record submits the slot to a queue, after the thread's stores, and sets the queue's bit of
the kick bitmap; LSTAT reads the slot's state word.
Completes: lpatch, larm, lstat. -/
def Obligations.LaunchInstructions : Prop :=
  ∀ (rd a b : Reg) (s s1 : State) (h : Nat) (bs : List Byte), s.cur = .thread h →
    let v := s.ctx.tenant.getD 64
    let w := (s.g a).toNat
    let n := (s.g b).toNat
    let i := w % 2 ^ 14
    let x := s.slot i
    let f := w / 2 ^ 14
    (w < 2 ^ 19 →
      (s.inRecRange v i = false → Answers (.lpatch rd a b) s rd 4) ∧
      (s.inRecRange v i = true → x.st ≠ .idle → Answers (.lpatch rd a b) s rd 1) ∧
      (s.inRecRange v i = true → x.st = .idle →
        (∀ e ∈ fieldTable, e.1 = f → s.ctx.priv ≠ .u ∨ bitAt (fieldAt (recBytes x.record) 0x54 4) f = true →
          (n < 2 ^ (8 * e.2.2) → Does (.lpatch rd a b) s (s.setSlot i { x with record := (recBytes x.record).take e.2.1 ++ leBytes e.2.2 n ++ (recBytes x.record).drop (e.2.1 + e.2.2) }) rd 0) ∧
          (2 ^ (8 * e.2.2) ≤ n → Answers (.lpatch rd a b) s rd 6)) ∧
        (f ≤ 15 → s.ctx.priv = .u → bitAt (fieldAt (recBytes x.record) 0x54 4) f = false → Answers (.lpatch rd a b) s rd 4) ∧
        (f = 31 → s.ctx.priv = .u → Answers (.lpatch rd a b) s rd 4) ∧
        (f = 31 → s.ctx.priv ≠ .u → n % 64 = 0 → n < 2 ^ 56 → loadWords s (s.g b) 32 [] = (.ok bs, s1) →
          Does (.lpatch rd a b) s (s1.setSlot i { s1.slot i with record := bs }) rd 0))) ∧
    (w < 2 ^ 14 → n < 64 → s.inRecRange v w = true → (s.slot w).st = .idle → (s.queue (v * 64 + n)).en = true →
      (checkRecord s (.thread h) v (s.slot w).record = (.bad, s1) → Does (.larm rd a b) s s1 rd 6) ∧
      (∀ decl, checkRecord s (.thread h) v (s.slot w).record = (.ok decl, s1) → let c := fieldAt (s.slot w).record 0x44 1
        (s1.lmaxOf v c ≤ s1.classUse v c → Does (.larm rd a b) s s1 rd 2) ∧
        (s1.classUse v c < s1.lmaxOf v c → ∃ t, exec (.larm rd a b) s = .next t ∧ Wrote s t rd 0 ∧ Completed s.ctx t.ctx 4 ∧
          t.mem = (releaseThread s1 h).mem ∧ (t.slot w).st = .queued ∧ (t.slot w).queue = v * 64 + n ∧ (t.slot w).host = false ∧ (t.slot w).decl = decl ∧
          (t.queue (v * 64 + n)).subs = (s.queue (v * 64 + n)).subs ++ [w] ∧
          Tbl.getD t.kicks v 0 = Tbl.getD s.kicks v 0 ||| BitVec.ofNat 64 (2 ^ n)))) ∧
    (w < 2 ^ 14 → n < 64 → (s.slot w).st ≠ .idle → Answers (.larm rd a b) s rd 4) ∧
    Does (.lstat rd a) s s rd (if w < 2 ^ 14 ∧ s.inRecRange v w = true then let y := s.slot w
      BitVec.ofNat 64 ((match y.st with | .idle => 0 | .queued => 1 | .running => 2 | .done => 3) + y.queue % 64 * 2 ^ 8 + y.cause % 256 * 2 ^ 16)
      else BitVec.ofInt 64 (-1))

/-- R319, R73, R71, R301: DISP of the slot at the head of its queue starts its launch when it may: the slot RUNNING from this
cycle with its watchdog; a launch of one thread starts on the lowest free context of its plot in the state of Table 4.1.
A launch whose plots its tenant does not hold starts no thread. Otherwise DISP answers BUSY or BADARG.
Completes: disp. -/
def Obligations.Dispatch : Prop :=
  ∀ (rd a : Reg) (s s1 : State) (k : Nat) (conf : ConfRes), s.cur = .lodge k → s.ctx.priv = .l →
    let w := (s.g a).toNat
    let i := w % 2 ^ 14
    let q := w / 2 ^ 16
    let x := s.slot i
    let r := lrec x.record
    let v := x.queue / 64
    let rel := (s.cycle, some ((if r.wd = 0 then (s.queue x.queue).wd else r.wd) * 700))
    w < 2 ^ 32 → w / 2 ^ 14 % 4 = 0 →
    (s.fatal = true → Answers (.disp rd a) s rd 1) ∧
    (s.fatal = false → (x.st ≠ .queued ∨ (s.queue q).subs.head? ≠ some i) → Answers (.disp rd a) s rd 6) ∧
    (s.fatal = false → x.st = .queued → (s.queue q).subs.head? = some i →
      (bitAt r.flags 0 = true → (s.queue q).live.takeWhile (fun j => j ≠ i) ≠ [] → Answers (.disp rd a) s rd 1) ∧
      (MayStart s i q r v → r.pipeline = 0 → confRead s v r = (conf, s1) → (conf = .none ∨ ∃ img, conf = .load img) →
        ∃ t, exec (.disp rd a) s = .next t ∧ Wrote s t rd 0 ∧ Completed s.ctx t.ctx 4 ∧ (t.slot i).st = .running ∧
          ((t.slot i).start, (t.slot i).wdLeft) = rel ∧ (t.slot i).wdFrom = s.cycle) ∧
      (∀ p h, MayStart s i q r v → r.pipeline = 0 → r.config = 0 → r.threads = 1 → r.plots = [p] → h / 8 = p → (s.thread h).st = .free →
        (∀ j, j < h → j / 8 = p → (s.thread j).st ≠ .free) →
        ∃ t, exec (.disp rd a) s = .next t ∧ (t.slot i).threads = x.threads ++ [h] ∧ (t.plot p).gfree = (s.plot p).gfree - r.carve / 4096 ∧
          (let c := t.thread h
           c.st = .running ∧ c.pc = BitVec.ofNat 64 r.entry ∧ c.priv = .u ∧ c.cl = {} ∧ c.retired = 0 ∧ c.lnch = i ∧ c.nthr = 1 ∧ c.lidx = 0 ∧
           c.privbase = BitVec.ofNat 64 r.privbase ∧ c.carve = r.carve ∧ c.ovfptr = BitVec.ofNat 64 r.ovfbase ∧ c.asid = r.asid ∧
           c.tenant = some v ∧ c.carveMem = [] ∧
           ∀ g, c.get g = if g = 2 then BitVec.ofNat 64 (r.privbase + r.carve) else
             if 4 ≤ g.toNat ∧ g.toNat ≤ 7 then BitVec.ofNat 64 (fieldAt x.record (0x20 + 8 * (g.toNat - 4)) 8) else 0)) ∧
      (bitAt r.flags 0 = false → x.host = false → bitAt r.flags 2 = false →
        (∀ p ∈ r.plots, (s.plot p).scrubbing = false ∧ (s.plane p r.plane).scrubbing = false) → (∃ p ∈ r.plots, s.plotOwner p ≠ some v) →
        (s.cutsOf i).held = [] → ∃ t, exec (.disp rd a) s = .next t ∧ Wrote s t rd 0 ∧ t.threads = s.threads))

/-- R94, R303, R298, R297, R299, R308: a context that is ENDING ends: it is FREE and no longer of its launch; the last one
completes the launch, if no command of it is left to complete, its slot idle once the record is posted; that completion waits
for commands, and not for streams that stay bound, is log 56, a reading of the model. A completion left to post is posted with
the record of Table 15.3. A queue's entry is taken: a LAUNCH entry submits its slot, and a queue overfull is broken. A watchdog
that runs out sets its launch's bit. -/
def Sys2Proof.Claim.LaunchEvents : Prop :=
  ∀ (s : State) (h q : Nat),
    (let i := (s.thread h).lnch
     let x := s.slot i
     ((s.thread h).st ≠ .ending → exec (.threadEnd h) s = .next s) ∧
     ((s.thread h).st = .ending → x.threads ≠ [h] → ∃ t, exec (.threadEnd h) s = .next t ∧ (t.thread h).st = .free ∧
       (t.slot i).threads = x.threads.filter (fun j => j ≠ h) ∧ ∀ p ∈ t.pend, p.party ≠ .thread h) ∧
     ((s.thread h).st = .ending → x.threads = [h] → x.st = .running → x.stopped = false → (s.thread h).fadd = [] → x.fadds = [] → Apart s h →
       (lrec x.record).cring < 64 → Takes s (x.queue / 64) (lrec x.record).cring → s.launchCmds i = false → (s.cutsOf i).held = [] →
       ∃ t, exec (.threadEnd h) s = .next t ∧ (t.thread h).st = .free ∧ (t.slot i).st = .idle ∧ (t.slot i).threads = [] ∧
         ∀ p ∈ t.pend, p.lnch = some i → s.isLocal p.spa = false)) ∧
    (∀ i c, (s.slot i).comp = some c → c.slot = i → c.frees = true → Takes s c.tenant c.ring → (s.cutsOf i).held = [] →
      let g := s.cring c.tenant c.ring
      let pra := g.base + 32 * (g.posted % 2 ^ g.elog)
      ∃ t, exec (.completionPost i) s = .next t ∧ (t.slot i).st = .idle ∧ (t.slot i).comp = none ∧ (t.slot i).cause = c.cause ∧
        (t.cring c.tenant c.ring).posted = g.posted + 1 ∧ (praOk (s.tenant c.tenant) pra 32 = true →
          s.isLocal ((s.tenant c.tenant).pbase + pra) = true →
          t.mem = Mem.write s.mem ((s.tenant c.tenant).pbase + pra) (recordOf c (g.posted % (2 ^ 32 - 1) + 1)))) ∧
    (let y := s.queue q
     let v := q / 64
     let at_ := (s.tenant v).pbase + y.qbase
     let put := leNat (Mem.read s.mem at_ 4)
     let take := leNat (Mem.read s.mem (at_ + 4) 4)
     let n := (put + 2 ^ 32 - take) % 2 ^ 32
     (∀ j ∈ y.subs.head?, j < 65536) →
     (y.en = false ∨ y.err = true → exec (.queueEntryTake q) s = .next s) ∧
     (y.en = true → y.err = false → praOk (s.tenant v) y.qbase (64 + 64 * 2 ^ y.qlog) = true → s.isLocal at_ = true →
       (n = 0 → exec (.queueEntryTake q) s = .next (endReach s (queueParty q))) ∧
       (2 ^ y.qlog < n → ∃ t, exec (.queueEntryTake q) s = .next t ∧ (t.queue q).err = true) ∧
       (0 < n → n ≤ 2 ^ y.qlog → let e := Mem.read s.mem (at_ + 64 + 64 * (take % 2 ^ y.qlog)) 64
         let i := fieldAt e 2 2
         let b := recBytes (s.slot i).record
         fieldAt e 0 1 = 1 → fieldAt e 1 1 = 0 → fieldAt e 4 4 = 0 → fieldAt e 16 48 = 0 → i < 16384 → s.inRecRange v i = true →
         (s.slot i).st = .idle → recordOk s v b = true → (lrec b).pipeline = 0 → s.isLocal (at_ + 4) = true →
         s.isLocal (at_ + 64 + 64 * (take % 2 ^ y.qlog)) = true →
         ∃ t, exec (.queueEntryTake q) s = .next t ∧ Stored s.mem t.mem (at_ + 4) (leBytes 4 (take + 1)) ∧
           (t.slot i).st = .queued ∧ (t.slot i).queue = q ∧ (t.slot i).host = true ∧ (t.slot i).record = b ∧
           (t.queue q).subs = y.subs ++ [i]))) ∧
    (∀ i d, let x := s.slot i
      (x.st = .running → x.stopped = false → x.preempted = false → x.halted = false → x.wdLeft = some d → d ≤ s.cycle - x.wdFrom →
        exec (.watchdogExpiry i) s = .next ({ s.setSlot i { x with wdLeft := none } with
          wdogs := Tbl.set s.wdogs (i / 64) (Tbl.getD s.wdogs (i / 64) 0 ||| BitVec.ofNat 64 (2 ^ (i % 64))) })) ∧
      (x.wdLeft = some d → s.cycle - x.wdFrom < d → exec (.watchdogExpiry i) s = .next s))

/-- R307: once per microsecond of TIME a sample of a pipeline queue keeps when its runs at or above HIGH and at or below LOW
began; a stage whose queue has stood high for its window starts one replica on the lowest plot of the partition on which no
context runs, and one whose queue has stood low retires its newest replica. A launch with the repro flag is not sampled. That
the balancer reads the declaration its record was checked with, and begins a run anew once it has acted, is log 88, the model's
choice. -/
def Sys2Proof.Claim.StageBalancer : Prop :=
  ∀ (s s2 : State) (i n : Nat), let x := s.slot i
    let d := x.decl
    let r := lrec x.record
    let v := x.queue / 64
    let us := s.cycle * 10 / 7 / 1000
    let y := { x with sampled := us }
    let e := (d.drop 16).take 32
    let st := (d.drop 48).take 32
    let run := ((x.highs.find? fun y => y.1 = 0).map fun y => y.2).getD (0, 0)
    let began (b : Prop) [Decidable b] (f : Nat) : Nat := if b then (if f = 0 then us else f) else 0
    let hi := began (fieldAt e 0x16 2 ≤ n) run.1
    let lo := began (n ≤ fieldAt e 0x18 2) run.2
    let lasts (f : Nat) : Prop := f ≠ 0 ∧ fieldAt e 0x1C 4 ≤ us + 1 - f
    let kept (h l : Nat) := (0, h, l) :: x.highs.filter fun y => y.1 ≠ 0
    let reps := x.replicas.filter fun y => decide (y.1 = 0) && x.threads.contains y.2
    (x.st ≠ .running ∨ r.pipeline = 0 ∨ bitAt r.flags 1 = true ∨ us ≤ x.sampled → exec (.balancerSample i) s = .next s) ∧
    (x.st = .running → r.pipeline ≠ 0 → bitAt r.flags 1 = false → x.stopped = false → x.halted = false → x.preempted = false →
      x.preempting = false → x.sampled < us → fieldAt d 4 1 = 1 → fieldAt d 5 1 = 1 → fieldAt st 8 1 = 0 →
      queueFill (s.setSlot i y) v r d 0 = (some n, s2) → s2.slot i = y →
      (¬ lasts hi → ¬ lasts lo → exec (.balancerSample i) s = .next (s2.setSlot i { y with highs := kept hi lo })) ∧
      (∀ p h, lasts hi → reps.length < fieldAt st 0x0A 1 →
        p ∈ s2.plotsOf v → (∀ j, j / 8 = p → (s2.thread j).st ≠ .running) →
        (∀ p', p' ∈ s2.plotsOf v → p' < p → ∃ j, j / 8 = p' ∧ (s2.thread j).st = .running) → s2.plotsOf v = (s2.plotsOf v).mergeSort →
        h / 8 = p → (s2.thread h).st = .free → (∀ j, j < h → j / 8 = p → (s2.thread j).st ≠ .free) → r.carve / 4096 ≤ (s2.plot p).gfree →
        ∃ t, exec (.balancerSample i) s = .next t ∧ (0, h) ∈ (t.slot i).replicas ∧
          (t.slot i).threads = x.threads ++ [h] ∧ (t.thread h).st = .running ∧ (t.thread h).pc = BitVec.ofNat 64 (fieldAt st 0 8)) ∧
      (∀ h, lasts lo → ¬ lasts hi → reps = [(0, h)] → (s.thread h).stageid.toNat / 2 ^ 10 % 2 = 0 → h ∉ x.retiring → r.config = 0 →
        s2.threads = s.threads →
        ∃ t, exec (.balancerSample i) s = .next t ∧ (t.thread h).stageid = (s.thread h).stageid ||| 0x400))

/-! The lodge. -/

/-- R317, R310, R318, R311: on a lodge core at privilege L, KSCAN reads a word of a bitmap and clears it; JRNL writes its record,
numbered and checked, to both banks and returns its number; CHOLD and CREL set and clear holds, CREL posting what was held;
HBEAT resets the core's heartbeat and reads the roles and ages.
Completes: kscan, jrnl, chold, crel, hbeat. -/
def Obligations.LodgeInstructions : Prop :=
  ∀ (rd a : Reg) (s : State) (k : Nat), s.cur = .lodge k → s.ctx.priv = .l →
    let w := (s.g a).toNat
    let key := w / 64 % 64 * 64 + w % 64
    let ring := Tbl.getD s.crings key {}
    (w < 64 → Does (.kscan rd a) s { s with kicks := Tbl.del s.kicks w } rd (Tbl.getD s.kicks w 0)) ∧
    (256 ≤ w → w < 512 → Does (.kscan rd a) s { s with wdogs := Tbl.del s.wdogs (w - 256) } rd (Tbl.getD s.wdogs (w - 256) 0)) ∧
    (64 ≤ w → w < 256 ∨ 512 ≤ w → Answers (.kscan rd a) s rd 6) ∧
    (w % 64 = 0 → w < 0x200000 → 0x80000 ≤ w % 0x100000 → s.sramBad = [] → let o := 64 * (s.jnext % 8192)
      ∃ t r, exec (.jrnl rd a) s = .next t ∧ Wrote s t rd (BitVec.ofNat 64 s.jnext) ∧ Completed s.ctx t.ctx 4 ∧ t.jnext = s.jnext + 1 ∧
        t.sram = Mem.write (Mem.write s.sram o r) (0x100000 + o) r ∧ r.length = 64 ∧ r.take 8 = leBytes 8 s.jnext ∧
        r[9]? = some (BitVec.ofNat 8 k) ∧ (∀ j, 8 ≤ j → j < 60 → j ≠ 9 → r[j]? = some (Mem.get s.sram (w + j))) ∧
        r.drop 60 = leBytes 4 (crc32c (r.take 60)).toNat) ∧
    (w % 64 ≠ 0 ∨ 0x200000 ≤ w ∨ w % 0x100000 < 0x80000 → Answers (.jrnl rd a) s rd 6) ∧
    (8192 ≤ w → Answers (.chold rd a) s rd 6 ∧ Answers (.crel rd a) s rd 6) ∧
    (w < 4096 → Does (.chold rd a) s { s with crings := Tbl.set s.crings key { ring with hold := true } } rd 0) ∧
    (4096 ≤ w → w < 8192 → ∃ t, exec (.chold rd a) s = .next t ∧ Wrote s t rd 0 ∧ ∀ e ∈ s.crings, (Tbl.getD t.crings e.1 {}).hold = true) ∧
    (w < 4096 → s.fatal = false → (∀ c ∈ s.held, c.tenant * 64 + c.ring ≠ key) →
      Does (.crel rd a) s { s with crings := Tbl.set s.crings key { ring with hold := false } } rd 0) ∧
    (∀ c v n, w < 4096 → s.fatal = false → s.held = [c] → c.tenant = v → c.ring = n → n < 64 → v * 64 + n = key → ring.en = true →
      ring.room = true → let pra := ring.base + 32 * (ring.posted % 2 ^ ring.elog)
      ∃ t, exec (.crel rd a) s = .next t ∧ Wrote s t rd 0 ∧ t.held = [] ∧ (t.cring v n).hold = false ∧ (t.cring v n).posted = ring.posted + 1 ∧
        (praOk (s.tenant v) pra 32 = true → s.isLocal ((s.tenant v).pbase + pra) = true →
          t.mem = Mem.write s.mem ((s.tenant v).pbase + pra) (recordOf c (ring.posted % (2 ^ 32 - 1) + 1)))) ∧
    (w < 8192 → s.fatal = true → Answers (.crel rd a) s rd 0) ∧
    (∃ t v, exec (.hbeat rd) s = .next t ∧ Wrote s t rd v ∧ Completed s.ctx t.ctx 4 ∧ (t.lodge k).beat = s.cycle ∧
      ∀ c, c < 4 → let f := v.toNat / 2 ^ (16 * c) % 2 ^ 16
        ((s.lodge c).role = .active → f = 1 + 4 * (if c = k then 0 else min ((s.cycle - (s.lodge c).beat) / 700) 16383)) ∧
        ((s.lodge c).role = .standby → f % 4 = 0) ∧ ((s.lodge c).role = .failed → f % 4 = 2))

namespace Sys2Proof.Claim

/-- The take-over from an active lodge core (R311, R393, R388): it has FAILED and stops, every ring holds, LFAULT names it, and the
lowest standby core is ACTIVE at TAKEVEC; without one the lodge state is fatal. -/
def TakenOver (s t : State) (k : Nat) (lfault : Word) : Prop :=
  (t.lodge k).role = .failed ∧ (t.lodge k).ctx.st = .stopped ∧ t.lfault = lfault ∧ (∀ e ∈ s.crings, (Tbl.getD t.crings e.1 {}).hold = true) ∧
  (∀ n, n < 4 → (s.lodge n).role = .standby → (∀ j, j < n → (s.lodge j).role ≠ .standby) →
    (t.lodge n).role = .active ∧ (t.lodge n).ctx = { st := .running, priv := .l, pc := s.takevec } ∧ (t.lodge n).beat = s.cycle ∧ t.fatal = s.fatal) ∧
  ((∀ n, n < 4 → (s.lodge n).role ≠ .standby) → t.fatal = true ∧ t.vec0 = true)

/-- A window command with an OP that is to be performed, for the slot it names, on which no other core's command has begun. -/
def WinAsks (s : State) (k op i : Nat) : Prop :=
  let l := s.lodge k
  l.busy = true ∧ l.done = false ∧ l.begun = false ∧ l.cmd.toNat % 2 ^ 8 = op ∧ l.cmd.toNat / 2 ^ 22 % 2 ^ 10 = 0 ∧ l.recidx = i ∧
  ∀ e ∈ s.lodges, e.1 ≠ k → e.2.begun = true → e.2.recidx ≠ i

/-- The window command performed with a result. -/
def WinDone (t : State) (k result : Nat) : Prop := (t.lodge k).done = true ∧ (t.lodge k).result = result

end Sys2Proof.Claim

/-- R311, R393, R388: an active core whose heartbeat is 100 µs old, or whose instruction memory fails, is taken over. That
LFAULT names the core also where no standby is left is log 48, a reading of the model. -/
def Sys2Proof.Claim.LodgeTakeOver : Prop :=
  ∀ (s : State) (k x : Nat), (∀ c, c < 4 → s.worn (.lodge c) = none) → let l := s.lodge k
    (l.role = .active → 70000 ≤ s.cycle - l.beat → ∃ t, exec (.heartbeatTimeout k) s = .next t ∧ TakenOver s t k (BitVec.ofNat 64 (k + 4))) ∧
    (l.role ≠ .active ∨ s.cycle - l.beat < 70000 → exec (.heartbeatTimeout k) s = .next s) ∧
    (l.role = .active → ∃ t, exec (.instructionMemoryError k x) s = .next t ∧ TakenOver s t k (BitVec.ofNat 64 k)) ∧
    (l.role ≠ .active → exec (.instructionMemoryError k x) s = .next s)

/-- R349, R350, R351: the commands of the lodge control window. PEEK reads a slot's state and progress; STOP stops a running
launch's threads, channels and watchdog, and is done once those channels are IDLE and have stored; CUT begins a lodge cut, or is
done where there is no plane; DRAIN leaves the launch's planes UNCONFIGURED; RESET frees its contexts; POST posts its
completion. A command whose requirement is unmet ends BADARG. -/
def Sys2Proof.Claim.LodgeWindow : Prop :=
  ∀ (s : State) (k i : Nat), let x := s.slot i
    let l := s.lodge k
    let a := l.cmd.toNat / 2 ^ 32 % 2 ^ 8
    let bit (b : Bool) (n : Nat) : Nat := if b then 2 ^ n else 0
    (WinAsks s k 0 i → ∃ t, exec (.winPeek k) s = .next t ∧ { t with lodges := s.lodges } = s ∧ WinDone t k 0 ∧ (t.lodge k).data =
      (match x.st with | .idle => 0 | .queued => 1 | .running => 2 | .done => 3) + x.queue % 4096 * 4 + bit x.stopped 14 + bit x.cutdone 15 +
      bit x.drained 16 + bit x.reset_ 17) ∧
    (WinAsks s k 1 i → x.st = .running → x.stopped = false → 1 ≤ a → a ≤ 0x13 → ∃ t, exec (.winStop k) s = .next t ∧
      (chansOf s i = [] → WinDone t k 0) ∧ (chansOf s i ≠ [] → (t.lodge k).done = false ∧ (t.lodge k).begun = true) ∧
      (∀ c ∈ chansOf s i, (t.chan c).stopping = true) ∧
      (t.slot i).stopped = true ∧ (t.slot i).wdLeft = none ∧ ∀ h ∈ x.threads,
      let st := (s.thread h).st
      (t.thread h).st = if st = .running ∨ st = .waiting then .stopped else st) ∧
    (l.busy = true → l.done = false → l.begun = true → l.cmd.toNat % 2 ^ 8 = 1 → l.recidx = i →
      (chansOf s i = [] → ∃ t, exec (.winStop k) s = .next t ∧ WinDone t k 0) ∧ (chansOf s i ≠ [] → exec (.winStop k) s = .next s)) ∧
    (WinAsks s k 2 i → x.stopped = true → x.cutdone = false →
      (s.regionPlanes i = [] → ∃ t, exec (.winCut k) s = .next t ∧ WinDone t k 0 ∧ (t.slot i).cutdone = true) ∧
      (s.regionPlanes i ≠ [] → (s.cutsOf i).active = false → x.halted = false → ∃ t, exec (.winCut k) s = .next t ∧
        (t.lodge k).begun = true ∧ (t.lodge k).data = 0x8000 + ((s.cutsOf i).count + 1) % 0x8000 ∧ (t.cutsOf i).active = true)) ∧
    (l.busy = true → l.done = false → l.begun = true → l.cmd.toNat % 2 ^ 8 = 2 → l.recidx = i → (s.cutsOf i).active = false → (s.cutsOf i).lodge = true →
      ∃ t, exec (.winCut k) s = .next t ∧ WinDone t k (if (s.cutsOf i).abandoned then 3 else 0) ∧ (t.slot i).cutdone = true) ∧
    (WinAsks s k 3 i → x.cutdone = true → x.drained = false → ∃ t, exec (.winDrain k) s = .next t ∧ WinDone t k 0 ∧ (t.slot i).drained = true ∧
      ∀ e ∈ s.regionPlanes i, (t.plane e.1 e.2).st = .unconfigured) ∧
    (WinAsks s k 4 i → x.drained = true → x.reset_ = false → ∃ t, exec (.winReset k) s = .next t ∧ WinDone t k 0 ∧ (t.slot i).reset_ = true ∧
      (t.slot i).threads = [] ∧ ∀ h ∈ x.threads, (t.thread h).st = .free) ∧
    (WinAsks s k 5 i → x.reset_ = true → x.fadds = [] → a ≤ 5 → s.launchCmds i = false → (lrec x.record).cring < 64 → Takes s (x.queue / 64) (lrec x.record).cring →
      ∃ t, exec (.winPost k) s = .next t ∧ WinDone t k 0 ∧ (t.slot i).st = .idle) ∧
    (l.busy = true → l.done = true → exec (.windowCommandFinish k) s = .next (s.setLodge k { l with busy := false })) ∧
    (∀ op, WinAsks s k op i → (5 < op ∨ (op = 1 ∧ x.st ≠ .running) ∨ (op = 2 ∧ x.stopped = false) ∨ (op = 3 ∧ x.cutdone = false) ∨
        (op = 4 ∧ x.drained = false) ∨ (op = 5 ∧ x.reset_ = false)) →
      exec (.windowCommandFinish k) s = .next (s.setLodge k { l with busy := false, result := 6, data := 0 })) ∧
    (l.busy = false → exec (.windowCommandFinish k) s = .next s)


/-! What lattices do. -/

namespace Sys2Proof.Claim

/-- The started command with a number on a plot, and the plot's started commands once it has completed. -/
def Started (s : State) (p id : Nat) (k : CmdKind) : Prop := ((s.plot p).mops.find? fun c => c.id = id).map (fun c => c.k) = some k
def EndedOp (s t : State) (p id : Nat) : Prop := (t.plot p).mops = (s.plot p).mops.filter fun c => !(c.id == id)

/-- A command's turn on a tile has come (R204): no command started before it, and not completed, names the tile. -/
def TurnOn (s : State) (p id n : Nat) : Prop := s.turnOf p id [n] (fun _ => false) = true

end Sys2Proof.Claim

/-- R198: a chunk whose columns lose nothing at the row's exponent, and whose sums fit in 40 bits, is added exactly: each
mantissa takes S × 2^(f − X), the exponent stands, and a column without special products keeps its code. -/
def Obligations.RowAccumulation : Prop :=
  ∀ (t : Acc) (i : Nat) (cs : List Chunk), (t.row i).empty = false → cs.length = 128 →
    (∀ j c, cs[j]? = some c → (t.row i).x ≤ c.f ∧ -(2 ^ 39) ≤ (t.row i).ms.getD j 0 + c.s * 2 ^ (c.f - (t.row i).x).toNat ∧
      (t.row i).ms.getD j 0 + c.s * 2 ^ (c.f - (t.row i).x).toNat < 2 ^ 39) →
    let r := (addChunk t i cs).row i
    r.empty = false ∧ r.x = (t.row i).x ∧ (∀ j c, cs[j]? = some c →
      r.ms.getD j 0 = (t.row i).ms.getD j 0 + c.s * 2 ^ (c.f - (t.row i).x).toNat ∧
      (c.spec = [] → r.spcs.getD j 0 = (t.row i).spcs.getD j 0)) ∧
    (∀ k, k ≠ i → (addChunk t i cs).row k = t.row k) ∧ (addChunk t i cs).ovf = t.ovf

/-- R208, R209, R192, R194, R193, R203: a load of a well-formed slice ends with its slot VALID, of another with the lattice
FAULTED. A binding whose turn has come starts; once its slice is complete in the shadow and the last binding done, it runs. Once
the row fired last has had its cycles, a row of 12 tokens of a narrow format without scales is taken and added to its tile row,
and counts off its binding. An end-of-tile marker is consumed at a row boundary; one inside a row faults the lattice. That one
is consumed also where no binding runs is log 50, a reading of the model. -/
def Sys2Proof.Claim.LatticeEvents : Prop :=
  ∀ (s : State) (p l k : Nat), s.latPlane p l = some k → let x := s.lat p l
    let pl := s.plane p k
    let ch := pl.epBuf (128 + l)
    (∀ n bs r va s1, let w := x.slot n
      w.st = .loading → (w.cmd = 0 ∨ ∃ kd, Started s p w.cmd kd) → sliceBody s p l n w = ((.ok bs, r, va), s1) →
      ({ w with body := bs, st := .valid }.wellFormed = true → ∃ t, exec (.sliceLoadEnd p l n) s = .next t ∧
        (t.lat p l).slot n = { w with body := bs, st := .valid } ∧ EndedOp s1 t p w.cmd ∧ (t.lat p l).faulted = (s1.lat p l).faulted) ∧
      ({ w with body := bs, st := .valid }.wellFormed = false → ∃ t, exec (.sliceLoadEnd p l n) s = .next t ∧
        ((t.lat p l).slot n).st = .failed ∧ ((t.lat p l).slot n).lines = 0 ∧ (t.lat p l).faulted = true ∧ EndedOp s1 t p w.cmd)) ∧
    (∀ b, nextBind s p l = some b → s.latRuns p l = true → x.starting = none →
      s.turnOf p b.cmd (bTiles b.word) (fun kd => match kd with | .mbind _ => true | _ => false) = true →
      ((∀ n ∈ bTiles b.word, (s.acc p n).wide = isWide (bFmt b.word)) → bSplit b.word = false → ∃ t c, exec (.bindingStart p l) s = .next t ∧
        c ∈ (t.lat p l).binds ∧ c.cmd = b.cmd ∧ c.word = b.word ∧ c.started = true ∧ (t.lat p l).faulted = x.faulted) ∧
      ((∃ n ∈ bTiles b.word, (s.acc p n).wide ≠ isWide (bFmt b.word)) → ∃ t, exec (.bindingStart p l) s = .next t ∧ (t.lat p l).faulted = true)) ∧
    (∀ b w, x.starting = some b → x.shadow = some w → s.latRuns p l = true → x.running = none → x.work = none →
      ∃ t c, exec (.weightReload p l) s = .next t ∧ (t.lat p l).running = some c ∧ c.cmd = b.cmd ∧ c.word = b.word ∧ c.left = b.left ∧
        (t.lat p l).actBody = some w ∧ (t.lat p l).actFmt = some w.bfmt ∧ (t.lat p l).shadow = none) ∧
    (∀ b, x.running = some b → s.latRuns p l = true → x.work = none → s.withheldNow p = false →
      (∀ c, x.lastFire = some c → c + x.span ≤ s.cycle) → isWide (bFmt b.word) = false → bSplit b.word = false →
      isBfp (bFmt b.word) = false → TurnOn s p b.cmd (bTile b.word) → 12 ≤ (ahead ch).length →
      let n := bTile b.word
      let row := bRow0 b.word + (bRows b.word - b.left)
      ∃ t, exec (.rowFire p l) s = .next t ∧ (t.plane p k).epBuf (128 + l) = ch.drop 12 ∧ (t.lat p l).rows = x.rows + 1 ∧
        (t.lat p l).lastFire = some s.cycle ∧ (t.lat p l).span = latS (bFmt b.word) ∧ (t.lat p l).work = none ∧
        t.acc p n = (rowChunks x (bFmt b.word) { a := (ch.take 12).map Tok.value, scale := [], k := 0 }).foldl (fun a c => addChunk a row c) (s.acc p n) ∧
        (b.left ≤ 1 → (∀ c ∈ (t.lat p l).binds, c.cmd ≠ b.cmd) ∧ EndedOp s t p b.cmd) ∧
        (1 < b.left → (t.lat p l).running = some { b with left := b.left - 1 })) ∧
    (s.latRuns p l = true → x.work = none → s.withheldNow p = false →
      (∀ b, x.running = some b → isBfp (bFmt b.word) = false) → (x.running = none → pl.connected (132 + l) = false) →
      (ch.head?.map (fun t => t.k) = some .eot → pl.epBuf (132 + l) = [] → ∃ t, exec (.rowFire p l) s = .next t ∧ (t.plane p k).epBuf (128 + l) = ch.tail ∧
        t.lats = s.lats) ∧
      (0 < (ahead ch).length → (ahead ch).length < 12 → (ahead ch).length < ch.length → ∃ t, exec (.rowFire p l) s = .next t ∧ (t.lat p l).faulted = true))

/-- R210, R212, R211, R218, R203: MZERO clears each tile it names in its turn, MNORM normalises rows of a narrow tile, and each
completes. MREAD to the lattice's sources writes its row's bytes as tokens, 8 bytes each, and after the last row an
end-of-tile marker; a read-out in the other mode faults the lattice. -/
def Sys2Proof.Claim.AccumulatorEvents : Prop :=
  ∀ (s : State) (p id : Nat),
    (∀ sel, Started s p id (.mzero sel) → (∀ n, n < 16 → bitAt sel.toNat n = true → s.latRuns p (n / 4) = true ∧ TurnOn s p id n) →
      ∃ t, exec (.mzeroClear p id) s = .next t ∧ EndedOp s t p id ∧
        (∀ n, n < 16 → bitAt sel.toNat n = true → n ∉ s.clearedBy p id → t.acc p n = { wide := bitAt sel.toNat 16 }) ∧
        (∀ n, n < 16 → bitAt sel.toNat n = false ∨ n ∈ s.clearedBy p id → t.acc p n = s.acc p n)) ∧
    (∀ sel, Started s p id (.mnorm sel) → let n := sel.toNat % 16
      s.latRuns p (n / 4) = true → TurnOn s p id n → ∃ t, exec (.mnormApply p id) s = .next t ∧ EndedOp s t p id ∧
        ((s.acc p n).wide = true → t.acc p n = s.acc p n) ∧
        ((s.acc p n).wide = false → t.acc p n = ((List.range (sel.toNat / 2 ^ 10 % 64 + 1)).map fun i => sel.toNat / 16 % 64 + i).foldl
          (fun a i => normRow a (sel.toNat / 2 ^ 16 % 64) i) (s.acc p n))) ∧
    (∀ sel dst clr e4 k, Started s p id (.mread sel dst clr e4) → let w := sel.toNat
      let n := w % 16
      let l := n / 4
      let x := s.lat p l
      let pl := s.plane p k
      let per := (if bitAt w 20 then 64 else 128) * outBytes (w / 2 ^ 16 % 8) / 8
      let rows := w / 2 ^ 10 % 64 + 1
      let row := x.readPos / per
      let i := x.readPos % per
      let out := outRow (w / 2 ^ 16 % 8) e4 ((s.acc p n).rowVals (w / 16 % 64 + row))
      s.latRuns p l = true → TurnOn s p id n → s.latPlane p l = some k →
      ((s.acc p n).wide ≠ bitAt w 20 → ∃ t, exec (.mreadReadout p id) s = .next t ∧ (t.lat p l).faulted = true ∧ EndedOp s t p id ∧ t.accs = s.accs) ∧
      ((s.acc p n).wide = bitAt w 20 → bitAt w 19 = true → firstReader s p id l = true → 0 < pl.srcRoom (192 + 2 * l) → 0 < pl.srcRoom (193 + 2 * l) →
        (row < rows → w / 2 ^ 16 % 8 ≠ 5 → ∃ t, exec (.mreadReadout p id) s = .next t ∧ (t.lat p l).readPos = x.readPos + 1 ∧
          Emitted pl (t.plane p k) (192 + 2 * l) (BitVec.ofNat 64 (leNat ((out.1.drop (8 * i)).take 8))) 0 x.hor ∧
          (clr = false → t.accs = Tbl.set s.accs (p * 16 + n) (s.acc p n))) ∧
        (row = rows → ∃ t, exec (.mreadReadout p id) s = .next t ∧ (t.lat p l).readPos = 0 ∧ EndedOp s t p id ∧ t.accs = s.accs ∧
          (pl.fed (192 + 2 * l) ≠ [] → ((t.plane p k).srcBuf (192 + 2 * l)).getLast?.map (fun q => q.k) = some .eot))) ∧
      (∀ s1, (s.acc p n).wide = bitAt w 20 → bitAt w 19 = false → w / 2 ^ 16 % 8 ≠ 5 →
        tileWrite s p (dst.toNat % 256) (dst.toNat / 2 ^ 16 % 2 ^ 32 : Nat) ((List.range rows).flatMap fun j =>
          (outRow (w / 2 ^ 16 % 8) e4 ((s.acc p n).rowVals (w / 16 % 64 + j))).1) = .ok s1 →
        ∃ t, exec (.mreadReadout p id) s = .next t ∧ EndedOp s t p id ∧ (t.tile p (dst.toNat % 256)).bytes = (s1.tile p (dst.toNat % 256)).bytes ∧
          (clr = false → t.acc p n = s.acc p n)))

/-- R201: a result written for the presented column becomes its element, and the column is completed; resuming, the next column
is presented, and with none left the tile is released. A free assist context enters its handler for the first column, once the
cycle in which its tile stopped is over. Without a presented column nothing happens. -/
def Sys2Proof.Claim.AssistEvents : Prop :=
  ∀ (s : State) (p : Nat) (v : Word), let x := s.plot p
    (∀ r rest, x.await = false → x.apend = r :: rest → r.dead = false → r.col < 64 → ∃ t, exec (.assistresWrite p v) s = .next t ∧
      (t.plot p).await = true ∧ (t.plot p).acnt = x.acnt + 1 ∧ (t.plot p).apend = x.apend ∧
      ((t.acc p r.tile).elems r.row)[r.col]? = some v ∧
      (∀ j, j ≠ r.col → ((t.acc p r.tile).elems r.row)[j]? = ((s.acc p r.tile).elems r.row)[j]?) ∧
      (∀ i, i ≠ r.row → (t.acc p r.tile).elems i = (s.acc p r.tile).elems i)) ∧
    (x.await = true ∨ x.apend = [] → exec (.assistresWrite p v) s = .next s) ∧
    (∀ r rest, x.await = true → x.apend = r :: rest → (r.dead = true ∨ (∃ q ∈ rest, q.tile = r.tile ∧ q.dead = false) ∧ ∃ q ∈ rest, q.lat = r.lat ∧ q.dead = false) →
      ∃ t, exec (.assistResume p) s = .next t ∧ (t.plot p).await = false ∧ (t.plot p).apend = rest ∧ t.accs = s.accs ∧
        (x.assist.st = .free → (∃ q ∈ rest, q.at_ < s.cycle) → (t.plot p).assist.st ≠ .free)) ∧
    (∀ r, x.await = true → x.apend = [r] → r.dead = false → (s.lat p r.lat).running = none → ∃ t, exec (.assistResume p) s = .next t ∧
      (t.plot p).await = false ∧ (t.plot p).apend = [] ∧ (t.acc p r.tile).assist = false) ∧
    (x.await = false → x.assist.st ≠ .free ∨ (∀ q ∈ x.apend, s.cycle ≤ q.at_) → exec (.assistResume p) s = .next s) ∧
    (x.await = false → x.assist.st = .free → (∃ q ∈ x.apend, q.at_ < s.cycle) → ∃ t, exec (.assistResume p) s = .next t ∧
      (t.plot p).assist.st ≠ .free ∧ (t.plot p).assist.pc = x.avec ∧ (t.plot p).assist.ecause = 0x10 ∧ (t.plot p).apend = x.apend ∧
      t.accs = s.accs)


/-! Cuts, pre-emption, frames and halts. -/

/-- R324, R325, R206: a cell whose every connected input holds the same marker aligns: the markers go, every output that feeds an
endpoint gets one, and the cell has done cut n. Two different markers at its inputs fault the plane. A lattice with no
row or assist in progress aligns likewise.
Completes: cellCutAlign, latticeCut. -/
def Obligations.CutAlignment : Prop :=
  ∀ (s : State) (p k c l n : Nat), k < 4 → c < 16 →
    let x := s.cell p k c
    let pl := s.plane p k
    let ins := pl.cellInputs c
    let at_ (ep : Nat) := (pl.epBuf ep).head?.map fun t => t.k
    (s.planeRuns p k = true → x.halted = false → x.land_ = [] → ins ≠ [] →
      ((∀ ep ∈ ins, at_ ep = some (.cut n) ∧ ((pl.epBuf ep).filter fun t => t.k == .cut n).length = 1) → x.run = none →
        (∀ q, q < 8 → pl.fed (c * 8 + q) ≠ [] → outRoom pl x c q = true) →
        ∃ t, exec (.cellCutAlign p k c) s = .next t ∧ (t.cell p k c).cutDone = some n ∧ (∀ ep ∈ ins, (t.plane p k).epBuf ep = (pl.epBuf ep).tail) ∧
          ∀ q, q < 8 → pl.fed (c * 8 + q) ≠ [] → ((t.plane p k).srcBuf (c * 8 + q)).getLast?.map (fun t => t.k) = some (.cut n)) ∧
      (∀ e e' n', e ∈ ins → e' ∈ ins → at_ e = some (.cut n) → at_ e' = some (.cut n') → n ≠ n' →
        ∃ t, exec (.cellCutAlign p k c) s = .next t ∧ (t.plane p k).st = .faulted ∧ (t.cell p k c).halted = true)) ∧
    (s.latPlane p l = some k → s.latRuns p l = true → (s.lat p l).work = none → (∀ r ∈ (s.plot p).apend, r.lat ≠ l) →
      pl.connected (128 + l) = true → pl.connected (132 + l) = false → at_ (128 + l) = some (.cut n) →
      ((pl.epBuf (128 + l)).filter fun t => t.k == .cut n).length = 1 → 0 < pl.srcRoom (192 + 2 * l) → 0 < pl.srcRoom (193 + 2 * l) →
      ∃ t, exec (.latticeCut p l) s = .next t ∧ (t.lat p l).cutSeen = some n ∧ (t.plane p k).epBuf (128 + l) = (pl.epBuf (128 + l)).tail)

/-- R326, R328, R332, R330: a cut whose every part is taken completes, and where the launch keeps images is the launch's last
complete cut from then on; one whose image does not fit is abandoned, and the last complete one stays. The periodic cut of
a rollback-safe launch begins once CUTINT has passed. A fault is answered by one rollback: the region's planes are
CONFIGURED again, without tokens; a launch whose image does not stand completes. That a rollback is made also of a launch that
STOP has stopped, until DRAIN, is log 37, a reading of the model.
Completes: cutComplete, cutAbandon, periodicCut, rollback. -/
def Obligations.CutEvents : Prop :=
  ∀ (s : State) (r : Nat), let c := s.cutsOf r
    let x := s.slot r
    let pages := s.imageSize r (snapWhole s r)
    (cutReady s r = true → writesImage s r = false → ∃ t, exec (.cutComplete r) s = .next t ∧ (t.cutsOf r).active = false ∧
      (t.cutsOf r).exists_ = c.exists_) ∧
    (cutReady s r = true → writesImage s r = true → imageFits s r pages = true → ∃ t, exec (.cutComplete r) s = .next t ∧
      (t.cutsOf r).active = false ∧ (t.cutsOf r).exists_ = true ∧ (t.cutsOf r).rolled = false ∧ (t.cutsOf r).lastNum = c.num ∧
      (t.cutsOf r).buffer = 1 - c.buffer) ∧
    (cutReady s r = true → writesImage s r = true → imageFits s r pages = false → exec (.cutComplete r) s = .next s ∧
      ∃ t, exec (.cutAbandon r) s = .next t ∧ (t.cutsOf r).active = false ∧ (t.cutsOf r).abandoned = true ∧ (t.cutsOf r).exists_ = c.exists_ ∧
        (t.cutsOf r).lastNum = c.lastNum) ∧
    (cutReady s r = false → exec (.cutComplete r) s = .next s ∧ exec (.cutAbandon r) s = .next s) ∧
    (x.st = .running → x.stopped = false → x.halted = false → x.preempted = false → x.preempting = false → s.isRollback (some r) = true →
      c.active = false → s.regionPlanes r ≠ [] →
      ((s.tenant (x.queue / 64)).cutint * 700 ≤ s.cycle - max c.begun x.start → ∃ t, exec (.periodicCut r) s = .next t ∧ (t.cutsOf r).active = true ∧
        (t.cutsOf r).num = 0x8000 + (c.count + 1) % 0x8000) ∧
      (s.cycle - max c.begun x.start < (s.tenant (x.queue / 64)).cutint * 700 → exec (.periodicCut r) s = .next s)) ∧
    (x.st = .running → x.drained = false → x.halted = false → x.preempted = false → c.pending = true →
      ((imageRead s r c.last).1 = .here → c.replay = [] → brokenPlanes s r = [] → ∃ t, exec (.rollback r) s = .next t ∧ (t.cutsOf r).rolled = true ∧ (t.cutsOf r).active = false ∧
        (t.cutsOf r).pending = false ∧ ∀ e ∈ s.regionPlanes r, (s.plane e.1 e.2).st ≠ .loading → (s.plane e.1 e.2).routes ≠ [] →
          (t.plane e.1 e.2).st = .configured ∧ (t.plane e.1 e.2).src = [] ∧ (t.plane e.1 e.2).ep = []) ∧
      ((imageRead s r c.last).1 = .failed → x.fadds = [] → (∀ h ∈ x.threads, (s.thread h).fadd = []) → s.launchCmds r = false → Takes s (x.queue / 64) (lrec x.record).cring → ∃ t, exec (.rollback r) s = .next t ∧ (t.slot r).st = .idle)) ∧
    (c.pending = false → exec (.rollback r) s = .next s)

/-- R331, R320, R339: a pre-emption stops the launch's threads and cuts its region; once the cut is complete its planes are
unloaded and its contexts FREE, its watchdog standing; when it resumes, on plots that take its threads, they run again with their
registers. Where the cut is abandoned the launch runs on, and where a rollback has given it up it is injected anew (log 49, a
reading of the model). A context in DOUBLE is reset, and its launch is to complete with STATUS FAULT and the first cause.
Completes: doubleReset, preemption, preemptionResume. -/
def Obligations.PreemptionEvents : Prop :=
  ∀ (s s1 s2 : State) (i h : Nat), let x := s.slot i
    let c := s.cutsOf i
    (x.st = .running → x.stopped = false → x.halted = false → x.preempted = false → c.active = false →
      (x.preempting = false → (∀ j ∈ x.threads, (s.thread j).st = .running ∨ (s.thread j).st = .waiting) →
        ∃ t, exec (.preemption i) s = .next t ∧ (t.slot i).preempting = true ∧ (t.cutsOf i).active = true ∧
        ∀ j ∈ x.threads, (t.thread j).st = .stopped) ∧
      (x.preempting = true → c.preempt = true → c.abandoned = false → writesImage s i = true → ∃ t, exec (.preemption i) s = .next t ∧
        (t.slot i).preempted = true ∧ (t.slot i).preempting = false ∧ (t.slot i).threads = [] ∧ (∀ j ∈ x.threads, (t.thread j).st = .free) ∧
        (∀ e ∈ s.regionPlanes i, (t.plane e.1 e.2).st = .unconfigured) ∧ (t.slot i).wdLeft = x.wdLeft.map fun w => w - (s.cycle - x.wdFrom)) ∧
      (x.preempting = true → c.preempt = true → c.abandoned = true → ∃ t, exec (.preemption i) s = .next t ∧
        (t.slot i).preempting = false ∧ (t.slot i).preempted = false) ∧
      (x.preempting = true → c.preempt = false → ∃ t, exec (.preemption i) s = .next t ∧ (t.slot i).preempting = true ∧
        (t.cutsOf i).active = true ∧ (t.cutsOf i).preempt = true)) ∧
    (∀ d l, x.preempted = true → x.halted = false → x.stopped = false → c.last.threads = [(h, d)] → d.st = .stopped → (s.thread h).st = .free →
      plotTakes s x (h / 8) = true → latsBusy s c.last.planes = false →
      imageRead s i c.last = (.here, s1) → readPlanes s1 (x.queue / 64) c.last.planes = (some l, s2) → ∃ t, exec (.preemptionResume i) s = .next t ∧
        (t.slot i).preempted = false ∧ (t.slot i).threads = [h] ∧ (t.thread h).regs = d.regs ∧ (t.thread h).pc = d.pc ∧
        (t.thread h).priv = d.priv ∧ ((t.thread h).st = .running ∨ (t.thread h).st = .waiting)) ∧
    (let d := s.thread h
     let y := s.slot d.lnch
     (d.st = .double → d.ecause.toNat % 256 ≠ 0 → ∃ t, exec (.doubleReset h) s = .next t ∧ (t.thread h).st = .free ∧ (t.slot d.lnch).status = 3 ∧
       (t.slot d.lnch).first = (if y.first = 0 then d.ecause.toNat % 256 else y.first) ∧ (t.slot d.lnch).threads = y.threads.filter fun j => j ≠ h) ∧
     (d.st ≠ .double → exec (.doubleReset h) s = .next s))

/-- R321, R379, R390, R347: a frame entry gives way to the next valid one when its cycles are over, and after the last the table
as written takes effect, the plots of each pair changing places; at most 7 of 8 cycles are withheld from a plot, and
THROTTLE counts them. A debug halt of a running launch halts its threads and its watchdog, and a run releases them;
both at once do nothing.
Completes: frameEntryBoundary, dbgctlHalt, dbgctlRun, cycleWithheld. -/
def Obligations.FramesAndHalts : Prop :=
  ∀ (s : State) (die p v i : Nat) (w : Word),
    (let f := Tbl.getD s.frame die {}
     let ends := f.since + frameDur (s.frameNow die)
     let valid := frameEntries f.table
     let table := (s.frames.filter fun e => decide (e.1 / 64 = die)).map fun e => (e.1 % 64, e.2)
     (s.cycle < ends → exec (.frameEntryBoundary die) s = .next s) ∧
     (∀ e, ends ≤ s.cycle → valid.find? (fun y => f.entry < y.1) = some e → exec (.frameEntryBoundary die) s =
       .next { s with frame := Tbl.set s.frame die { f with entry := e.1, since := ends } }) ∧
     (ends ≤ s.cycle → valid.find? (fun y => f.entry < y.1) = none → ∃ t y, exec (.frameEntryBoundary die) s = .next t ∧
       Tbl.get? t.frame die = some y ∧ y.table = table ∧ y.since = ends ∧ { t with frame := s.frame, plots := s.plots } = s ∧
       ∀ q z, Tbl.get? s.plots q = some z → (t.plot q).resident = if q / 160 = die ∧ z.partner.isSome then !z.resident else z.resident)) ∧
    (let x := s.plot p
     let recent := x.withheld.filter fun c => s.cycle < c + 8
     (s.cycle ∉ x.withheld → recent.length < 7 → exec (.cycleWithheld p) s =
       .next (s.setPlot p { x with throttle := x.throttle + 1, withheld := recent ++ [s.cycle] })) ∧
     (s.cycle ∈ x.withheld ∨ 7 ≤ recent.length → exec (.cycleWithheld p) s = .next s)) ∧
    (let x := s.slot i
     w.toNat % 2 ^ 14 = i → bitAt w.toNat 14 = false → x.st = .running → x.queue / 64 = v →
     (bitAt w.toNat 15 = true → bitAt w.toNat 16 = false → x.halted = false → ∃ t, exec (.dbgctlHalt v w) s = .next t ∧ (t.slot i).halted = true ∧
       (∀ h ∈ x.threads, (s.thread h).st = .running ∨ (s.thread h).st = .waiting → (t.thread h).st = .stopped ∧ (t.thread h).halted = true ∧
         (t.thread h).pc = (s.thread h).pc ∧ (t.thread h).regs = (s.thread h).regs) ∧
       (x.preempted = false → (t.slot i).wdLeft = x.wdLeft.map fun n => n - (s.cycle - x.wdFrom))) ∧
     (bitAt w.toNat 15 = false → bitAt w.toNat 16 = true → x.halted = true → ∃ t, exec (.dbgctlRun v w) s = .next t ∧ (t.slot i).halted = false ∧
       (∀ h ∈ x.threads, (s.thread h).st = .stopped → (s.thread h).halted = true → (t.thread h).halted = false ∧
         ((t.thread h).st = .running ∨ (t.thread h).st = .waiting)) ∧ (t.slot i).wdLeft = x.wdLeft ∧ (t.slot i).wdFrom = s.cycle)) ∧
    (bitAt w.toNat 15 = true → bitAt w.toNat 16 = true → exec (.dbgctlHalt v w) s = .next s ∧ exec (.dbgctlRun v w) s = .next s)

/-! Hand-over. -/

namespace Sys2Proof.Claim

/-- The bytes of a token that the manual lays out (Table 18.6). -/
def tokenBytes (q : Scrub) : List Byte :=
  leBytes 4 1 ++ leBytes 1 q.outvf ++ leBytes 1 q.invf ++ leBytes 2 q.units.length ++ leBytes 8 q.seq ++ leBytes 8 q.ns ++
    digest ((List.range 1312).map Config.publicKey) ++ digest (q.units.flatMap fun u => leBytes 8 u.toNat) ++
    (q.nonce.flatMap fun w => leBytes 8 w.toNat) ++ leBytes 8 0

end Sys2Proof.Claim

/-- R370, R362, R361, R366, R357: SCRUB of a legal request of quiet units takes them from their tenant, each scrubbing, under the
next SEQ; the oldest request starts, and when it is clear a plot of it has no thread, tile or configured plane and passes
to the incoming tenant; its token is written to that tenant's buffer, with SEQ in TOKSEQ. FQTAKE frees the records up to the one
it names.
Completes: scrub, scrubRequestStart, scrubClearComplete, tokenWrite, fqtakeWrite. -/
def Obligations.ScrubEvents : Prop :=
  ∀ (rd a : Reg) (s s1 s0 : State) (k v : Nat) (hd b : List Byte) (w : Word),
    (s.cur = .lodge k → s.ctx.priv = .l → let n := fieldAt hd 6 2
      let us := unitsOf b n
      let out := fieldAt hd 4 1
      let inn := fieldAt hd 5 1
      ((s.g a).toNat % 64 ≠ 0 → Paired (.scrub rd a) s s rd 6 0) ∧
      ((s.g a).toNat % 64 = 0 → loadWords s (s.g a) 8 [] = (.ok hd, s1) →
        (fieldAt hd 0 4 ≠ 1 ∨ fieldAt hd 8 56 ≠ 0 ∨ n = 0 ∨ 1024 < n → Paired (.scrub rd a) s s1 rd 6 0) ∧
        (fieldAt hd 0 4 = 1 → fieldAt hd 8 56 = 0 → 0 < n → n ≤ 1024 → loadWords s1 (s.g a + 64) n [] = (.ok b, s0) → let s2 := release s0
          (scrubOk s2 out inn us = false → Paired (.scrub rd a) s s2 rd 6 0) ∧
          (scrubOk s2 out inn us = true → scrubBusy s2 us = true → Paired (.scrub rd a) s s2 rd 1 0) ∧
          (scrubOk s2 out inn us = true → scrubBusy s2 us = false → ∃ t, exec (.scrub rd a) s = .next t ∧ Completed s.ctx t.ctx 4 ∧
            (∀ r, t.g r = if r = 0 then 0 else if r = rd then 0 else if r = rd + 1 then BitVec.ofNat 64 (s.scrubSeq + 1) else s.g r) ∧
            t.scrubSeq = s.scrubSeq + 1 ∧
            t.scrubs = s.scrubs ++ [{ seq := s.scrubSeq + 1, outvf := out, invf := inn, units := us, nonce := if inn = 0xFF then [0, 0, 0, 0] else (s.tenant inn).nonce.toList }] ∧
            ∀ u ∈ us, unitKind u = 1 → (t.plot (unitIndex u)).owner = none ∧ (t.plot (unitIndex u)).scrubbing = true)))) ∧
    (∀ q, s.scrubs.find? (fun r => !r.cleared) = some q → ∃ t, exec .scrubRequestStart s = .next t ∧ { t with scrubs := s.scrubs } = s ∧
      ∀ r ∈ t.scrubs, r.seq = q.seq → r.started = true) ∧
    (∀ q, s.scrubs.find? (fun r => r.started && !r.cleared) = some q → ∃ t, exec .scrubClearComplete s = .next t ∧
      (∀ r ∈ t.scrubs, r.seq = q.seq → r.cleared = true) ∧
      ∀ u ∈ q.units, unitKind u = 1 → let p := unitIndex u
        (t.plot p).owner = (if q.invf = 0xFF then none else some q.invf) ∧ (t.plot p).scrubbing = false ∧ (t.plot p).cmds = [] ∧
        (∀ h, h / 8 = p → (t.thread h).st = .free ∧ (t.thread h).carveMem = []) ∧ (∀ h, h < 256 → (t.tile p h).st = .free ∧ (t.tile p h).bytes = []) ∧
        (∀ j, j < 4 → (t.plane p j).st = .unconfigured)) ∧
    (∀ q rest pra, s.scrubs = q :: rest → q.cleared = true → q.invf ≠ 0xFF → q.nonce.length = 4 → tokenAt (s.tenant q.invf) = some pra →
      s.isLocal ((s.tenant q.invf).pbase + pra) = true → ∃ t bytes, exec .tokenWrite s = .next t ∧ t.scrubs = rest ∧ t.scrubLast = q.seq ∧ (t.tenant q.invf).tokseq = BitVec.ofNat 64 q.seq ∧
        t.mem = Mem.write s.mem ((s.tenant q.invf).pbase + pra) bytes ∧ bytes.length = 4096 ∧ bytes.take 128 = tokenBytes q ∧
        bytes.drop 4088 = leBytes 8 q.seq) ∧
    (s.scrubs = [] → exec .tokenWrite s = .next s ∧ exec .scrubRequestStart s = .next s ∧ exec .scrubClearComplete s = .next s) ∧
    (let x := s.tenant v
     ∃ t, exec (.fqtakeWrite v w) s = .next t ∧ { t with tenants := s.tenants } = s ∧ (t.tenant v).fqtake = BitVec.ofNat 64 (w.toNat % 2 ^ 32) ∧
       ∀ n, 0 < n → x.fqacked ≤ n → n ≤ x.fqcount → x.fqcount < n + (2 ^ 32 - 1) → w.toNat % 2 ^ 32 = (n - 1) % (2 ^ 32 - 1) + 1 → (t.tenant v).fqacked = n)

/-! The host port, links and management. -/

namespace Sys2Proof.Claim

/-- A command with an OPC of the administrative mailbox runs now (R372): its doorbell started it, or it comes with its doorbell
while no other is BUSY. -/
def AdminRuns (s : State) (opc : Nat) : Prop := s.admin.busy = false ∨ (s.admin.done = false ∧ s.admin.opc = opc)

/-- A command of the administrative mailbox has ended with a status, and its effect makes `s'` of the state; the count of free
values may have advanced. -/
def Replied (s' t : State) (code : Nat) : Prop :=
  t.admin.busy = true ∧ t.admin.done = true ∧ t.admin.status = code ∧ { t with admin := s'.admin, free := s'.free } = s'

/-- The response payload from offset 0x40 (R372). -/
def Response (s t : State) (bs : List Byte) : Prop := t.admin.buf = Mem.write s.admin.buf 0x40 bs

end Sys2Proof.Claim

/-- R298, R373, R303, R355, R321, R385, R372: the host's writes of a virtual function's window. KICK sets its queue's bit; QDESC
and RDESC create a queue or ring from a legal descriptor, and delete one; the other registers take their values, with reserved
bits zero; a doorbell starts a command; a command that has ended leaves BUSY.
Completes: mailboxCommandDone, kick, qdescWrite, rdescWrite, registerWrite. -/
def Obligations.HostWrites : Prop :=
  ∀ (s : State) (v n : Nat) (w0 w : BitVec 64) (w8 w12 : BitVec 32),
    let lg := w8.toNat % 16
    let en := w8.getLsbD 4
    let q := s.queue (v * 64 + n)
    let r := s.cring v n
    exec (.kick v n) s = .next { s with kicks := Tbl.set s.kicks v (Tbl.getD s.kicks v 0 ||| BitVec.ofNat 64 (2 ^ (n % 64))) } ∧
    (q.en = false → en = true → w0.toNat % 64 = 0 → 4 ≤ lg → lg ≤ 12 → w8.toNat < 2 ^ 6 → w12 ≠ 0 → praOk (s.tenant v) w0.toNat (64 + 64 * 2 ^ lg) = true →
      exec (.qdescWrite v n w0 w8 w12) s = .next (s.setQueue (v * 64 + n) { qbase := w0.toNat, qlog := lg, en := true, wd := w12.toNat })) ∧
    (q.en = false → en = false ∨ w0.toNat % 64 ≠ 0 ∨ lg < 4 ∨ 12 < lg ∨ w12 = 0 → exec (.qdescWrite v n w0 w8 w12) s = .next s) ∧
    (q.en = true → en = false → q.live = [] → ∃ t, exec (.qdescWrite v n w0 w8 w12) s = .next t ∧ (t.queue (v * 64 + n)).en = false) ∧
    (q.en = true → en = true ∨ q.live ≠ [] → exec (.qdescWrite v n w0 w8 w12) s = .next s) ∧
    (r.en = false → en = true → w0.toNat % 32 = 0 → 4 ≤ lg → lg ≤ 12 → w8.toNat < 2 ^ 5 → praOk (s.tenant v) w0.toNat (32 * 2 ^ lg) = true →
      exec (.rdescWrite v n w0 w8 w12) s = .next (s.setCring v n { base := w0.toNat, elog := lg, en := true, take := w12.toNat, hold := r.hold })) ∧
    (r.en = true → en = false → ∃ t, exec (.rdescWrite v n w0 w8 w12) s = .next t ∧ (t.cring v n).en = false) ∧
    (r.en = true → en = true → ∀ j, 0 < j → r.taken ≤ j → j ≤ r.posted → r.posted < j + (2 ^ 32 - 1) → w12.toNat = (j - 1) % (2 ^ 32 - 1) + 1 →
      exec (.rdescWrite v n w0 w8 w12) s = .next (s.setCring v n { r with take := w12.toNat, taken := j })) ∧
    (v < 64 → n < 67 → exec (.registerWrite (.irq v n) w) s = .next (s.setTenant v { s.tenant v with irq := Tbl.set (s.tenant v).irq n (w &&& 0xBF) })) ∧
    (v < 4 → n < 64 → exec (.registerWrite (.frame v n) w) s = .next { s with frames := Tbl.set s.frames (v * 64 + n) (w &&& 0xFFFFFF1F) }) ∧
    exec (.registerWrite .locid w) s = .next { s with locid := w.toNat % 2 ^ 15 } ∧
    (n % 8 = 0 → n < 4096 → exec (.registerWrite (.mbuf n) w) s = .next { s with admin := { s.admin with buf := Mem.write s.admin.buf n (leBytes 8 w.toNat) } }) ∧
    (s.admin.busy = true → exec (.registerWrite .mbdoor w) s = .next s) ∧
    (s.admin.busy = false → ∃ t, exec (.registerWrite .mbdoor w) s = .next t ∧ t.admin.busy = true ∧ t.admin.tag = w.setWidth 32) ∧
    (s.admin.busy = true → s.admin.done = true → exec (.mailboxCommandDone 0) s = .next { s with admin := { s.admin with busy := false, done := false } }) ∧
    (s.admin.done = false → exec (.mailboxCommandDone 0) s = .next s)

/-- R354, R353, R300, R370, R262, R358, R371, R374, R381, R347, R389, R390: the commands of the administrative mailbox with
legal operands: each ends with OK and its effect, and a window, key or range in use is BUSY. PLACE's response holds the status
of SCRUB, then its SEQ (log 70); where an attestation report stands in the response is log 13, and the numbers of DBGREG's
registers log 71: the model's.
Completes: setwin, setkey, setquota, setrange, place, setperm, setweight, attest, getkey, repairlog, dbgreg, fwstage,
pwrcap, share. -/
def Obligations.AdminCommands : Prop :=
  ∀ (s : State) (v n : Nat) (a b : BitVec 64) (k1 k2 : BitVec 256) (us : List Word) (lm : List Nat), v < 64 →
    let x := s.tenant v
    let ok (opc : Nat) (i : Instr) (s' : State) : Prop := AdminRuns s opc → ∃ t, exec i s = .next t ∧ Replied s' t 0
    let replies (opc : Nat) (i : Instr) (code : Nat) : Prop := AdminRuns s opc → ∃ t, exec i s = .next t ∧ Replied s t code
    (a.toNat < 2 ^ 61 → b.toNat < 2 ^ 48 →
      (s.plotsOf v = [] → ok 1 (.setwin v a b) (s.setTenant v { x with pbase := a.toNat, plimit := b.toNat })) ∧
      (s.plotsOf v ≠ [] → replies 1 (.setwin v a b) 1)) ∧
    (s.plotsOf v = [] → s.holdsGranule v = false → (∀ e ∈ s.perms, bitAt e.2.toNat 7 = false) → s.tierEnc = [] → ok 2 (.setkey v k1 k2) (s.setTenant v { x with dkey := k1, tkey := k2 })) ∧
    (∀ sets regs pins, sets ≤ 16384 → regs ≤ 4096 → pins ≤ 128 → lm.length = 16 → (∀ m ∈ lm, m ≤ 16384) →
      (quotaBelow s v sets regs pins lm = false → ok 3 (.setquota v sets regs pins lm)
        (s.setTenant v { x with setq := sets, regq := regs, pinq := pins, lmax := lm.zipIdx.map fun e => (e.2, e.1) })) ∧
      (quotaBelow s v sets regs pins lm = true → replies 3 (.setquota v sets regs pins lm) 4)) ∧
    (∀ first count, first + count ≤ 16384 →
      (∀ e ∈ s.tenants, e.1 ≠ v → count = 0 ∨ e.2.recCount = 0 ∨ e.2.recFirst + e.2.recCount ≤ first ∨ first + count ≤ e.2.recFirst) →
      (∀ e ∈ s.slots, s.inRecRange v e.1 = true → e.2.st = .idle) → ok 4 (.setrange v first count) (s.setTenant v { x with recFirst := first, recCount := count })) ∧
    (∀ inn, scrubOk s v inn us = true → scrubBusy s us = false → tagsOk (placementAfter s inn us) = true →
      AdminRuns s 5 → ∃ t, exec (.place v inn us) s = .next t ∧ t.admin.status = 0 ∧ t.scrubSeq = s.scrubSeq + 1 ∧
        Response s t (leBytes 8 0 ++ leBytes 8 (s.scrubSeq + 1))) ∧
    (n < 2 ^ 18 → a.toNat < 2 ^ 9 →
      (bitAt a.toNat 7 = false → bitAt (Tbl.getD s.perms n 0).toNat 7 = false → ok 6 (.setperm n a) { s with perms := Tbl.set s.perms n a }) ∧
      (AdminRuns s 6 → let lo := s.locid * 2 ^ 46 + n * 2 ^ 21
        ∃ t, exec (.setperm n a) s = .next t ∧ t.admin.status = 0 ∧ t.perms = Tbl.set s.perms n a ∧
          { t with admin := s.admin, free := s.free, perms := s.perms, mem := s.mem } = s ∧
          ∀ x, x < lo ∨ lo + 2 ^ 21 ≤ x → Mem.get t.mem x = Mem.get s.mem x)) ∧
    (0 < n → n ≤ 15 → ok 7 (.setweight v n) (s.setTenant v { x with pweight := n })) ∧
    (clearingFor s v = false → AdminRuns s 8 → let pk := (List.range 1312).map Config.publicKey
      ∃ t bs, exec (.attest 0 v k1) s = .next t ∧ t.admin.status = 0 ∧ Response s t bs ∧ bs.take 1348 = leBytes 4 1 ++ digest pk ++ pk ∧
      { t with admin := s.admin, free := s.free } = s) ∧
    (AdminRuns s 9 → ∃ t, exec .getkey s = .next t ∧ Replied s t 0 ∧ Response s t ((List.range 1312).map Config.publicKey)) ∧
    (AdminRuns s 10 → ∃ t, exec (.repairlog n) s = .next t ∧ Replied s t 0 ∧ Response s t (repairPage s n)) ∧
    (∀ h, h < 5120 → n < 32 → let r : Reg := BitVec.ofNat 5 n
      ((s.thread h).halted = true → ok 11 (.dbgreg h n true a) (s.setThread h ((s.thread h).put r a)) ∧
        (AdminRuns s 11 → ∃ t, exec (.dbgreg h n false a) s = .next t ∧ Replied s t 0 ∧ Response s t (leBytes 8 ((s.thread h).get r).toNat))) ∧
      ((s.thread h).halted = false → replies 11 (.dbgreg h n true a) 1)) ∧
    (0 < n → n ≤ 2 ^ 24 → a.toNat + n ≤ 2 ^ 44 → let img := Mem.read s.mem (s.locid * 2 ^ 46 + 0x200000000000 + a.toNat) n
      if Config.fwVerifies img then ok 12 (.fwstage a n) { s with staged := some img } else replies 12 (.fwstage a n) 4) ∧
    (600 ≤ n → n ≤ 1800 → ok 13 (.pwrcap n) { s with pwrcap := n }) ∧
    (n < 16384 → granuleUsed s n = false → s.tierEnc = [] →
      ok 14 (.share n true) { s with shared := n :: s.shared.filter fun g => g ≠ n } ∧ ok 14 (.share n false) { s with shared := s.shared.filter fun g => g ≠ n }) ∧
    (n < 16384 → granuleUsed s n = true → replies 14 (.share n true) 1)

/-- R373, R361, R385, R386, R260, R388: a function-level reset stops the function's launches, and deletes its queues and rings
once none runs; a package reset leaves the reset state but memory, read without keys, and what the part keeps for life, loads
the running firmware into every instruction memory, and retires a worn core again; that memory keeps what is stored in it is log
42, and which firmware runs logs 16 and 75: the model's. A flit of another package is answered from its home here; an answer
completes an access; one unanswered for 1 ms fails. The host reads and writes a shared line, and the management channel answers.
Completes: functionLevelReset, remoteAccessTimeout, packageReset, solrusFlitReceive, hostSharedAccess, mctpRequest. -/
def Obligations.HostAndLinks : Prop :=
  ∀ (s : State) (v id a n : Nat) (w c : BitVec 64) (bs : List Byte),
    ((s.tenant v).flr = false → (∀ e ∈ s.slots, e.2.st ≠ .queued) → ∃ t, exec (.functionLevelReset v) s = .next t ∧ (t.tenant v).flr = true ∧
      ∀ i, (s.slot i).st = .running → (s.slot i).queue / 64 = v → (s.slot i).comp = none → (Tbl.get? s.slots i).isSome = true → (t.slot i).stopped = true) ∧
    ((s.tenant v).flr = true → (∀ e ∈ s.slots, (e.2.st ≠ .running ∧ e.2.st ≠ .queued) ∨ e.2.queue / 64 ≠ v) → ∃ t, exec (.functionLevelReset v) s = .next t ∧
      (t.tenant v).flr = false ∧ (t.tenant v).irq = [] ∧ (∀ j, j / 64 = v → (t.queue j).en = false) ∧ (∀ j, j < 64 → (t.cring v j).en = false)) ∧
    (∃ t, exec .packageReset s = .next t ∧ t.mem = (rekey s { s with perms := [], tierEnc := [] }).mem ∧
      (s.staged = none → t.imem = (s.running.map loadCode).getD State.reset.imem) ∧ t.threads = [] ∧ t.planes = [] ∧ t.cells = [] ∧ t.tiles = [] ∧ t.slots = [] ∧ t.queues = [] ∧
      t.tenants = State.reset.tenants ∧ ((∀ c, c < 4 → s.worn (.lodge c) = none) → t.lodges = State.reset.lodges) ∧
      (∀ c, c < 2 → (s.worn (.lodge c)).isSome = true → (t.lodge c).role = .failed) ∧ t.scrubSeq = s.scrubSeq ∧ t.pend = [] ∧ t.xlats = []) ∧
    (s.isLocal a = true → mapsMemory a = true →
      (s.isBad a n = false → exec (.solrusFlitReceive (.load id a n)) s = .next { s with flits := s.flits ++ [.data id (Mem.read s.mem a n)] }) ∧
      (∃ t, exec (.solrusFlitReceive (.store id a bs)) s = .next t ∧ Stored s.mem t.mem a bs ∧ t.flits = s.flits ++ [.ack id]) ∧
      (∀ dw, let m := if dw then 8 else 4
        s.isBad a m = false → let old := leNat (Mem.read s.mem a m)
        (∃ t, exec (.solrusFlitReceive (.amo id 0 a dw w c)) s = .next t ∧ Stored s.mem t.mem a (leBytes m ((old + w.toNat % 2 ^ (8 * m)) % 2 ^ (8 * m))) ∧
          t.flits = s.flits ++ [.data id (Mem.read s.mem a m)]) ∧
        (∃ t, exec (.solrusFlitReceive (.amo id 9 a dw w c)) s = .next t ∧ t.flits = s.flits ++ [.data id (Mem.read s.mem a m)] ∧
          (old = c.toNat % 2 ^ (8 * m) → Stored s.mem t.mem a (leBytes m (w.toNat % 2 ^ (8 * m)))) ∧
          (old ≠ c.toNat % 2 ^ (8 * m) → t.mem = s.mem)))) ∧
    (∀ r, s.remotes.find? (fun x => decide (x.id = id) && x.st == .sent) = some r → bs.length = r.n →
      ∃ t, exec (.solrusFlitReceive (.data id bs)) s = .next t ∧ (r.amo = none → t.mem = Mem.write s.mem r.spa bs) ∧
        (r.amo ≠ none → t.mem = s.mem) ∧ ∀ x ∈ t.remotes, x.id = id → x.st = .answered ∧ x.got = bs) ∧
    (∀ (x : Remote), x ∈ s.remotes → x.id = id → x.st = .sent → x.since + 700000 ≤ s.cycle → (∀ q ∈ s.pend, q.id ≠ id) →
      ∃ t, exec (.remoteAccessTimeout id) s = .next t ∧ ({ x with st := .failed } : Remote) ∈ t.remotes ∧ t.mem = s.mem) ∧
    (∀ q, s.pend.find? (fun y => decide (y.id = id) && !s.isLocal y.spa && decide (y.at_ + 700000 ≤ s.cycle)) = some q →
      ∃ t new, exec (.remoteAccessTimeout id) s = .next t ∧ t.pend = (s.pend.filter fun y => y.id ≠ id) ++ new ∧
        ∀ y ∈ new, y.party = .walkers 3) ∧
    (s.isLocal w.toNat = true → isTier2 w.toNat = true → s.shared.contains (tier2Granule w.toNat) = true → w.toNat % 8 = 0 →
      (∃ t, exec (.hostSharedAccess w (some c)) s = .next t ∧ Stored s.mem t.mem w.toNat (leBytes 8 c.toNat) ∧ lineOf w.toNat ∈ t.hostHeld) ∧
      (∃ t, exec (.hostSharedAccess w none) s = .next t ∧ t.mem = s.mem ∧ lineOf w.toNat ∈ t.hostHeld)) ∧
    (s.shared = [] → exec (.hostSharedAccess w (some c)) s = .next s) ∧
    exec (.mctpRequest .fatal) s = .next { s with mctp := [if s.fatal then 1 else 0] } ∧
    exec (.mctpRequest (.repairLog n)) s = .next { s with mctp := repairPage s n } ∧
    (∃ t, exec (.mctpRequest .temperatures) s = .next t ∧ t.mctp.length = 8)

/-- R376, R377, R379, R378, R380, R387, R284, R394, R339: sixteen low samples running, more than 16 corrected errors in an hour,
or an uncorrectable error make a unit worn. A worn plot moves to the lowest spare at a frame boundary after its cuts, or shares
another's without a spare; a column, way, row or lane takes its spare, each with a repair record. An assist context in DOUBLE
makes its plot worn; the cause code of that, uncorrectable, is log 93, the model's choice.
Completes: plotRetirement, plotPairing, columnRetirement, wayRetirement, hbmRowRepair, laneReplacement, wearSample,
correctedError, uncorrectableError. -/
def Obligations.WearAndSpares : Prop :=
  ∀ (s : State) (u : WearUnit) (p l c g n cause : Nat), let x := s.wearOf u
    (∃ t, exec (.wearSample u true) s = .next t ∧ (x.low + 1 < 16 → (t.wearOf u).low = x.low + 1 ∧ (t.wearOf u).worn = x.worn) ∧
      (16 ≤ x.low + 1 → x.worn = none → (t.wearOf u).worn = some 1)) ∧
    (∃ t, exec (.wearSample u false) s = .next t ∧ (t.wearOf u).low = 0 ∧ (t.wearOf u).worn = x.worn) ∧
    (let errs := (x.errs.filter fun y => s.cycle < y + 2520000000000) ++ [s.cycle]
     ∃ t, exec (.correctedError u) s = .next t ∧ (t.wearOf u).errs = errs ∧ (16 < errs.length → x.worn = none → (t.wearOf u).worn = some 2) ∧
       (errs.length ≤ 16 → (t.wearOf u).worn = x.worn)) ∧
    (x.worn = none → ∃ t, exec (.uncorrectableError (.unit u)) s = .next t ∧ (t.wearOf u).worn = some 3) ∧
    (∃ t, exec (.uncorrectableError (.memory n)) s = .next t ∧ n ∈ t.badMem ∧ { t with badMem := s.badMem } = s) ∧
    (∃ t, exec (.uncorrectableError (.sram n)) s = .next t ∧ n ∈ t.sramBad ∧ { t with sramBad := s.sramBad } = s) ∧
    (∀ r q, Tbl.get? s.regions n = some r → Tbl.get? r.parts (partKey l c) = some q → ∃ t y, exec (.uncorrectableError (.rowState n l c)) s = .next t ∧
      Tbl.get? t.regions n = some y ∧ Tbl.get? y.parts (partKey l c) = some { q with stale := true }) ∧
    (let die := p / 160
     let used := Tbl.getD s.spares die 0
     s.worn (.plot p) = some cause →
     (used < 20 → moveWaits s p = false → (s.wearOf (.plot p)).cuts = some [] → s.frameStarts die = true → ∃ t, exec (.plotRetirement p) s = .next t ∧
       (t.plot p).phys = some (160 + used) ∧ Tbl.getD t.spares die 0 = used + 1 ∧ (t.plot p).dcache = [] ∧ (t.plot p).icache = [] ∧
       (t.repairs.getLast?.map fun r => (r.kind, r.cause, r.die, r.old, r.new)) = some (1, cause, die, s.physOf p, 160 + used) ∧ (t.wearOf (.plot p)).worn = none) ∧
     (∀ q, 20 ≤ used → (s.plot p).partner = none → s.pairsOn die < 20 → pairFor s p = some q → q ≠ p → moveWaits s p = false → moveWaits s q = false →
       s.frameStarts die = true → ∃ t, exec (.plotPairing p) s = .next t ∧ (t.plot p).partner = some q ∧ (t.plot q).partner = some p ∧
         (t.plot p).phys = some (s.physOf q) ∧ (t.plot p).resident = false ∧
         (t.repairs.getLast?.map fun r => (r.kind, r.cause, r.old, r.new)) = some (7, cause, s.physOf p, q))) ∧
    (let used := Tbl.getD s.colSpares (colKey s p l) 0
     s.worn (.column p l c) = some cause → used < 4 → (s.wearOf (.column p l c)).cuts = some [] → (∀ b ∈ (s.lat p l).binds, b.started = false) →
     (s.lat p l).work = none → ∃ t, exec (.columnRetirement p l c) s = .next t ∧ Tbl.getD t.colSpares (colKey s p l) 0 = used + 1 ∧
       (t.repairs.getLast?.map fun r => (r.kind, r.cause, r.old, r.new)) = some (2, cause, c, 128 + used)) ∧
    (s.worn (.way g n) = some cause →
     (Tbl.getD s.waySpares g 0 = 0 → ∃ t, exec (.wayRetirement g n) s = .next t ∧ Tbl.getD t.waySpares g 0 = 1 ∧ t.ways = s.ways ∧
       (t.repairs.getLast?.map fun r => (r.kind, r.cause, r.old, r.new)) = some (5, cause, g * 16 + n, g * 16 + 16)) ∧
     (Tbl.getD s.waySpares g 0 ≠ 0 → ∃ t, exec (.wayRetirement g n) s = .next t ∧ g * 16 + n ∈ t.waysLost ∧ Tbl.get? t.ways (g * 16 + n) = none ∧
       (t.repairs.getLast?.map fun r => (r.kind, r.cause)) = some (5, 4))) ∧
    (s.worn (.row n) = some cause → ∃ t, exec (.hbmRowRepair n) s = .next t ∧ (Config.rowRepairable n s.rowRepairs = true →
      t.rowRepairs = n :: s.rowRepairs ∧ (t.repairs.getLast?.map fun r => (r.kind, r.cause, r.old)) = some (4, cause, n))) ∧
    (s.worn (.lane g n) = some cause →
      (Tbl.getD s.lanes g 0 = 0 → ∃ t, exec (.laneReplacement g n) s = .next t ∧ Tbl.getD t.lanes g 0 = 1 ∧
        (t.repairs.getLast?.map fun r => (r.kind, r.cause, r.old, r.new)) = some (3, cause, g * 16 + n, g * 16 + 16)) ∧
      (Tbl.getD s.lanes g 0 ≠ 0 → ∃ t, exec (.laneReplacement g n) s = .next t ∧ Tbl.getD t.lanes g 0 = 2)) ∧
    ((s.plot p).assist.st = .double → (s.plot p).failed = false → (s.wearOf (.plot p)).worn = none → (s.wearOf (.plot p)).cuts = none →
      ∃ t, exec (.plotRetirement p) s = .next t ∧ (t.wearOf (.plot p)).worn = some 3) ∧
    (s.worn u = none → (u = .row n → exec (.hbmRowRepair n) s = .next s) ∧ (u = .plot p → (s.plot p).assist.st ≠ .double → exec (.plotRetirement p) s = .next s ∧ exec (.plotPairing p) s = .next s))


/-! Contexts that hold nothing, and what a step does. -/

namespace Sys2Proof.Claim

/-- The instructions on tenant resources that answer in one register, of the groups open at privilege U. -/
def resourceOps (rd a b : Reg) (m m' : Bool) (sc : IcScope) : List Instr :=
  [.icinv rd a b sc, .join rd a, .leave rd a, .sbar rd a, .sbind rd a b, .sclose rd a m, .smark rd a, .swait rd a b, .scfg rd a b,
   .talloc rd a b, .tfree rd a, .tfill rd a b, .tdrain rd a b, .twait rd a b, .mload rd a b, .mbind rd a, .mzero rd a,
   .mread rd a b m m', .mnorm rd a, .dsync rd a b, .dreb rd a, .ddrop rd a, .rinit rd a b, .rawait rd a b, .rrel rd a,
   .ginit rd a b, .garr rd a, .gexp rd a b m, .gwait rd a b, .ckick rd a b, .cstop rd a, .lpatch rd a b, .larm rd a b, .nbdot rd a b, .nbwait rd a b]

/-- The instructions that read a state word. -/
def stateWordOps (rd a : Reg) : List Instr := [.tstat rd a, .mhead rd a, .rpeek rd a, .cstat rd a, .dstat rd a, .lstat rd a]

end Sys2Proof.Claim

/-- R397: on a lodge core and on an assist context the instructions on tenant resources have no effect and answer DENIED, those that
also write a second register write 0 there, the state words read all ones, and CBAR completes at once. -/
def Obligations.DeniedOffThread : Prop :=
  ∀ (s : State) (rd a b : Reg) (m m' : Bool) (sc : IcScope), s.isThread = false →
    (∀ i ∈ resourceOps rd a b m m' sc, ∃ t, exec i s = .next t ∧ Result s t rd 4 4) ∧
    (s.ctx.priv ≠ .u → ∀ i ∈ [Instr.tlbinv rd a b, Instr.tlbinva rd a, Instr.tlbsync rd a], ∃ t, exec i s = .next t ∧ Result s t rd 4 4) ∧
    (∀ i ∈ stateWordOps rd a, ∃ t, exec i s = .next t ∧ Result s t rd 0xFFFFFFFFFFFFFFFF 4) ∧
    Paired (.ddecl rd a) s s rd 4 0 ∧ Paired (.drd rd a b m) s s rd 4 0 ∧
    ∃ t, exec .cbar s = .next t ∧ Passed s t 4

namespace Sys2Proof.Claim

/-- The word of code at an address as the issuing context has it at hand: in its lodge core's instruction memory, in memory
homed here without a bad line for an assist context; for a thread, behind a cached translation that lets it fetch, in a line its
plot's instruction cache holds. -/
def codeWord (s : State) (a : Word) : Option (BitVec 32) :=
  match s.cur with
  | .lodge k => if a.toNat + 4 ≤ 65536 then some (BitVec.ofNat 32 (leNat (Mem.read s.imem (k * 65536 + a.toNat) 4))) else none
  | .assist _ =>
    if mapsMemory a.toNat = true ∧ s.isLocal a.toNat = true ∧ s.isBad a.toNat 4 = false then some (BitVec.ofNat 32 (leNat (Mem.read s.mem a.toNat 4))) else none
  | .thread t =>
    let c := s.ctx
    let v := c.tenant.getD 64
    if 2 ^ 56 ≤ a.toNat ∨ (s.fatalAnswer (.thread t) (a.toNat / 4096) .fetch).isSome = true ∨ s.waitsFor (.thread t) (a.toNat / 4096) .fetch = true then none
    else (s.xlats.find? fun x => x.covers (.core (t / 8)) 0 v c.asid (c.priv == .u) a.toNat .fetch).bind fun x =>
      ((s.plot (t / 8)).icache.find? fun l => l.serves v c.asid a.toNat (x.spa + (a.toNat - x.page))).map fun l =>
        BitVec.ofNat 32 (leNat ((l.bytes.drop (a.toNat % 64)).take 4))

/-- The words at hand from an address up: the first, and as many more as its LEN names. -/
def CodeAt (s : State) (pc : Word) (ws : List (BitVec 32)) : Prop :=
  match ws with
  | [w] => codeWord s pc = some w ∧ fLen w = 0
  | [w, e0] => codeWord s pc = some w ∧ codeWord s (pc + 4) = some e0 ∧ fLen w = 1
  | [w, e0, e1] => codeWord s pc = some w ∧ codeWord s (pc + 4) = some e0 ∧ codeWord s (pc + 8) = some e1 ∧ fLen w = 2
  | _ => False

/-- The issuing context fetches at its next step: it runs, waits for nothing, and its core is in service. -/
def Fetches (s : State) : Prop :=
  s.agenda = [] ∧ s.ctx.halted = false ∧ s.ctx.st = .running ∧ s.ctx.wait = none ∧
  match s.cur with
  | .lodge k => (s.lodge k).role = .active
  | .assist p => s.cycle ∉ (s.plot p).withheld ∧ (s.plot p).resident = true ∧ ∀ r ∈ s.remotes, r.party ≠ rawParty s.cur
  | .thread t => s.cycle ∉ (s.plot (t / 8)).withheld ∧ (s.plot (t / 8)).resident = true ∧ s.waitsPage (.thread t) = false

/-- The state in which an issued instruction runs: the cycle has gone by; the other contexts of its core have a turn should it not
issue, and a round of turns is due (log 1). -/
def ticked (s : State) : State := { s with cycle := s.cycle + 1, agenda := [.slot s.cur s.ctx, .round] }

end Sys2Proof.Claim

/-- R15, R18, R85, R86, R87 (the agenda, and the cycle that goes by before an instruction's own effect, are the model's choice,
log 1): when the words at the pc decode to `i`, and no clause forbids or skips it, a step is `exec` of `i`; words that are no
instruction, or one that a clause may not govern, run ILLEGAL; a skipped instruction only advances; a context that waits tries
its instruction again; an event that the agenda holds is run; a context that cannot issue lets the cycle go by. A step whose
word at the pc is BRK's traps with BREAK, RETIRED unchanged (log 58), whatever words follow it. -/
def Obligations.StepRuns : Prop :=
  (∀ (s : State) (ws : List (BitVec 32)), Fetches s → CodeAt s s.ctx.pc ws →
    let w := ws.headD 0
    let cl := s.ctx.cl
    let skips := cl.kind = .whenSkip ∨ (cl.kind = .rpt ∧ cl.rem = 0)
    (cl.kind ≠ .none → ungovernable w = true → hasLength w = true → step s = exec (.illegal w) (ticked s)) ∧
    (cl.kind ≠ .none → ungovernable w = false → skips → hasLength w = true → ∃ t, step s = .next t ∧ SameElse s t ∧
      Completed { s.ctx with retired := t.ctx.retired - 1 } t.ctx (4 * ws.length) ∧ t.ctx.retired = s.ctx.retired ∧ t.ctx.regs = s.ctx.regs) ∧
    ((cl.kind = .none ∨ (ungovernable w = false ∧ ¬ skips)) →
      (∀ i, decodeWords ws = .ok i → step s = exec i (ticked s)) ∧
      (∀ e, decodeWords ws = .error e → step s = exec (.illegal w) (ticked s)))) ∧
  (∀ (s : State) (w : Sys2Proof.Machine.Waiting), s.agenda = [] → s.ctx.halted = false → (s.ctx.st = .running ∨ s.ctx.st = .waiting) → s.ctx.wait = some w →
    (∀ k, s.cur = .lodge k → (s.lodge k).role = .active → step s = exec w.instr (ticked s)) ∧
    (∀ p, s.cur = .assist p → s.cycle ∉ (s.plot p).withheld → (s.plot p).resident = true → step s = exec w.instr (ticked s)) ∧
    (∀ t, s.cur = .thread t → s.cycle ∉ (s.plot (t / 8)).withheld → (s.plot (t / 8)).resident = true →
      s.waitsPage (.thread t) = false → step s = exec w.instr (ticked s))) ∧
  (∀ (s : State) (i : Instr) (rest : List Turn), s.agenda = .event i :: rest → step s = exec i { s with agenda := rest }) ∧
  (∀ s : State, s.agenda = [] → s.ctx.halted = true → step s = .next (ticked s)) ∧
  (∀ s : State, s.ctx.pc.toNat % 4 = 0 → Fetches s → s.ctx.cl.kind = .none → codeWord s s.ctx.pc = some 0x9C0000C0 →
    ∃ t, step s = .next t ∧ Trapped (ticked s) t 0x08 s.ctx.pc s.ctx.pc 0)

/-- R342: BRK, one word long, traps with BREAK, its own address in EPC, FBYTE and FADDR, and EINFO 0; where its word stands at the
pc it is the next instruction, and no word that follows it is fetched. -/
def Obligations.BreakTrap : Prop :=
  encode .brk = [0x9C0000C0] ∧ decodeWords [0x9C0000C0] = .ok .brk ∧
  ∀ s : State, s.ctx.pc.toNat % 4 = 0 →
    (∃ t, exec .brk s = .next t ∧ TrapTaken s t 0x08 s.ctx.pc s.ctx.pc 0) ∧
    (Fetches s → s.ctx.cl.kind = .none → codeWord s s.ctx.pc = some 0x9C0000C0 → fetchNext s = .run .brk s)

/-- R341: TRAP traps with TRAPINSN, the address after it in EPC and its own in FBYTE; EINFO receives G[rs1] when LEN is 0 and
the zero-extended extension word when LEN is 1; memory and the stores not yet performed stay as they are, and a thread goes on
at privilege S. -/
def Obligations.TrapCall : Prop :=
  ∀ (s : State) (a : Reg) (e : BitVec 32), s.ctx.pc.toNat % 4 = 0 →
    (∃ t, exec (.trap a) s = .next t ∧ TrapTaken s t 0x07 (s.ctx.pc + 4) 0 (s.g a) ∧ t.mem = s.mem ∧ t.pend = s.pend) ∧
    (∃ t, exec (.trapImm e) s = .next t ∧ TrapTaken s t 0x07 (s.ctx.pc + 8) 0 (BitVec.ofNat 64 e.toNat) ∧ t.mem = s.mem ∧ t.pend = s.pend) ∧
    fLen (firstWord (.trap a)) = 0 ∧ fLen (firstWord (.trapImm e)) = 1

/-- R16, R17, R21-R29: words that the manual writes out bit by bit decode to the instructions it writes beside them. -/
def Obligations.DecodeWords : Prop :=
  decodeTableWord 32 0x04A63800 = some (.aluAdd 5 6 7) ∧ decodeTableWord 32 0x08A6FFF4 = some (.addi 5 6 0x3FFD) ∧
  decodeTableWord 64 0x000186A008A60001 = some (.addiExt 5 6 (.one 100000)) ∧
  decodeTableWord 96 0x000000012345678908A00002 = some (.addiExt 5 0 (.two 0x23456789 1)) ∧
  decodeTableWord 32 0x1864801C = some (.srai 3 4 7) ∧ decodeTableWord 32 0x24A0FFF4 = some (.bne 5 0 0x3FFD) ∧
  decodeTableWord 32 0x3BFFFFF0 = some (.jmp 0xFFFFFC) ∧ decodeTableWord 32 0x59020060 = some (.ldw 8 2 24) ∧
  decodeTableWord 32 0x79450014 = some (.stq 10 5 2 true) ∧ decodeTableWord 32 0x7CC91180 = some (.tld 6 9 17 .w) ∧
  decodeTableWord 32 0x84863834 = some (.amoAdd 4 6 7 true true .acq) ∧ decodeTableWord 32 0x88004800 = some (.fence .pkg .rel) ∧
  decodeTableWord 32 0x90060040 = some (.csrw 0 6 0x10) ∧ decodeTableWord 32 0xA9095000 = some (.sbind 8 9 10) ∧
  decodeTableWord 32 0xB10950CC = some (.mread 8 9 10 true true) ∧ decodeTableWord 32 0xB50A5844 = some (.drd 8 10 11 true) ∧
  decodeTableWord 32 0xCD090080 = some (.disp 8 9)

/-- R15-R29: decoding is the inverse of encoding: for every well-formed control instruction, with every operand at every value
its fields hold, the words that encode it decode to it. -/
def Obligations.RoundTrip : Prop := ∀ i : Instr, i.wf = true → i.isControl = true → decodeWords (encode i) = .ok i

/-- Every step keeps the canonical form of global memory, lodge SRAM and instruction memory: rising addresses, and no byte
listed that an unlisted one reads as (log 3, log 4: the model's own form of memory). -/
def Obligations.MemoryCanonical : Prop := ∀ s s' : State, s.memOk = true → step s = .next s' → s'.memOk = true

/-- R309, R361, R393, R365, R310, R312 and what the model chooses where the manual is silent (registers: log 2; that memory nothing
has written reads 0: log 4): after reset lodge cores 0 and 1 are ACTIVE
at 0x0000 with privilege L and registers 0, cores 2 and 3 STANDBY; every thread context FREE, every plane UNCONFIGURED, every
tile FREE, rings and gates uninitialised; TAKEVEC 0; no scrub has been numbered; memory lists nothing and is canonical. -/
def Obligations.ResetState : Prop :=
  let s := State.reset
  s.memOk = true ∧ s.takevec = 0 ∧ s.scrubSeq = 0 ∧ s.jnext = 1 ∧ s.fatal = false ∧
  (∀ c, c < 4 → (s.lodge c).role = (if c < 2 then .active else .standby) ∧ (s.lodge c).ctx.pc = 0 ∧ ∀ r, (s.lodge c).ctx.get r = 0) ∧
  (∀ c, c < 2 → (s.lodge c).ctx.priv = .l ∧ (s.lodge c).ctx.st = .running) ∧
  (∀ h, (s.thread h).st = .free ∧ ∀ r, (s.thread h).get r = 0) ∧
  (∀ p k, (s.plane p k).st = .unconfigured) ∧ (∀ p h, (s.tile p h).st = .free) ∧ (∀ p g, (s.gate p g).arrinit = 0) ∧
  (∀ p r, (s.ring p r).active = false) ∧ (∀ a, Mem.get s.mem a = 0)

/-! Claims of one family together. -/

/-- The integer instructions: two operands, division and remainder, one operand, and immediates.
Completes: aluAdd, aluSub, aluAnd, aluOr, aluXor, aluSll, aluSrl, aluSra, aluSlt, aluSltu, aluMin, aluMax, aluMinu, aluMaxu,
aluMul, aluMulh, aluMulhu, aluDiv, aluDivu, aluRem, aluRemu, clz, ctz, popc, addi, addiExt, andi, andiExt, ori, oriExt,
xori, xoriExt, slti, sltiExt, slli, srli, srai. -/
def Obligations.IntegerResult : Prop :=
  AluResult ∧ DivideResult ∧ CountResult ∧ ImmediateResult

/-- Branches, and jumps with their links.
Completes: beq, beqExt, bne, bneExt, blt, bltExt, bge, bgeExt, bltu, bltuExt, bgeu, bgeuExt, jmp, jal, jalr, jalrExt. -/
def Obligations.ControlFlow : Prop :=
  BranchResult ∧ JumpResult

/-- LDQ and STQ.
Completes: ldq, ldqExt, stq, stqExt. -/
def Obligations.PairAccess : Prop :=
  LoadPair ∧ StorePair

/-- The atomic operations.
Completes: amoAdd, amoAnd, amoOr, amoXor, amoMin, amoMax, amoMinu, amoMaxu, amoSwap, amoCas. -/
def Obligations.AtomicResult : Prop :=
  AmoResult ∧ CompareAndSwap

/-- Instructions that trap and have none of their effect: misaligned targets and accesses, tile accesses that their tile refuses, atomic operations with a result in a reproducible launch, refused system registers, and instructions above the privilege. -/
def Obligations.InstructionTraps : Prop :=
  JumpMisaligned ∧ MisalignedAccess ∧ TileAccessTrap ∧ AmoRepro ∧ SystemRegisterRefused ∧ PrivilegeTrap

/-- The four instructions on system registers.
Completes: csrr, csrw, csrs, csrc. -/
def Obligations.SystemRegisters : Prop :=
  SystemRegister

/-- Translation invalidations posted, and their completion awaited.
Completes: tlbinv, tlbinva, tlbsync. -/
def Obligations.Invalidation : Prop :=
  InvalidationPosted ∧ InvalidationSync

/-- JOIN, LEAVE and SBAR.
Completes: join, leave, sbar. -/
def Obligations.SetBarriers : Prop :=
  SetJoin ∧ SetBarrier

/-- A full command queue, SWAIT and CBAR.
Completes: swait, cbar, cmdqStall. -/
def Obligations.CommandWaits : Prop :=
  CommandStall ∧ StreamWait

/-- The TILE group.
Completes: talloc, tfree, tfill, tdrain, tstat, twait. -/
def Obligations.TileInstructions : Prop :=
  TileAllocation ∧ TileCommands

/-- The RING, GATE and COPY groups.
Completes: rinit, rawait, rrel, rpeek, ginit, garr, gexp, gwait, ckick, cstat, cstop. -/
def Obligations.RingsGatesCopies : Prop :=
  RingInstructions ∧ GateInstructions ∧ CopyInstructions

/-- The cell operations with two operands: integer, floating-point, and comparisons.
Completes: cellAdd, cellSub, cellMul, cellAnd, cellOr, cellXor, cellShl, cellShr, cellSar, cellMin, cellMax, cellAbs,
cellNeg, cellCmpeq, cellCmplt, cellCmple, cellFadd, cellFsub, cellFmul, cellFma, cellFmin, cellFmax, cellFcmpeq, cellFcmplt,
cellFabs, cellFneg, cellExp2, cellLog2, cellRcp, cellRsqrt, cellSqrt, cellTanh, cellSigm, cellGact. -/
def Obligations.CellResult : Prop :=
  CellIntegerResult ∧ CellFloatResult ∧ CellCompareResult

/-- A port's beats, and the rest of a stream's life.
Completes: streamBegin, portReadBeat, portWriteBeat, rowAcknowledgement, streamEnd, streamFatal, eotMarkerConsume. -/
def Obligations.StreamProgress : Prop :=
  StreamBeat ∧ StreamEvents

/-- Ring and gate signals, and copy channels.
Completes: rrelStart, garrStart, ckickStart, channelRecordStart, channelRecordComplete, cstopDone. -/
def Obligations.SignalsAndCopies : Prop :=
  SignalEvents ∧ ChannelRecord

/-- Tokens move, and configurations load.
Completes: tokenDelivery, orderingArcDelivery, configurationLoadEnd. -/
def Obligations.FabricEvents : Prop :=
  TokenDelivery ∧ ConfigurationLoad

/-- Waits that return, and ICINV.
Completes: icinv, waitWake, waitLimitExpiry, swaitReturn, twaitReturn, rawaitReturn, gwaitReturn, sbarReturn, tlbsyncReturn,
dsyncReturn, drdReturn, nbwaitReturn, cbarReturn, icinvReturn. -/
def Obligations.ReturnsAndCode : Prop :=
  WaitReturns ∧ CodeInvalidation

/-- The DERIVED group.
Completes: ddecl, drd, dsync, dreb, ddrop, dstat. -/
def Obligations.DerivedOps : Prop :=
  DerivedDeclare ∧ DerivedInstructions

/-- Launches from their queues to their completions, and the stage balancer.
Completes: threadEnd, completionPost, queueEntryTake, watchdogExpiry, balancerSample. -/
def Obligations.LaunchProgress : Prop :=
  LaunchEvents ∧ StageBalancer

/-- Take-over, and the lodge control window.
Completes: heartbeatTimeout, winPeek, winStop, winCut, winDrain, winReset, winPost, windowCommandFinish,
instructionMemoryError. -/
def Obligations.LodgeControl : Prop :=
  LodgeTakeOver ∧ LodgeWindow

/-- Bindings, rows, accumulator commands and the subnormal assist.
Completes: sliceLoadEnd, bindingStart, weightReload, rowFire, assistResume, mzeroClear, mreadReadout, mnormApply,
assistresWrite. -/
def Obligations.LatticeProgress : Prop :=
  LatticeEvents ∧ AccumulatorEvents ∧ AssistEvents
end

