-- ==== Sys2Proof/Laws/Tables.lean ====
section
/-! SUPPORT. Laws of sparse tables and of byte memory: what is read after a write, and that writes keep the canonical
form. They hold of every table and every memory, canonical or not, unless they say otherwise. -/

namespace Sys2Proof

namespace Tbl

variable {α : Type} (t : Tbl α)

theorem get?_set_same (k : Nat) (v : α) : get? (set t k v) k = some v := by
  induction t with
  | nil => simp [set, get?]
  | cons e t ih =>
    obtain ⟨k', v'⟩ := e
    by_cases h : k' = k
    · simp [set, get?, h]
    · by_cases h2 : k < k' <;> simp [set, get?, h, h2, ih]

theorem get?_set_other {k j : Nat} (v : α) (h : j ≠ k) : get? (set t k v) j = get? t j := by
  induction t with
  | nil => simp [set, get?, Ne.symm h]
  | cons e t ih =>
    obtain ⟨k', v'⟩ := e
    by_cases h1 : k' = k
    · subst h1; simp [set, get?, Ne.symm h]
    · by_cases h2 : k < k'
      · simp [set, get?, h1, h2, Ne.symm h]
      · by_cases h3 : k' = j
        · subst h3; simp [set, get?, h1, h2]
        · simp [set, get?, h1, h2, h3, ih]

@[simp] theorem getD_set_same (k : Nat) (v d : α) : getD (set t k v) k d = v := by
  simp [getD, get?_set_same]

theorem getD_set_other {k j : Nat} (v d : α) (h : j ≠ k) : getD (set t k v) j d = getD t j d := by
  simp [getD, get?_set_other t v h]

@[simp] theorem set_set (k : Nat) (v w : α) : set (set t k v) k w = set t k w := by
  induction t with
  | nil => simp [set]
  | cons e t ih =>
    obtain ⟨k', v'⟩ := e
    by_cases h : k' = k
    · simp [set, h]
    · by_cases h2 : k < k' <;> simp [set, h, h2, ih]

end Tbl

namespace Machine

/-! Byte memory. -/

/-- The rest of a canonical memory is canonical. -/
theorem Mem.wf_tail {k : Nat} {v : Byte} {t : List Host.Cell} (h : Mem.wf ((k, v) :: t) = true) : Mem.wf t = true := by
  cases t with
  | nil => rfl
  | cons e t => simp [Mem.wf] at h; exact h.2

/-- Below the first listed address of a canonical memory every byte is unlisted. -/
theorem Mem.get_below {a k : Nat} {v : Byte} {t : List Host.Cell} (h : Mem.wf ((k, v) :: t) = true) (ha : a < k) :
    Mem.get ((k, v) :: t) a = Mem.unlisted := by
  induction t generalizing k v with
  | nil => simp [Mem.get, (Nat.ne_of_lt ha).symm]
  | cons e t ih =>
    obtain ⟨k', v'⟩ := e
    have h' := Mem.wf_tail h
    simp [Mem.wf] at h
    have := ih h' (by omega)
    rw [Mem.get, if_neg (by omega), this]

/-- The byte written is read. -/
theorem Mem.get_set_same (m : List Host.Cell) (a : Nat) (b : Byte) (h : Mem.wf m = true) :
    Mem.get (Mem.set m a b) a = b := by
  induction m with
  | nil => by_cases hb : b = Mem.unlisted <;> simp [Mem.set, Mem.get, hb]
  | cons e t ih =>
    obtain ⟨k, v⟩ := e
    by_cases h1 : k = a
    · subst h1
      by_cases hb : b = Mem.unlisted
      · subst hb
        simp only [Mem.set, if_true]
        cases t with
        | nil => rfl
        | cons e t =>
          obtain ⟨k', v'⟩ := e
          have h' := Mem.wf_tail h
          simp [Mem.wf] at h
          exact Mem.get_below h' h.1.2
      · simp [Mem.set, Mem.get, hb]
    · by_cases h2 : a < k
      · by_cases hb : b = Mem.unlisted
        · subst hb
          simp only [Mem.set, if_neg h1, if_pos h2, if_true]
          exact Mem.get_below h h2
        · simp [Mem.set, Mem.get, h1, h2, hb]
      · simp [Mem.set, Mem.get, h1, h2, ih (Mem.wf_tail h)]

/-- Every other byte reads as before a write. -/
theorem Mem.get_set_other (m : List Host.Cell) {a c : Nat} (b : Byte) (h : Mem.wf m = true) (hc : c ≠ a) :
    Mem.get (Mem.set m a b) c = Mem.get m c := by
  induction m with
  | nil => by_cases hb : b = Mem.unlisted <;> simp [Mem.set, Mem.get, hb, hc.symm]
  | cons e t ih =>
    obtain ⟨k, v⟩ := e
    by_cases h1 : k = a
    · subst h1
      by_cases hb : b = Mem.unlisted <;> simp [Mem.set, Mem.get, hb, hc.symm]
    · by_cases h2 : a < k
      · by_cases hb : b = Mem.unlisted <;> simp [Mem.set, Mem.get, h1, h2, hb, hc.symm]
      · by_cases h3 : k = c
        · subst h3; simp [Mem.set, Mem.get, h1, h2]
        · simp [Mem.set, Mem.get, h1, h2, h3, ih (Mem.wf_tail h)]

/-- A lower bound of the keys of a written memory. -/
theorem Mem.wf_cons_set {k a : Nat} {v b : Byte} {t : List Host.Cell} (h : Mem.wf ((k, v) :: t) = true) (hk : k < a)
    (ht : Mem.wf (Mem.set t a b) = true) : Mem.wf ((k, v) :: Mem.set t a b) = true := by
  cases t with
  | nil =>
    by_cases hb : b = Mem.unlisted
    · simpa [Mem.set, hb] using h
    · simp [Mem.set, hb, Mem.wf] at h ⊢; exact ⟨h, hk⟩
  | cons e t =>
    obtain ⟨k', v'⟩ := e
    have h0 := h
    simp [Mem.wf] at h0
    by_cases h1 : k' = a
    · by_cases hb : b = Mem.unlisted
      · simp only [Mem.set, h1, hb, if_true] at ht ⊢
        cases t with
        | nil => simp [Mem.wf, h0.1.1]
        | cons e t =>
          obtain ⟨k2, v2⟩ := e
          have h2 := h0.2
          simp [Mem.wf] at h2 ht ⊢
          exact ⟨⟨h0.1.1, by omega⟩, ht⟩
      · simp only [Mem.set, h1, hb, if_true, if_false] at ht ⊢
        simp only [Mem.wf, Bool.and_eq_true, decide_eq_true_eq, bne_iff_ne]
        exact ⟨⟨h0.1.1, hk⟩, ht⟩
    · by_cases h2 : a < k'
      · by_cases hb : b = Mem.unlisted
        · simpa [Mem.set, h1, h2, hb] using h
        · simp only [Mem.set, h1, h2, hb, if_true, if_false] at ht ⊢
          rw [Mem.wf, ht]
          simp [h0.1.1, hk]
      · simp only [Mem.set, h1, h2, if_false] at ht ⊢
        simp only [Mem.wf, Bool.and_eq_true, decide_eq_true_eq, bne_iff_ne]
        exact ⟨⟨h0.1.1, h0.1.2⟩, ht⟩

/-- A write keeps the canonical form. -/
theorem Mem.wf_set (m : List Host.Cell) (a : Nat) (b : Byte) (h : Mem.wf m = true) : Mem.wf (Mem.set m a b) = true := by
  induction m with
  | nil => by_cases hb : b = Mem.unlisted <;> simp [Mem.set, Mem.wf, hb]
  | cons e t ih =>
    obtain ⟨k, v⟩ := e
    by_cases h1 : k = a
    · subst h1
      by_cases hb : b = Mem.unlisted
      · simpa [Mem.set, hb] using Mem.wf_tail h
      · simp only [Mem.set, hb, if_true, if_false]
        cases t with
        | nil => simp [Mem.wf, hb]
        | cons e t => simp [Mem.wf] at h ⊢; exact ⟨⟨hb, h.1.2⟩, h.2⟩
    · by_cases h2 : a < k
      · by_cases hb : b = Mem.unlisted
        · simpa [Mem.set, h1, h2, hb] using h
        · simp only [Mem.set, h1, h2, hb, if_true, if_false]
          simp only [Mem.wf, Bool.and_eq_true, decide_eq_true_eq, bne_iff_ne]
          exact ⟨⟨hb, h2⟩, h⟩
      · simp only [Mem.set, h1, h2, if_false]
        exact Mem.wf_cons_set h (by omega) (ih (Mem.wf_tail h))

/-- A write of several bytes keeps the canonical form. -/
theorem Mem.wf_write (m : List Host.Cell) (a : Nat) (bs : List Byte) (h : Mem.wf m = true) :
    Mem.wf (Mem.write m a bs) = true := by
  induction bs generalizing m a with
  | nil => exact h
  | cons b bs ih => exact ih _ _ (Mem.wf_set m a b h)

/-- A byte outside the written ones reads as before. -/
theorem Mem.get_write_outside (m : List Host.Cell) (a : Nat) (bs : List Byte) (h : Mem.wf m = true) {c : Nat}
    (hc : c < a ∨ a + bs.length ≤ c) : Mem.get (Mem.write m a bs) c = Mem.get m c := by
  induction bs generalizing m a with
  | nil => rfl
  | cons b bs ih =>
    simp only [List.length_cons] at hc
    rw [Mem.write, ih _ _ (Mem.wf_set m a b h) (by omega), Mem.get_set_other m b h (by omega)]

/-- The bytes written are read at their addresses. -/
theorem Mem.get_write_inside (m : List Host.Cell) (a : Nat) (bs : List Byte) (h : Mem.wf m = true) {i : Nat}
    (hi : i < bs.length) : Mem.get (Mem.write m a bs) (a + i) = bs[i] := by
  induction bs generalizing m a i with
  | nil => simp at hi
  | cons b bs ih =>
    cases i with
    | zero =>
      rw [Mem.write, Mem.get_write_outside _ _ _ (Mem.wf_set m a b h) (by omega), Nat.add_zero,
        Mem.get_set_same m a b h]
      rfl
    | succ i =>
      have := ih (Mem.set m a b) (a + 1) (i := i) (Mem.wf_set m a b h) (by simpa using hi)
      rw [Mem.write, show a + (i + 1) = a + 1 + i by omega, this]
      rfl

@[simp] theorem Mem.read_length (m : List Host.Cell) (a n : Nat) : (Mem.read m a n).length = n := by
  induction n generalizing a with
  | zero => rfl
  | succ n ih => simp [Mem.read, ih]

/-- A read answers the bytes of its range. -/
theorem Mem.read_get (m : List Host.Cell) (a n i : Nat) (hi : i < n) : (Mem.read m a n)[i]? = some (Mem.get m (a + i)) := by
  induction n generalizing a i with
  | zero => omega
  | succ n ih =>
    cases i with
    | zero => simp [Mem.read]
    | succ i =>
      rw [Mem.read, List.getElem?_cons_succ, ih (a + 1) i (by omega)]
      congr 2; omega

/-- What was written is read back. -/
theorem Mem.read_write_same (m : List Host.Cell) (a : Nat) (bs : List Byte) (h : Mem.wf m = true) :
    Mem.read (Mem.write m a bs) a bs.length = bs := by
  apply List.ext_getElem?
  intro i
  by_cases hi : i < bs.length
  · rw [Mem.read_get _ _ _ _ hi, Mem.get_write_inside m a bs h hi, List.getElem?_eq_getElem hi]
  · rw [List.getElem?_eq_none (by simpa using hi), List.getElem?_eq_none (by omega)]

/-- A range apart from the written one reads as before. -/
theorem Mem.read_write_apart (m : List Host.Cell) (a c n : Nat) (bs : List Byte) (h : Mem.wf m = true)
    (hc : c + n ≤ a ∨ a + bs.length ≤ c) : Mem.read (Mem.write m a bs) c n = Mem.read m c n := by
  apply List.ext_getElem?
  intro i
  by_cases hi : i < n
  · rw [Mem.read_get _ _ _ _ hi, Mem.read_get _ _ _ _ hi, Mem.get_write_outside m a bs h (by omega)]
  · rw [List.getElem?_eq_none (by simpa using hi), List.getElem?_eq_none (by simpa using hi)]

@[simp] theorem leBytes_length (n v : Nat) : (leBytes n v).length = n := by
  induction n generalizing v with
  | zero => rfl
  | succ n ih => simp [leBytes, ih]

/-- The value of the low bytes of a value. -/
theorem leNat_leBytes (n v : Nat) : leNat (leBytes n v) = v % 256 ^ n := by
  induction n generalizing v with
  | zero => simp [leBytes, leNat, Nat.mod_one]
  | succ n ih =>
    have h : (BitVec.ofNat 8 v).toNat = v % 256 := by simp
    rw [leBytes, leNat, ih, h, Nat.pow_succ, Nat.mul_comm (256 ^ n) 256, Nat.mod_mul]

end Machine

end Sys2Proof
end

