-- ==== Sys2Proof/Laws/State.lean ====
section
/-! SUPPORT. What each update of a part of the state leaves of every other field. -/

namespace Sys2Proof.Machine

variable (s : State)

/-! `setThread` -/

@[simp] theorem State.setThread_cur (t : Nat) (c : Ctx) : (s.setThread t c).cur = s.cur := rfl
@[simp] theorem State.setThread_agenda (t : Nat) (c : Ctx) : (s.setThread t c).agenda = s.agenda := rfl
@[simp] theorem State.setThread_cycle (t : Nat) (c : Ctx) : (s.setThread t c).cycle = s.cycle := rfl
@[simp] theorem State.setThread_free (t : Nat) (c : Ctx) : (s.setThread t c).free = s.free := rfl
@[simp] theorem State.setThread_mem (t : Nat) (c : Ctx) : (s.setThread t c).mem = s.mem := rfl
@[simp] theorem State.setThread_badMem (t : Nat) (c : Ctx) : (s.setThread t c).badMem = s.badMem := rfl
@[simp] theorem State.setThread_sram (t : Nat) (c : Ctx) : (s.setThread t c).sram = s.sram := rfl
@[simp] theorem State.setThread_sramBad (t : Nat) (c : Ctx) : (s.setThread t c).sramBad = s.sramBad := rfl
@[simp] theorem State.setThread_imem (t : Nat) (c : Ctx) : (s.setThread t c).imem = s.imem := rfl
@[simp] theorem State.setThread_lodges (t : Nat) (c : Ctx) : (s.setThread t c).lodges = s.lodges := rfl
@[simp] theorem State.setThread_plots (t : Nat) (c : Ctx) : (s.setThread t c).plots = s.plots := rfl
@[simp] theorem State.setThread_planes (t : Nat) (c : Ctx) : (s.setThread t c).planes = s.planes := rfl
@[simp] theorem State.setThread_cells (t : Nat) (c : Ctx) : (s.setThread t c).cells = s.cells := rfl
@[simp] theorem State.setThread_ports (t : Nat) (c : Ctx) : (s.setThread t c).ports = s.ports := rfl
@[simp] theorem State.setThread_lats (t : Nat) (c : Ctx) : (s.setThread t c).lats = s.lats := rfl
@[simp] theorem State.setThread_latOwner (t : Nat) (c : Ctx) : (s.setThread t c).latOwner = s.latOwner := rfl
@[simp] theorem State.setThread_accs (t : Nat) (c : Ctx) : (s.setThread t c).accs = s.accs := rfl
@[simp] theorem State.setThread_tiles (t : Nat) (c : Ctx) : (s.setThread t c).tiles = s.tiles := rfl
@[simp] theorem State.setThread_rings (t : Nat) (c : Ctx) : (s.setThread t c).rings = s.rings := rfl
@[simp] theorem State.setThread_gates (t : Nat) (c : Ctx) : (s.setThread t c).gates = s.gates := rfl
@[simp] theorem State.setThread_chans (t : Nat) (c : Ctx) : (s.setThread t c).chans = s.chans := rfl
@[simp] theorem State.setThread_mboxes (t : Nat) (c : Ctx) : (s.setThread t c).mboxes = s.mboxes := rfl
@[simp] theorem State.setThread_sets (t : Nat) (c : Ctx) : (s.setThread t c).sets = s.sets := rfl
@[simp] theorem State.setThread_tenants (t : Nat) (c : Ctx) : (s.setThread t c).tenants = s.tenants := rfl
@[simp] theorem State.setThread_pend (t : Nat) (c : Ctx) : (s.setThread t c).pend = s.pend := rfl
@[simp] theorem State.setThread_seen (t : Nat) (c : Ctx) : (s.setThread t c).seen = s.seen := rfl
@[simp] theorem State.setThread_knows (t : Nat) (c : Ctx) : (s.setThread t c).knows = s.knows := rfl
@[simp] theorem State.setThread_remotes (t : Nat) (c : Ctx) : (s.setThread t c).remotes = s.remotes := rfl
@[simp] theorem State.setThread_nextId (t : Nat) (c : Ctx) : (s.setThread t c).nextId = s.nextId := rfl
@[simp] theorem State.setThread_xlats (t : Nat) (c : Ctx) : (s.setThread t c).xlats = s.xlats := rfl
@[simp] theorem State.setThread_tabs (t : Nat) (c : Ctx) : (s.setThread t c).tabs = s.tabs := rfl
@[simp] theorem State.setThread_invals (t : Nat) (c : Ctx) : (s.setThread t c).invals = s.invals := rfl
@[simp] theorem State.setThread_prqs (t : Nat) (c : Ctx) : (s.setThread t c).prqs = s.prqs := rfl
@[simp] theorem State.setThread_prqWait (t : Nat) (c : Ctx) : (s.setThread t c).prqWait = s.prqWait := rfl
@[simp] theorem State.setThread_fatals (t : Nat) (c : Ctx) : (s.setThread t c).fatals = s.fatals := rfl
@[simp] theorem State.setThread_regions (t : Nat) (c : Ctx) : (s.setThread t c).regions = s.regions := rfl
@[simp] theorem State.setThread_slots (t : Nat) (c : Ctx) : (s.setThread t c).slots = s.slots := rfl
@[simp] theorem State.setThread_queues (t : Nat) (c : Ctx) : (s.setThread t c).queues = s.queues := rfl
@[simp] theorem State.setThread_crings (t : Nat) (c : Ctx) : (s.setThread t c).crings = s.crings := rfl
@[simp] theorem State.setThread_held (t : Nat) (c : Ctx) : (s.setThread t c).held = s.held := rfl
@[simp] theorem State.setThread_kicks (t : Nat) (c : Ctx) : (s.setThread t c).kicks = s.kicks := rfl
@[simp] theorem State.setThread_wdogs (t : Nat) (c : Ctx) : (s.setThread t c).wdogs = s.wdogs := rfl
@[simp] theorem State.setThread_jnext (t : Nat) (c : Ctx) : (s.setThread t c).jnext = s.jnext := rfl
@[simp] theorem State.setThread_takevec (t : Nat) (c : Ctx) : (s.setThread t c).takevec = s.takevec := rfl
@[simp] theorem State.setThread_lfault (t : Nat) (c : Ctx) : (s.setThread t c).lfault = s.lfault := rfl
@[simp] theorem State.setThread_fatal (t : Nat) (c : Ctx) : (s.setThread t c).fatal = s.fatal := rfl
@[simp] theorem State.setThread_frames (t : Nat) (c : Ctx) : (s.setThread t c).frames = s.frames := rfl
@[simp] theorem State.setThread_frame (t : Nat) (c : Ctx) : (s.setThread t c).frame = s.frame := rfl
@[simp] theorem State.setThread_cuts (t : Nat) (c : Ctx) : (s.setThread t c).cuts = s.cuts := rfl
@[simp] theorem State.setThread_scrubs (t : Nat) (c : Ctx) : (s.setThread t c).scrubs = s.scrubs := rfl
@[simp] theorem State.setThread_scrubSeq (t : Nat) (c : Ctx) : (s.setThread t c).scrubSeq = s.scrubSeq := rfl
@[simp] theorem State.setThread_scrubLast (t : Nat) (c : Ctx) : (s.setThread t c).scrubLast = s.scrubLast := rfl
@[simp] theorem State.setThread_tokenBars (t : Nat) (c : Ctx) : (s.setThread t c).tokenBars = s.tokenBars := rfl
@[simp] theorem State.setThread_ways (t : Nat) (c : Ctx) : (s.setThread t c).ways = s.ways := rfl
@[simp] theorem State.setThread_waySpares (t : Nat) (c : Ctx) : (s.setThread t c).waySpares = s.waySpares := rfl
@[simp] theorem State.setThread_waysLost (t : Nat) (c : Ctx) : (s.setThread t c).waysLost = s.waysLost := rfl
@[simp] theorem State.setThread_spares (t : Nat) (c : Ctx) : (s.setThread t c).spares = s.spares := rfl
@[simp] theorem State.setThread_colSpares (t : Nat) (c : Ctx) : (s.setThread t c).colSpares = s.colSpares := rfl
@[simp] theorem State.setThread_rowRepairs (t : Nat) (c : Ctx) : (s.setThread t c).rowRepairs = s.rowRepairs := rfl
@[simp] theorem State.setThread_repairs (t : Nat) (c : Ctx) : (s.setThread t c).repairs = s.repairs := rfl
@[simp] theorem State.setThread_wear (t : Nat) (c : Ctx) : (s.setThread t c).wear = s.wear := rfl
@[simp] theorem State.setThread_lanes (t : Nat) (c : Ctx) : (s.setThread t c).lanes = s.lanes := rfl
@[simp] theorem State.setThread_admin (t : Nat) (c : Ctx) : (s.setThread t c).admin = s.admin := rfl
@[simp] theorem State.setThread_vfbox (t : Nat) (c : Ctx) : (s.setThread t c).vfbox = s.vfbox := rfl
@[simp] theorem State.setThread_pftoken (t : Nat) (c : Ctx) : (s.setThread t c).pftoken = s.pftoken := rfl
@[simp] theorem State.setThread_perms (t : Nat) (c : Ctx) : (s.setThread t c).perms = s.perms := rfl
@[simp] theorem State.setThread_tierEnc (t : Nat) (c : Ctx) : (s.setThread t c).tierEnc = s.tierEnc := rfl
@[simp] theorem State.setThread_shared (t : Nat) (c : Ctx) : (s.setThread t c).shared = s.shared := rfl
@[simp] theorem State.setThread_hostHeld (t : Nat) (c : Ctx) : (s.setThread t c).hostHeld = s.hostHeld := rfl
@[simp] theorem State.setThread_pwrcap (t : Nat) (c : Ctx) : (s.setThread t c).pwrcap = s.pwrcap := rfl
@[simp] theorem State.setThread_locid (t : Nat) (c : Ctx) : (s.setThread t c).locid = s.locid := rfl
@[simp] theorem State.setThread_staged (t : Nat) (c : Ctx) : (s.setThread t c).staged = s.staged := rfl
@[simp] theorem State.setThread_running (t : Nat) (c : Ctx) : (s.setThread t c).running = s.running := rfl
@[simp] theorem State.setThread_vec0 (t : Nat) (c : Ctx) : (s.setThread t c).vec0 = s.vec0 := rfl
@[simp] theorem State.setThread_mctp (t : Nat) (c : Ctx) : (s.setThread t c).mctp = s.mctp := rfl
@[simp] theorem State.setThread_flits (t : Nat) (c : Ctx) : (s.setThread t c).flits = s.flits := rfl

/-! `setLodge` -/

@[simp] theorem State.setLodge_cur (k : Nat) (l : Lodge) : (s.setLodge k l).cur = s.cur := rfl
@[simp] theorem State.setLodge_agenda (k : Nat) (l : Lodge) : (s.setLodge k l).agenda = s.agenda := rfl
@[simp] theorem State.setLodge_cycle (k : Nat) (l : Lodge) : (s.setLodge k l).cycle = s.cycle := rfl
@[simp] theorem State.setLodge_free (k : Nat) (l : Lodge) : (s.setLodge k l).free = s.free := rfl
@[simp] theorem State.setLodge_mem (k : Nat) (l : Lodge) : (s.setLodge k l).mem = s.mem := rfl
@[simp] theorem State.setLodge_badMem (k : Nat) (l : Lodge) : (s.setLodge k l).badMem = s.badMem := rfl
@[simp] theorem State.setLodge_sram (k : Nat) (l : Lodge) : (s.setLodge k l).sram = s.sram := rfl
@[simp] theorem State.setLodge_sramBad (k : Nat) (l : Lodge) : (s.setLodge k l).sramBad = s.sramBad := rfl
@[simp] theorem State.setLodge_imem (k : Nat) (l : Lodge) : (s.setLodge k l).imem = s.imem := rfl
@[simp] theorem State.setLodge_threads (k : Nat) (l : Lodge) : (s.setLodge k l).threads = s.threads := rfl
@[simp] theorem State.setLodge_plots (k : Nat) (l : Lodge) : (s.setLodge k l).plots = s.plots := rfl
@[simp] theorem State.setLodge_planes (k : Nat) (l : Lodge) : (s.setLodge k l).planes = s.planes := rfl
@[simp] theorem State.setLodge_cells (k : Nat) (l : Lodge) : (s.setLodge k l).cells = s.cells := rfl
@[simp] theorem State.setLodge_ports (k : Nat) (l : Lodge) : (s.setLodge k l).ports = s.ports := rfl
@[simp] theorem State.setLodge_lats (k : Nat) (l : Lodge) : (s.setLodge k l).lats = s.lats := rfl
@[simp] theorem State.setLodge_latOwner (k : Nat) (l : Lodge) : (s.setLodge k l).latOwner = s.latOwner := rfl
@[simp] theorem State.setLodge_accs (k : Nat) (l : Lodge) : (s.setLodge k l).accs = s.accs := rfl
@[simp] theorem State.setLodge_tiles (k : Nat) (l : Lodge) : (s.setLodge k l).tiles = s.tiles := rfl
@[simp] theorem State.setLodge_rings (k : Nat) (l : Lodge) : (s.setLodge k l).rings = s.rings := rfl
@[simp] theorem State.setLodge_gates (k : Nat) (l : Lodge) : (s.setLodge k l).gates = s.gates := rfl
@[simp] theorem State.setLodge_chans (k : Nat) (l : Lodge) : (s.setLodge k l).chans = s.chans := rfl
@[simp] theorem State.setLodge_mboxes (k : Nat) (l : Lodge) : (s.setLodge k l).mboxes = s.mboxes := rfl
@[simp] theorem State.setLodge_sets (k : Nat) (l : Lodge) : (s.setLodge k l).sets = s.sets := rfl
@[simp] theorem State.setLodge_tenants (k : Nat) (l : Lodge) : (s.setLodge k l).tenants = s.tenants := rfl
@[simp] theorem State.setLodge_pend (k : Nat) (l : Lodge) : (s.setLodge k l).pend = s.pend := rfl
@[simp] theorem State.setLodge_seen (k : Nat) (l : Lodge) : (s.setLodge k l).seen = s.seen := rfl
@[simp] theorem State.setLodge_knows (k : Nat) (l : Lodge) : (s.setLodge k l).knows = s.knows := rfl
@[simp] theorem State.setLodge_remotes (k : Nat) (l : Lodge) : (s.setLodge k l).remotes = s.remotes := rfl
@[simp] theorem State.setLodge_nextId (k : Nat) (l : Lodge) : (s.setLodge k l).nextId = s.nextId := rfl
@[simp] theorem State.setLodge_xlats (k : Nat) (l : Lodge) : (s.setLodge k l).xlats = s.xlats := rfl
@[simp] theorem State.setLodge_tabs (k : Nat) (l : Lodge) : (s.setLodge k l).tabs = s.tabs := rfl
@[simp] theorem State.setLodge_invals (k : Nat) (l : Lodge) : (s.setLodge k l).invals = s.invals := rfl
@[simp] theorem State.setLodge_prqs (k : Nat) (l : Lodge) : (s.setLodge k l).prqs = s.prqs := rfl
@[simp] theorem State.setLodge_prqWait (k : Nat) (l : Lodge) : (s.setLodge k l).prqWait = s.prqWait := rfl
@[simp] theorem State.setLodge_fatals (k : Nat) (l : Lodge) : (s.setLodge k l).fatals = s.fatals := rfl
@[simp] theorem State.setLodge_regions (k : Nat) (l : Lodge) : (s.setLodge k l).regions = s.regions := rfl
@[simp] theorem State.setLodge_slots (k : Nat) (l : Lodge) : (s.setLodge k l).slots = s.slots := rfl
@[simp] theorem State.setLodge_queues (k : Nat) (l : Lodge) : (s.setLodge k l).queues = s.queues := rfl
@[simp] theorem State.setLodge_crings (k : Nat) (l : Lodge) : (s.setLodge k l).crings = s.crings := rfl
@[simp] theorem State.setLodge_held (k : Nat) (l : Lodge) : (s.setLodge k l).held = s.held := rfl
@[simp] theorem State.setLodge_kicks (k : Nat) (l : Lodge) : (s.setLodge k l).kicks = s.kicks := rfl
@[simp] theorem State.setLodge_wdogs (k : Nat) (l : Lodge) : (s.setLodge k l).wdogs = s.wdogs := rfl
@[simp] theorem State.setLodge_jnext (k : Nat) (l : Lodge) : (s.setLodge k l).jnext = s.jnext := rfl
@[simp] theorem State.setLodge_takevec (k : Nat) (l : Lodge) : (s.setLodge k l).takevec = s.takevec := rfl
@[simp] theorem State.setLodge_lfault (k : Nat) (l : Lodge) : (s.setLodge k l).lfault = s.lfault := rfl
@[simp] theorem State.setLodge_fatal (k : Nat) (l : Lodge) : (s.setLodge k l).fatal = s.fatal := rfl
@[simp] theorem State.setLodge_frames (k : Nat) (l : Lodge) : (s.setLodge k l).frames = s.frames := rfl
@[simp] theorem State.setLodge_frame (k : Nat) (l : Lodge) : (s.setLodge k l).frame = s.frame := rfl
@[simp] theorem State.setLodge_cuts (k : Nat) (l : Lodge) : (s.setLodge k l).cuts = s.cuts := rfl
@[simp] theorem State.setLodge_scrubs (k : Nat) (l : Lodge) : (s.setLodge k l).scrubs = s.scrubs := rfl
@[simp] theorem State.setLodge_scrubSeq (k : Nat) (l : Lodge) : (s.setLodge k l).scrubSeq = s.scrubSeq := rfl
@[simp] theorem State.setLodge_scrubLast (k : Nat) (l : Lodge) : (s.setLodge k l).scrubLast = s.scrubLast := rfl
@[simp] theorem State.setLodge_tokenBars (k : Nat) (l : Lodge) : (s.setLodge k l).tokenBars = s.tokenBars := rfl
@[simp] theorem State.setLodge_ways (k : Nat) (l : Lodge) : (s.setLodge k l).ways = s.ways := rfl
@[simp] theorem State.setLodge_waySpares (k : Nat) (l : Lodge) : (s.setLodge k l).waySpares = s.waySpares := rfl
@[simp] theorem State.setLodge_waysLost (k : Nat) (l : Lodge) : (s.setLodge k l).waysLost = s.waysLost := rfl
@[simp] theorem State.setLodge_spares (k : Nat) (l : Lodge) : (s.setLodge k l).spares = s.spares := rfl
@[simp] theorem State.setLodge_colSpares (k : Nat) (l : Lodge) : (s.setLodge k l).colSpares = s.colSpares := rfl
@[simp] theorem State.setLodge_rowRepairs (k : Nat) (l : Lodge) : (s.setLodge k l).rowRepairs = s.rowRepairs := rfl
@[simp] theorem State.setLodge_repairs (k : Nat) (l : Lodge) : (s.setLodge k l).repairs = s.repairs := rfl
@[simp] theorem State.setLodge_wear (k : Nat) (l : Lodge) : (s.setLodge k l).wear = s.wear := rfl
@[simp] theorem State.setLodge_lanes (k : Nat) (l : Lodge) : (s.setLodge k l).lanes = s.lanes := rfl
@[simp] theorem State.setLodge_admin (k : Nat) (l : Lodge) : (s.setLodge k l).admin = s.admin := rfl
@[simp] theorem State.setLodge_vfbox (k : Nat) (l : Lodge) : (s.setLodge k l).vfbox = s.vfbox := rfl
@[simp] theorem State.setLodge_pftoken (k : Nat) (l : Lodge) : (s.setLodge k l).pftoken = s.pftoken := rfl
@[simp] theorem State.setLodge_perms (k : Nat) (l : Lodge) : (s.setLodge k l).perms = s.perms := rfl
@[simp] theorem State.setLodge_tierEnc (k : Nat) (l : Lodge) : (s.setLodge k l).tierEnc = s.tierEnc := rfl
@[simp] theorem State.setLodge_shared (k : Nat) (l : Lodge) : (s.setLodge k l).shared = s.shared := rfl
@[simp] theorem State.setLodge_hostHeld (k : Nat) (l : Lodge) : (s.setLodge k l).hostHeld = s.hostHeld := rfl
@[simp] theorem State.setLodge_pwrcap (k : Nat) (l : Lodge) : (s.setLodge k l).pwrcap = s.pwrcap := rfl
@[simp] theorem State.setLodge_locid (k : Nat) (l : Lodge) : (s.setLodge k l).locid = s.locid := rfl
@[simp] theorem State.setLodge_staged (k : Nat) (l : Lodge) : (s.setLodge k l).staged = s.staged := rfl
@[simp] theorem State.setLodge_running (k : Nat) (l : Lodge) : (s.setLodge k l).running = s.running := rfl
@[simp] theorem State.setLodge_vec0 (k : Nat) (l : Lodge) : (s.setLodge k l).vec0 = s.vec0 := rfl
@[simp] theorem State.setLodge_mctp (k : Nat) (l : Lodge) : (s.setLodge k l).mctp = s.mctp := rfl
@[simp] theorem State.setLodge_flits (k : Nat) (l : Lodge) : (s.setLodge k l).flits = s.flits := rfl

/-! `setPlot` -/

@[simp] theorem State.setPlot_cur (p : Nat) (x : Plot) : (s.setPlot p x).cur = s.cur := rfl
@[simp] theorem State.setPlot_agenda (p : Nat) (x : Plot) : (s.setPlot p x).agenda = s.agenda := rfl
@[simp] theorem State.setPlot_cycle (p : Nat) (x : Plot) : (s.setPlot p x).cycle = s.cycle := rfl
@[simp] theorem State.setPlot_free (p : Nat) (x : Plot) : (s.setPlot p x).free = s.free := rfl
@[simp] theorem State.setPlot_mem (p : Nat) (x : Plot) : (s.setPlot p x).mem = s.mem := rfl
@[simp] theorem State.setPlot_badMem (p : Nat) (x : Plot) : (s.setPlot p x).badMem = s.badMem := rfl
@[simp] theorem State.setPlot_sram (p : Nat) (x : Plot) : (s.setPlot p x).sram = s.sram := rfl
@[simp] theorem State.setPlot_sramBad (p : Nat) (x : Plot) : (s.setPlot p x).sramBad = s.sramBad := rfl
@[simp] theorem State.setPlot_imem (p : Nat) (x : Plot) : (s.setPlot p x).imem = s.imem := rfl
@[simp] theorem State.setPlot_threads (p : Nat) (x : Plot) : (s.setPlot p x).threads = s.threads := rfl
@[simp] theorem State.setPlot_lodges (p : Nat) (x : Plot) : (s.setPlot p x).lodges = s.lodges := rfl
@[simp] theorem State.setPlot_planes (p : Nat) (x : Plot) : (s.setPlot p x).planes = s.planes := rfl
@[simp] theorem State.setPlot_cells (p : Nat) (x : Plot) : (s.setPlot p x).cells = s.cells := rfl
@[simp] theorem State.setPlot_ports (p : Nat) (x : Plot) : (s.setPlot p x).ports = s.ports := rfl
@[simp] theorem State.setPlot_lats (p : Nat) (x : Plot) : (s.setPlot p x).lats = s.lats := rfl
@[simp] theorem State.setPlot_latOwner (p : Nat) (x : Plot) : (s.setPlot p x).latOwner = s.latOwner := rfl
@[simp] theorem State.setPlot_accs (p : Nat) (x : Plot) : (s.setPlot p x).accs = s.accs := rfl
@[simp] theorem State.setPlot_tiles (p : Nat) (x : Plot) : (s.setPlot p x).tiles = s.tiles := rfl
@[simp] theorem State.setPlot_rings (p : Nat) (x : Plot) : (s.setPlot p x).rings = s.rings := rfl
@[simp] theorem State.setPlot_gates (p : Nat) (x : Plot) : (s.setPlot p x).gates = s.gates := rfl
@[simp] theorem State.setPlot_chans (p : Nat) (x : Plot) : (s.setPlot p x).chans = s.chans := rfl
@[simp] theorem State.setPlot_mboxes (p : Nat) (x : Plot) : (s.setPlot p x).mboxes = s.mboxes := rfl
@[simp] theorem State.setPlot_sets (p : Nat) (x : Plot) : (s.setPlot p x).sets = s.sets := rfl
@[simp] theorem State.setPlot_tenants (p : Nat) (x : Plot) : (s.setPlot p x).tenants = s.tenants := rfl
@[simp] theorem State.setPlot_pend (p : Nat) (x : Plot) : (s.setPlot p x).pend = s.pend := rfl
@[simp] theorem State.setPlot_seen (p : Nat) (x : Plot) : (s.setPlot p x).seen = s.seen := rfl
@[simp] theorem State.setPlot_knows (p : Nat) (x : Plot) : (s.setPlot p x).knows = s.knows := rfl
@[simp] theorem State.setPlot_remotes (p : Nat) (x : Plot) : (s.setPlot p x).remotes = s.remotes := rfl
@[simp] theorem State.setPlot_nextId (p : Nat) (x : Plot) : (s.setPlot p x).nextId = s.nextId := rfl
@[simp] theorem State.setPlot_xlats (p : Nat) (x : Plot) : (s.setPlot p x).xlats = s.xlats := rfl
@[simp] theorem State.setPlot_tabs (p : Nat) (x : Plot) : (s.setPlot p x).tabs = s.tabs := rfl
@[simp] theorem State.setPlot_invals (p : Nat) (x : Plot) : (s.setPlot p x).invals = s.invals := rfl
@[simp] theorem State.setPlot_prqs (p : Nat) (x : Plot) : (s.setPlot p x).prqs = s.prqs := rfl
@[simp] theorem State.setPlot_prqWait (p : Nat) (x : Plot) : (s.setPlot p x).prqWait = s.prqWait := rfl
@[simp] theorem State.setPlot_fatals (p : Nat) (x : Plot) : (s.setPlot p x).fatals = s.fatals := rfl
@[simp] theorem State.setPlot_regions (p : Nat) (x : Plot) : (s.setPlot p x).regions = s.regions := rfl
@[simp] theorem State.setPlot_slots (p : Nat) (x : Plot) : (s.setPlot p x).slots = s.slots := rfl
@[simp] theorem State.setPlot_queues (p : Nat) (x : Plot) : (s.setPlot p x).queues = s.queues := rfl
@[simp] theorem State.setPlot_crings (p : Nat) (x : Plot) : (s.setPlot p x).crings = s.crings := rfl
@[simp] theorem State.setPlot_held (p : Nat) (x : Plot) : (s.setPlot p x).held = s.held := rfl
@[simp] theorem State.setPlot_kicks (p : Nat) (x : Plot) : (s.setPlot p x).kicks = s.kicks := rfl
@[simp] theorem State.setPlot_wdogs (p : Nat) (x : Plot) : (s.setPlot p x).wdogs = s.wdogs := rfl
@[simp] theorem State.setPlot_jnext (p : Nat) (x : Plot) : (s.setPlot p x).jnext = s.jnext := rfl
@[simp] theorem State.setPlot_takevec (p : Nat) (x : Plot) : (s.setPlot p x).takevec = s.takevec := rfl
@[simp] theorem State.setPlot_lfault (p : Nat) (x : Plot) : (s.setPlot p x).lfault = s.lfault := rfl
@[simp] theorem State.setPlot_fatal (p : Nat) (x : Plot) : (s.setPlot p x).fatal = s.fatal := rfl
@[simp] theorem State.setPlot_frames (p : Nat) (x : Plot) : (s.setPlot p x).frames = s.frames := rfl
@[simp] theorem State.setPlot_frame (p : Nat) (x : Plot) : (s.setPlot p x).frame = s.frame := rfl
@[simp] theorem State.setPlot_cuts (p : Nat) (x : Plot) : (s.setPlot p x).cuts = s.cuts := rfl
@[simp] theorem State.setPlot_scrubs (p : Nat) (x : Plot) : (s.setPlot p x).scrubs = s.scrubs := rfl
@[simp] theorem State.setPlot_scrubSeq (p : Nat) (x : Plot) : (s.setPlot p x).scrubSeq = s.scrubSeq := rfl
@[simp] theorem State.setPlot_scrubLast (p : Nat) (x : Plot) : (s.setPlot p x).scrubLast = s.scrubLast := rfl
@[simp] theorem State.setPlot_tokenBars (p : Nat) (x : Plot) : (s.setPlot p x).tokenBars = s.tokenBars := rfl
@[simp] theorem State.setPlot_ways (p : Nat) (x : Plot) : (s.setPlot p x).ways = s.ways := rfl
@[simp] theorem State.setPlot_waySpares (p : Nat) (x : Plot) : (s.setPlot p x).waySpares = s.waySpares := rfl
@[simp] theorem State.setPlot_waysLost (p : Nat) (x : Plot) : (s.setPlot p x).waysLost = s.waysLost := rfl
@[simp] theorem State.setPlot_spares (p : Nat) (x : Plot) : (s.setPlot p x).spares = s.spares := rfl
@[simp] theorem State.setPlot_colSpares (p : Nat) (x : Plot) : (s.setPlot p x).colSpares = s.colSpares := rfl
@[simp] theorem State.setPlot_rowRepairs (p : Nat) (x : Plot) : (s.setPlot p x).rowRepairs = s.rowRepairs := rfl
@[simp] theorem State.setPlot_repairs (p : Nat) (x : Plot) : (s.setPlot p x).repairs = s.repairs := rfl
@[simp] theorem State.setPlot_wear (p : Nat) (x : Plot) : (s.setPlot p x).wear = s.wear := rfl
@[simp] theorem State.setPlot_lanes (p : Nat) (x : Plot) : (s.setPlot p x).lanes = s.lanes := rfl
@[simp] theorem State.setPlot_admin (p : Nat) (x : Plot) : (s.setPlot p x).admin = s.admin := rfl
@[simp] theorem State.setPlot_vfbox (p : Nat) (x : Plot) : (s.setPlot p x).vfbox = s.vfbox := rfl
@[simp] theorem State.setPlot_pftoken (p : Nat) (x : Plot) : (s.setPlot p x).pftoken = s.pftoken := rfl
@[simp] theorem State.setPlot_perms (p : Nat) (x : Plot) : (s.setPlot p x).perms = s.perms := rfl
@[simp] theorem State.setPlot_tierEnc (p : Nat) (x : Plot) : (s.setPlot p x).tierEnc = s.tierEnc := rfl
@[simp] theorem State.setPlot_shared (p : Nat) (x : Plot) : (s.setPlot p x).shared = s.shared := rfl
@[simp] theorem State.setPlot_hostHeld (p : Nat) (x : Plot) : (s.setPlot p x).hostHeld = s.hostHeld := rfl
@[simp] theorem State.setPlot_pwrcap (p : Nat) (x : Plot) : (s.setPlot p x).pwrcap = s.pwrcap := rfl
@[simp] theorem State.setPlot_locid (p : Nat) (x : Plot) : (s.setPlot p x).locid = s.locid := rfl
@[simp] theorem State.setPlot_staged (p : Nat) (x : Plot) : (s.setPlot p x).staged = s.staged := rfl
@[simp] theorem State.setPlot_running (p : Nat) (x : Plot) : (s.setPlot p x).running = s.running := rfl
@[simp] theorem State.setPlot_vec0 (p : Nat) (x : Plot) : (s.setPlot p x).vec0 = s.vec0 := rfl
@[simp] theorem State.setPlot_mctp (p : Nat) (x : Plot) : (s.setPlot p x).mctp = s.mctp := rfl
@[simp] theorem State.setPlot_flits (p : Nat) (x : Plot) : (s.setPlot p x).flits = s.flits := rfl

/-! `setPlane` -/

@[simp] theorem State.setPlane_cur (p k : Nat) (x : Plane) : (s.setPlane p k x).cur = s.cur := rfl
@[simp] theorem State.setPlane_agenda (p k : Nat) (x : Plane) : (s.setPlane p k x).agenda = s.agenda := rfl
@[simp] theorem State.setPlane_cycle (p k : Nat) (x : Plane) : (s.setPlane p k x).cycle = s.cycle := rfl
@[simp] theorem State.setPlane_free (p k : Nat) (x : Plane) : (s.setPlane p k x).free = s.free := rfl
@[simp] theorem State.setPlane_mem (p k : Nat) (x : Plane) : (s.setPlane p k x).mem = s.mem := rfl
@[simp] theorem State.setPlane_badMem (p k : Nat) (x : Plane) : (s.setPlane p k x).badMem = s.badMem := rfl
@[simp] theorem State.setPlane_sram (p k : Nat) (x : Plane) : (s.setPlane p k x).sram = s.sram := rfl
@[simp] theorem State.setPlane_sramBad (p k : Nat) (x : Plane) : (s.setPlane p k x).sramBad = s.sramBad := rfl
@[simp] theorem State.setPlane_imem (p k : Nat) (x : Plane) : (s.setPlane p k x).imem = s.imem := rfl
@[simp] theorem State.setPlane_threads (p k : Nat) (x : Plane) : (s.setPlane p k x).threads = s.threads := rfl
@[simp] theorem State.setPlane_lodges (p k : Nat) (x : Plane) : (s.setPlane p k x).lodges = s.lodges := rfl
@[simp] theorem State.setPlane_plots (p k : Nat) (x : Plane) : (s.setPlane p k x).plots = s.plots := rfl
@[simp] theorem State.setPlane_cells (p k : Nat) (x : Plane) : (s.setPlane p k x).cells = s.cells := rfl
@[simp] theorem State.setPlane_ports (p k : Nat) (x : Plane) : (s.setPlane p k x).ports = s.ports := rfl
@[simp] theorem State.setPlane_lats (p k : Nat) (x : Plane) : (s.setPlane p k x).lats = s.lats := rfl
@[simp] theorem State.setPlane_latOwner (p k : Nat) (x : Plane) : (s.setPlane p k x).latOwner = s.latOwner := rfl
@[simp] theorem State.setPlane_accs (p k : Nat) (x : Plane) : (s.setPlane p k x).accs = s.accs := rfl
@[simp] theorem State.setPlane_tiles (p k : Nat) (x : Plane) : (s.setPlane p k x).tiles = s.tiles := rfl
@[simp] theorem State.setPlane_rings (p k : Nat) (x : Plane) : (s.setPlane p k x).rings = s.rings := rfl
@[simp] theorem State.setPlane_gates (p k : Nat) (x : Plane) : (s.setPlane p k x).gates = s.gates := rfl
@[simp] theorem State.setPlane_chans (p k : Nat) (x : Plane) : (s.setPlane p k x).chans = s.chans := rfl
@[simp] theorem State.setPlane_mboxes (p k : Nat) (x : Plane) : (s.setPlane p k x).mboxes = s.mboxes := rfl
@[simp] theorem State.setPlane_sets (p k : Nat) (x : Plane) : (s.setPlane p k x).sets = s.sets := rfl
@[simp] theorem State.setPlane_tenants (p k : Nat) (x : Plane) : (s.setPlane p k x).tenants = s.tenants := rfl
@[simp] theorem State.setPlane_pend (p k : Nat) (x : Plane) : (s.setPlane p k x).pend = s.pend := rfl
@[simp] theorem State.setPlane_seen (p k : Nat) (x : Plane) : (s.setPlane p k x).seen = s.seen := rfl
@[simp] theorem State.setPlane_knows (p k : Nat) (x : Plane) : (s.setPlane p k x).knows = s.knows := rfl
@[simp] theorem State.setPlane_remotes (p k : Nat) (x : Plane) : (s.setPlane p k x).remotes = s.remotes := rfl
@[simp] theorem State.setPlane_nextId (p k : Nat) (x : Plane) : (s.setPlane p k x).nextId = s.nextId := rfl
@[simp] theorem State.setPlane_xlats (p k : Nat) (x : Plane) : (s.setPlane p k x).xlats = s.xlats := rfl
@[simp] theorem State.setPlane_tabs (p k : Nat) (x : Plane) : (s.setPlane p k x).tabs = s.tabs := rfl
@[simp] theorem State.setPlane_invals (p k : Nat) (x : Plane) : (s.setPlane p k x).invals = s.invals := rfl
@[simp] theorem State.setPlane_prqs (p k : Nat) (x : Plane) : (s.setPlane p k x).prqs = s.prqs := rfl
@[simp] theorem State.setPlane_prqWait (p k : Nat) (x : Plane) : (s.setPlane p k x).prqWait = s.prqWait := rfl
@[simp] theorem State.setPlane_fatals (p k : Nat) (x : Plane) : (s.setPlane p k x).fatals = s.fatals := rfl
@[simp] theorem State.setPlane_regions (p k : Nat) (x : Plane) : (s.setPlane p k x).regions = s.regions := rfl
@[simp] theorem State.setPlane_slots (p k : Nat) (x : Plane) : (s.setPlane p k x).slots = s.slots := rfl
@[simp] theorem State.setPlane_queues (p k : Nat) (x : Plane) : (s.setPlane p k x).queues = s.queues := rfl
@[simp] theorem State.setPlane_crings (p k : Nat) (x : Plane) : (s.setPlane p k x).crings = s.crings := rfl
@[simp] theorem State.setPlane_held (p k : Nat) (x : Plane) : (s.setPlane p k x).held = s.held := rfl
@[simp] theorem State.setPlane_kicks (p k : Nat) (x : Plane) : (s.setPlane p k x).kicks = s.kicks := rfl
@[simp] theorem State.setPlane_wdogs (p k : Nat) (x : Plane) : (s.setPlane p k x).wdogs = s.wdogs := rfl
@[simp] theorem State.setPlane_jnext (p k : Nat) (x : Plane) : (s.setPlane p k x).jnext = s.jnext := rfl
@[simp] theorem State.setPlane_takevec (p k : Nat) (x : Plane) : (s.setPlane p k x).takevec = s.takevec := rfl
@[simp] theorem State.setPlane_lfault (p k : Nat) (x : Plane) : (s.setPlane p k x).lfault = s.lfault := rfl
@[simp] theorem State.setPlane_fatal (p k : Nat) (x : Plane) : (s.setPlane p k x).fatal = s.fatal := rfl
@[simp] theorem State.setPlane_frames (p k : Nat) (x : Plane) : (s.setPlane p k x).frames = s.frames := rfl
@[simp] theorem State.setPlane_frame (p k : Nat) (x : Plane) : (s.setPlane p k x).frame = s.frame := rfl
@[simp] theorem State.setPlane_cuts (p k : Nat) (x : Plane) : (s.setPlane p k x).cuts = s.cuts := rfl
@[simp] theorem State.setPlane_scrubs (p k : Nat) (x : Plane) : (s.setPlane p k x).scrubs = s.scrubs := rfl
@[simp] theorem State.setPlane_scrubSeq (p k : Nat) (x : Plane) : (s.setPlane p k x).scrubSeq = s.scrubSeq := rfl
@[simp] theorem State.setPlane_scrubLast (p k : Nat) (x : Plane) : (s.setPlane p k x).scrubLast = s.scrubLast := rfl
@[simp] theorem State.setPlane_tokenBars (p k : Nat) (x : Plane) : (s.setPlane p k x).tokenBars = s.tokenBars := rfl
@[simp] theorem State.setPlane_ways (p k : Nat) (x : Plane) : (s.setPlane p k x).ways = s.ways := rfl
@[simp] theorem State.setPlane_waySpares (p k : Nat) (x : Plane) : (s.setPlane p k x).waySpares = s.waySpares := rfl
@[simp] theorem State.setPlane_waysLost (p k : Nat) (x : Plane) : (s.setPlane p k x).waysLost = s.waysLost := rfl
@[simp] theorem State.setPlane_spares (p k : Nat) (x : Plane) : (s.setPlane p k x).spares = s.spares := rfl
@[simp] theorem State.setPlane_colSpares (p k : Nat) (x : Plane) : (s.setPlane p k x).colSpares = s.colSpares := rfl
@[simp] theorem State.setPlane_rowRepairs (p k : Nat) (x : Plane) : (s.setPlane p k x).rowRepairs = s.rowRepairs := rfl
@[simp] theorem State.setPlane_repairs (p k : Nat) (x : Plane) : (s.setPlane p k x).repairs = s.repairs := rfl
@[simp] theorem State.setPlane_wear (p k : Nat) (x : Plane) : (s.setPlane p k x).wear = s.wear := rfl
@[simp] theorem State.setPlane_lanes (p k : Nat) (x : Plane) : (s.setPlane p k x).lanes = s.lanes := rfl
@[simp] theorem State.setPlane_admin (p k : Nat) (x : Plane) : (s.setPlane p k x).admin = s.admin := rfl
@[simp] theorem State.setPlane_vfbox (p k : Nat) (x : Plane) : (s.setPlane p k x).vfbox = s.vfbox := rfl
@[simp] theorem State.setPlane_pftoken (p k : Nat) (x : Plane) : (s.setPlane p k x).pftoken = s.pftoken := rfl
@[simp] theorem State.setPlane_perms (p k : Nat) (x : Plane) : (s.setPlane p k x).perms = s.perms := rfl
@[simp] theorem State.setPlane_tierEnc (p k : Nat) (x : Plane) : (s.setPlane p k x).tierEnc = s.tierEnc := rfl
@[simp] theorem State.setPlane_shared (p k : Nat) (x : Plane) : (s.setPlane p k x).shared = s.shared := rfl
@[simp] theorem State.setPlane_hostHeld (p k : Nat) (x : Plane) : (s.setPlane p k x).hostHeld = s.hostHeld := rfl
@[simp] theorem State.setPlane_pwrcap (p k : Nat) (x : Plane) : (s.setPlane p k x).pwrcap = s.pwrcap := rfl
@[simp] theorem State.setPlane_locid (p k : Nat) (x : Plane) : (s.setPlane p k x).locid = s.locid := rfl
@[simp] theorem State.setPlane_staged (p k : Nat) (x : Plane) : (s.setPlane p k x).staged = s.staged := rfl
@[simp] theorem State.setPlane_running (p k : Nat) (x : Plane) : (s.setPlane p k x).running = s.running := rfl
@[simp] theorem State.setPlane_vec0 (p k : Nat) (x : Plane) : (s.setPlane p k x).vec0 = s.vec0 := rfl
@[simp] theorem State.setPlane_mctp (p k : Nat) (x : Plane) : (s.setPlane p k x).mctp = s.mctp := rfl
@[simp] theorem State.setPlane_flits (p k : Nat) (x : Plane) : (s.setPlane p k x).flits = s.flits := rfl

/-! `setCell` -/

@[simp] theorem State.setCell_cur (p k c : Nat) (x : Cell) : (s.setCell p k c x).cur = s.cur := rfl
@[simp] theorem State.setCell_agenda (p k c : Nat) (x : Cell) : (s.setCell p k c x).agenda = s.agenda := rfl
@[simp] theorem State.setCell_cycle (p k c : Nat) (x : Cell) : (s.setCell p k c x).cycle = s.cycle := rfl
@[simp] theorem State.setCell_free (p k c : Nat) (x : Cell) : (s.setCell p k c x).free = s.free := rfl
@[simp] theorem State.setCell_mem (p k c : Nat) (x : Cell) : (s.setCell p k c x).mem = s.mem := rfl
@[simp] theorem State.setCell_badMem (p k c : Nat) (x : Cell) : (s.setCell p k c x).badMem = s.badMem := rfl
@[simp] theorem State.setCell_sram (p k c : Nat) (x : Cell) : (s.setCell p k c x).sram = s.sram := rfl
@[simp] theorem State.setCell_sramBad (p k c : Nat) (x : Cell) : (s.setCell p k c x).sramBad = s.sramBad := rfl
@[simp] theorem State.setCell_imem (p k c : Nat) (x : Cell) : (s.setCell p k c x).imem = s.imem := rfl
@[simp] theorem State.setCell_threads (p k c : Nat) (x : Cell) : (s.setCell p k c x).threads = s.threads := rfl
@[simp] theorem State.setCell_lodges (p k c : Nat) (x : Cell) : (s.setCell p k c x).lodges = s.lodges := rfl
@[simp] theorem State.setCell_plots (p k c : Nat) (x : Cell) : (s.setCell p k c x).plots = s.plots := rfl
@[simp] theorem State.setCell_planes (p k c : Nat) (x : Cell) : (s.setCell p k c x).planes = s.planes := rfl
@[simp] theorem State.setCell_ports (p k c : Nat) (x : Cell) : (s.setCell p k c x).ports = s.ports := rfl
@[simp] theorem State.setCell_lats (p k c : Nat) (x : Cell) : (s.setCell p k c x).lats = s.lats := rfl
@[simp] theorem State.setCell_latOwner (p k c : Nat) (x : Cell) : (s.setCell p k c x).latOwner = s.latOwner := rfl
@[simp] theorem State.setCell_accs (p k c : Nat) (x : Cell) : (s.setCell p k c x).accs = s.accs := rfl
@[simp] theorem State.setCell_tiles (p k c : Nat) (x : Cell) : (s.setCell p k c x).tiles = s.tiles := rfl
@[simp] theorem State.setCell_rings (p k c : Nat) (x : Cell) : (s.setCell p k c x).rings = s.rings := rfl
@[simp] theorem State.setCell_gates (p k c : Nat) (x : Cell) : (s.setCell p k c x).gates = s.gates := rfl
@[simp] theorem State.setCell_chans (p k c : Nat) (x : Cell) : (s.setCell p k c x).chans = s.chans := rfl
@[simp] theorem State.setCell_mboxes (p k c : Nat) (x : Cell) : (s.setCell p k c x).mboxes = s.mboxes := rfl
@[simp] theorem State.setCell_sets (p k c : Nat) (x : Cell) : (s.setCell p k c x).sets = s.sets := rfl
@[simp] theorem State.setCell_tenants (p k c : Nat) (x : Cell) : (s.setCell p k c x).tenants = s.tenants := rfl
@[simp] theorem State.setCell_pend (p k c : Nat) (x : Cell) : (s.setCell p k c x).pend = s.pend := rfl
@[simp] theorem State.setCell_seen (p k c : Nat) (x : Cell) : (s.setCell p k c x).seen = s.seen := rfl
@[simp] theorem State.setCell_knows (p k c : Nat) (x : Cell) : (s.setCell p k c x).knows = s.knows := rfl
@[simp] theorem State.setCell_remotes (p k c : Nat) (x : Cell) : (s.setCell p k c x).remotes = s.remotes := rfl
@[simp] theorem State.setCell_nextId (p k c : Nat) (x : Cell) : (s.setCell p k c x).nextId = s.nextId := rfl
@[simp] theorem State.setCell_xlats (p k c : Nat) (x : Cell) : (s.setCell p k c x).xlats = s.xlats := rfl
@[simp] theorem State.setCell_tabs (p k c : Nat) (x : Cell) : (s.setCell p k c x).tabs = s.tabs := rfl
@[simp] theorem State.setCell_invals (p k c : Nat) (x : Cell) : (s.setCell p k c x).invals = s.invals := rfl
@[simp] theorem State.setCell_prqs (p k c : Nat) (x : Cell) : (s.setCell p k c x).prqs = s.prqs := rfl
@[simp] theorem State.setCell_prqWait (p k c : Nat) (x : Cell) : (s.setCell p k c x).prqWait = s.prqWait := rfl
@[simp] theorem State.setCell_fatals (p k c : Nat) (x : Cell) : (s.setCell p k c x).fatals = s.fatals := rfl
@[simp] theorem State.setCell_regions (p k c : Nat) (x : Cell) : (s.setCell p k c x).regions = s.regions := rfl
@[simp] theorem State.setCell_slots (p k c : Nat) (x : Cell) : (s.setCell p k c x).slots = s.slots := rfl
@[simp] theorem State.setCell_queues (p k c : Nat) (x : Cell) : (s.setCell p k c x).queues = s.queues := rfl
@[simp] theorem State.setCell_crings (p k c : Nat) (x : Cell) : (s.setCell p k c x).crings = s.crings := rfl
@[simp] theorem State.setCell_held (p k c : Nat) (x : Cell) : (s.setCell p k c x).held = s.held := rfl
@[simp] theorem State.setCell_kicks (p k c : Nat) (x : Cell) : (s.setCell p k c x).kicks = s.kicks := rfl
@[simp] theorem State.setCell_wdogs (p k c : Nat) (x : Cell) : (s.setCell p k c x).wdogs = s.wdogs := rfl
@[simp] theorem State.setCell_jnext (p k c : Nat) (x : Cell) : (s.setCell p k c x).jnext = s.jnext := rfl
@[simp] theorem State.setCell_takevec (p k c : Nat) (x : Cell) : (s.setCell p k c x).takevec = s.takevec := rfl
@[simp] theorem State.setCell_lfault (p k c : Nat) (x : Cell) : (s.setCell p k c x).lfault = s.lfault := rfl
@[simp] theorem State.setCell_fatal (p k c : Nat) (x : Cell) : (s.setCell p k c x).fatal = s.fatal := rfl
@[simp] theorem State.setCell_frames (p k c : Nat) (x : Cell) : (s.setCell p k c x).frames = s.frames := rfl
@[simp] theorem State.setCell_frame (p k c : Nat) (x : Cell) : (s.setCell p k c x).frame = s.frame := rfl
@[simp] theorem State.setCell_cuts (p k c : Nat) (x : Cell) : (s.setCell p k c x).cuts = s.cuts := rfl
@[simp] theorem State.setCell_scrubs (p k c : Nat) (x : Cell) : (s.setCell p k c x).scrubs = s.scrubs := rfl
@[simp] theorem State.setCell_scrubSeq (p k c : Nat) (x : Cell) : (s.setCell p k c x).scrubSeq = s.scrubSeq := rfl
@[simp] theorem State.setCell_scrubLast (p k c : Nat) (x : Cell) : (s.setCell p k c x).scrubLast = s.scrubLast := rfl
@[simp] theorem State.setCell_tokenBars (p k c : Nat) (x : Cell) : (s.setCell p k c x).tokenBars = s.tokenBars := rfl
@[simp] theorem State.setCell_ways (p k c : Nat) (x : Cell) : (s.setCell p k c x).ways = s.ways := rfl
@[simp] theorem State.setCell_waySpares (p k c : Nat) (x : Cell) : (s.setCell p k c x).waySpares = s.waySpares := rfl
@[simp] theorem State.setCell_waysLost (p k c : Nat) (x : Cell) : (s.setCell p k c x).waysLost = s.waysLost := rfl
@[simp] theorem State.setCell_spares (p k c : Nat) (x : Cell) : (s.setCell p k c x).spares = s.spares := rfl
@[simp] theorem State.setCell_colSpares (p k c : Nat) (x : Cell) : (s.setCell p k c x).colSpares = s.colSpares := rfl
@[simp] theorem State.setCell_rowRepairs (p k c : Nat) (x : Cell) : (s.setCell p k c x).rowRepairs = s.rowRepairs := rfl
@[simp] theorem State.setCell_repairs (p k c : Nat) (x : Cell) : (s.setCell p k c x).repairs = s.repairs := rfl
@[simp] theorem State.setCell_wear (p k c : Nat) (x : Cell) : (s.setCell p k c x).wear = s.wear := rfl
@[simp] theorem State.setCell_lanes (p k c : Nat) (x : Cell) : (s.setCell p k c x).lanes = s.lanes := rfl
@[simp] theorem State.setCell_admin (p k c : Nat) (x : Cell) : (s.setCell p k c x).admin = s.admin := rfl
@[simp] theorem State.setCell_vfbox (p k c : Nat) (x : Cell) : (s.setCell p k c x).vfbox = s.vfbox := rfl
@[simp] theorem State.setCell_pftoken (p k c : Nat) (x : Cell) : (s.setCell p k c x).pftoken = s.pftoken := rfl
@[simp] theorem State.setCell_perms (p k c : Nat) (x : Cell) : (s.setCell p k c x).perms = s.perms := rfl
@[simp] theorem State.setCell_tierEnc (p k c : Nat) (x : Cell) : (s.setCell p k c x).tierEnc = s.tierEnc := rfl
@[simp] theorem State.setCell_shared (p k c : Nat) (x : Cell) : (s.setCell p k c x).shared = s.shared := rfl
@[simp] theorem State.setCell_hostHeld (p k c : Nat) (x : Cell) : (s.setCell p k c x).hostHeld = s.hostHeld := rfl
@[simp] theorem State.setCell_pwrcap (p k c : Nat) (x : Cell) : (s.setCell p k c x).pwrcap = s.pwrcap := rfl
@[simp] theorem State.setCell_locid (p k c : Nat) (x : Cell) : (s.setCell p k c x).locid = s.locid := rfl
@[simp] theorem State.setCell_staged (p k c : Nat) (x : Cell) : (s.setCell p k c x).staged = s.staged := rfl
@[simp] theorem State.setCell_running (p k c : Nat) (x : Cell) : (s.setCell p k c x).running = s.running := rfl
@[simp] theorem State.setCell_vec0 (p k c : Nat) (x : Cell) : (s.setCell p k c x).vec0 = s.vec0 := rfl
@[simp] theorem State.setCell_mctp (p k c : Nat) (x : Cell) : (s.setCell p k c x).mctp = s.mctp := rfl
@[simp] theorem State.setCell_flits (p k c : Nat) (x : Cell) : (s.setCell p k c x).flits = s.flits := rfl

/-! `setPort` -/

@[simp] theorem State.setPort_cur (p n : Nat) (x : Port) : (s.setPort p n x).cur = s.cur := rfl
@[simp] theorem State.setPort_agenda (p n : Nat) (x : Port) : (s.setPort p n x).agenda = s.agenda := rfl
@[simp] theorem State.setPort_cycle (p n : Nat) (x : Port) : (s.setPort p n x).cycle = s.cycle := rfl
@[simp] theorem State.setPort_free (p n : Nat) (x : Port) : (s.setPort p n x).free = s.free := rfl
@[simp] theorem State.setPort_mem (p n : Nat) (x : Port) : (s.setPort p n x).mem = s.mem := rfl
@[simp] theorem State.setPort_badMem (p n : Nat) (x : Port) : (s.setPort p n x).badMem = s.badMem := rfl
@[simp] theorem State.setPort_sram (p n : Nat) (x : Port) : (s.setPort p n x).sram = s.sram := rfl
@[simp] theorem State.setPort_sramBad (p n : Nat) (x : Port) : (s.setPort p n x).sramBad = s.sramBad := rfl
@[simp] theorem State.setPort_imem (p n : Nat) (x : Port) : (s.setPort p n x).imem = s.imem := rfl
@[simp] theorem State.setPort_threads (p n : Nat) (x : Port) : (s.setPort p n x).threads = s.threads := rfl
@[simp] theorem State.setPort_lodges (p n : Nat) (x : Port) : (s.setPort p n x).lodges = s.lodges := rfl
@[simp] theorem State.setPort_plots (p n : Nat) (x : Port) : (s.setPort p n x).plots = s.plots := rfl
@[simp] theorem State.setPort_planes (p n : Nat) (x : Port) : (s.setPort p n x).planes = s.planes := rfl
@[simp] theorem State.setPort_cells (p n : Nat) (x : Port) : (s.setPort p n x).cells = s.cells := rfl
@[simp] theorem State.setPort_lats (p n : Nat) (x : Port) : (s.setPort p n x).lats = s.lats := rfl
@[simp] theorem State.setPort_latOwner (p n : Nat) (x : Port) : (s.setPort p n x).latOwner = s.latOwner := rfl
@[simp] theorem State.setPort_accs (p n : Nat) (x : Port) : (s.setPort p n x).accs = s.accs := rfl
@[simp] theorem State.setPort_tiles (p n : Nat) (x : Port) : (s.setPort p n x).tiles = s.tiles := rfl
@[simp] theorem State.setPort_rings (p n : Nat) (x : Port) : (s.setPort p n x).rings = s.rings := rfl
@[simp] theorem State.setPort_gates (p n : Nat) (x : Port) : (s.setPort p n x).gates = s.gates := rfl
@[simp] theorem State.setPort_chans (p n : Nat) (x : Port) : (s.setPort p n x).chans = s.chans := rfl
@[simp] theorem State.setPort_mboxes (p n : Nat) (x : Port) : (s.setPort p n x).mboxes = s.mboxes := rfl
@[simp] theorem State.setPort_sets (p n : Nat) (x : Port) : (s.setPort p n x).sets = s.sets := rfl
@[simp] theorem State.setPort_tenants (p n : Nat) (x : Port) : (s.setPort p n x).tenants = s.tenants := rfl
@[simp] theorem State.setPort_pend (p n : Nat) (x : Port) : (s.setPort p n x).pend = s.pend := rfl
@[simp] theorem State.setPort_seen (p n : Nat) (x : Port) : (s.setPort p n x).seen = s.seen := rfl
@[simp] theorem State.setPort_knows (p n : Nat) (x : Port) : (s.setPort p n x).knows = s.knows := rfl
@[simp] theorem State.setPort_remotes (p n : Nat) (x : Port) : (s.setPort p n x).remotes = s.remotes := rfl
@[simp] theorem State.setPort_nextId (p n : Nat) (x : Port) : (s.setPort p n x).nextId = s.nextId := rfl
@[simp] theorem State.setPort_xlats (p n : Nat) (x : Port) : (s.setPort p n x).xlats = s.xlats := rfl
@[simp] theorem State.setPort_tabs (p n : Nat) (x : Port) : (s.setPort p n x).tabs = s.tabs := rfl
@[simp] theorem State.setPort_invals (p n : Nat) (x : Port) : (s.setPort p n x).invals = s.invals := rfl
@[simp] theorem State.setPort_prqs (p n : Nat) (x : Port) : (s.setPort p n x).prqs = s.prqs := rfl
@[simp] theorem State.setPort_prqWait (p n : Nat) (x : Port) : (s.setPort p n x).prqWait = s.prqWait := rfl
@[simp] theorem State.setPort_fatals (p n : Nat) (x : Port) : (s.setPort p n x).fatals = s.fatals := rfl
@[simp] theorem State.setPort_regions (p n : Nat) (x : Port) : (s.setPort p n x).regions = s.regions := rfl
@[simp] theorem State.setPort_slots (p n : Nat) (x : Port) : (s.setPort p n x).slots = s.slots := rfl
@[simp] theorem State.setPort_queues (p n : Nat) (x : Port) : (s.setPort p n x).queues = s.queues := rfl
@[simp] theorem State.setPort_crings (p n : Nat) (x : Port) : (s.setPort p n x).crings = s.crings := rfl
@[simp] theorem State.setPort_held (p n : Nat) (x : Port) : (s.setPort p n x).held = s.held := rfl
@[simp] theorem State.setPort_kicks (p n : Nat) (x : Port) : (s.setPort p n x).kicks = s.kicks := rfl
@[simp] theorem State.setPort_wdogs (p n : Nat) (x : Port) : (s.setPort p n x).wdogs = s.wdogs := rfl
@[simp] theorem State.setPort_jnext (p n : Nat) (x : Port) : (s.setPort p n x).jnext = s.jnext := rfl
@[simp] theorem State.setPort_takevec (p n : Nat) (x : Port) : (s.setPort p n x).takevec = s.takevec := rfl
@[simp] theorem State.setPort_lfault (p n : Nat) (x : Port) : (s.setPort p n x).lfault = s.lfault := rfl
@[simp] theorem State.setPort_fatal (p n : Nat) (x : Port) : (s.setPort p n x).fatal = s.fatal := rfl
@[simp] theorem State.setPort_frames (p n : Nat) (x : Port) : (s.setPort p n x).frames = s.frames := rfl
@[simp] theorem State.setPort_frame (p n : Nat) (x : Port) : (s.setPort p n x).frame = s.frame := rfl
@[simp] theorem State.setPort_cuts (p n : Nat) (x : Port) : (s.setPort p n x).cuts = s.cuts := rfl
@[simp] theorem State.setPort_scrubs (p n : Nat) (x : Port) : (s.setPort p n x).scrubs = s.scrubs := rfl
@[simp] theorem State.setPort_scrubSeq (p n : Nat) (x : Port) : (s.setPort p n x).scrubSeq = s.scrubSeq := rfl
@[simp] theorem State.setPort_scrubLast (p n : Nat) (x : Port) : (s.setPort p n x).scrubLast = s.scrubLast := rfl
@[simp] theorem State.setPort_tokenBars (p n : Nat) (x : Port) : (s.setPort p n x).tokenBars = s.tokenBars := rfl
@[simp] theorem State.setPort_ways (p n : Nat) (x : Port) : (s.setPort p n x).ways = s.ways := rfl
@[simp] theorem State.setPort_waySpares (p n : Nat) (x : Port) : (s.setPort p n x).waySpares = s.waySpares := rfl
@[simp] theorem State.setPort_waysLost (p n : Nat) (x : Port) : (s.setPort p n x).waysLost = s.waysLost := rfl
@[simp] theorem State.setPort_spares (p n : Nat) (x : Port) : (s.setPort p n x).spares = s.spares := rfl
@[simp] theorem State.setPort_colSpares (p n : Nat) (x : Port) : (s.setPort p n x).colSpares = s.colSpares := rfl
@[simp] theorem State.setPort_rowRepairs (p n : Nat) (x : Port) : (s.setPort p n x).rowRepairs = s.rowRepairs := rfl
@[simp] theorem State.setPort_repairs (p n : Nat) (x : Port) : (s.setPort p n x).repairs = s.repairs := rfl
@[simp] theorem State.setPort_wear (p n : Nat) (x : Port) : (s.setPort p n x).wear = s.wear := rfl
@[simp] theorem State.setPort_lanes (p n : Nat) (x : Port) : (s.setPort p n x).lanes = s.lanes := rfl
@[simp] theorem State.setPort_admin (p n : Nat) (x : Port) : (s.setPort p n x).admin = s.admin := rfl
@[simp] theorem State.setPort_vfbox (p n : Nat) (x : Port) : (s.setPort p n x).vfbox = s.vfbox := rfl
@[simp] theorem State.setPort_pftoken (p n : Nat) (x : Port) : (s.setPort p n x).pftoken = s.pftoken := rfl
@[simp] theorem State.setPort_perms (p n : Nat) (x : Port) : (s.setPort p n x).perms = s.perms := rfl
@[simp] theorem State.setPort_tierEnc (p n : Nat) (x : Port) : (s.setPort p n x).tierEnc = s.tierEnc := rfl
@[simp] theorem State.setPort_shared (p n : Nat) (x : Port) : (s.setPort p n x).shared = s.shared := rfl
@[simp] theorem State.setPort_hostHeld (p n : Nat) (x : Port) : (s.setPort p n x).hostHeld = s.hostHeld := rfl
@[simp] theorem State.setPort_pwrcap (p n : Nat) (x : Port) : (s.setPort p n x).pwrcap = s.pwrcap := rfl
@[simp] theorem State.setPort_locid (p n : Nat) (x : Port) : (s.setPort p n x).locid = s.locid := rfl
@[simp] theorem State.setPort_staged (p n : Nat) (x : Port) : (s.setPort p n x).staged = s.staged := rfl
@[simp] theorem State.setPort_running (p n : Nat) (x : Port) : (s.setPort p n x).running = s.running := rfl
@[simp] theorem State.setPort_vec0 (p n : Nat) (x : Port) : (s.setPort p n x).vec0 = s.vec0 := rfl
@[simp] theorem State.setPort_mctp (p n : Nat) (x : Port) : (s.setPort p n x).mctp = s.mctp := rfl
@[simp] theorem State.setPort_flits (p n : Nat) (x : Port) : (s.setPort p n x).flits = s.flits := rfl

/-! `setLat` -/

@[simp] theorem State.setLat_cur (p k : Nat) (x : Lat) : (s.setLat p k x).cur = s.cur := rfl
@[simp] theorem State.setLat_agenda (p k : Nat) (x : Lat) : (s.setLat p k x).agenda = s.agenda := rfl
@[simp] theorem State.setLat_cycle (p k : Nat) (x : Lat) : (s.setLat p k x).cycle = s.cycle := rfl
@[simp] theorem State.setLat_free (p k : Nat) (x : Lat) : (s.setLat p k x).free = s.free := rfl
@[simp] theorem State.setLat_mem (p k : Nat) (x : Lat) : (s.setLat p k x).mem = s.mem := rfl
@[simp] theorem State.setLat_badMem (p k : Nat) (x : Lat) : (s.setLat p k x).badMem = s.badMem := rfl
@[simp] theorem State.setLat_sram (p k : Nat) (x : Lat) : (s.setLat p k x).sram = s.sram := rfl
@[simp] theorem State.setLat_sramBad (p k : Nat) (x : Lat) : (s.setLat p k x).sramBad = s.sramBad := rfl
@[simp] theorem State.setLat_imem (p k : Nat) (x : Lat) : (s.setLat p k x).imem = s.imem := rfl
@[simp] theorem State.setLat_threads (p k : Nat) (x : Lat) : (s.setLat p k x).threads = s.threads := rfl
@[simp] theorem State.setLat_lodges (p k : Nat) (x : Lat) : (s.setLat p k x).lodges = s.lodges := rfl
@[simp] theorem State.setLat_plots (p k : Nat) (x : Lat) : (s.setLat p k x).plots = s.plots := rfl
@[simp] theorem State.setLat_planes (p k : Nat) (x : Lat) : (s.setLat p k x).planes = s.planes := rfl
@[simp] theorem State.setLat_cells (p k : Nat) (x : Lat) : (s.setLat p k x).cells = s.cells := rfl
@[simp] theorem State.setLat_ports (p k : Nat) (x : Lat) : (s.setLat p k x).ports = s.ports := rfl
@[simp] theorem State.setLat_latOwner (p k : Nat) (x : Lat) : (s.setLat p k x).latOwner = s.latOwner := rfl
@[simp] theorem State.setLat_accs (p k : Nat) (x : Lat) : (s.setLat p k x).accs = s.accs := rfl
@[simp] theorem State.setLat_tiles (p k : Nat) (x : Lat) : (s.setLat p k x).tiles = s.tiles := rfl
@[simp] theorem State.setLat_rings (p k : Nat) (x : Lat) : (s.setLat p k x).rings = s.rings := rfl
@[simp] theorem State.setLat_gates (p k : Nat) (x : Lat) : (s.setLat p k x).gates = s.gates := rfl
@[simp] theorem State.setLat_chans (p k : Nat) (x : Lat) : (s.setLat p k x).chans = s.chans := rfl
@[simp] theorem State.setLat_mboxes (p k : Nat) (x : Lat) : (s.setLat p k x).mboxes = s.mboxes := rfl
@[simp] theorem State.setLat_sets (p k : Nat) (x : Lat) : (s.setLat p k x).sets = s.sets := rfl
@[simp] theorem State.setLat_tenants (p k : Nat) (x : Lat) : (s.setLat p k x).tenants = s.tenants := rfl
@[simp] theorem State.setLat_pend (p k : Nat) (x : Lat) : (s.setLat p k x).pend = s.pend := rfl
@[simp] theorem State.setLat_seen (p k : Nat) (x : Lat) : (s.setLat p k x).seen = s.seen := rfl
@[simp] theorem State.setLat_knows (p k : Nat) (x : Lat) : (s.setLat p k x).knows = s.knows := rfl
@[simp] theorem State.setLat_remotes (p k : Nat) (x : Lat) : (s.setLat p k x).remotes = s.remotes := rfl
@[simp] theorem State.setLat_nextId (p k : Nat) (x : Lat) : (s.setLat p k x).nextId = s.nextId := rfl
@[simp] theorem State.setLat_xlats (p k : Nat) (x : Lat) : (s.setLat p k x).xlats = s.xlats := rfl
@[simp] theorem State.setLat_tabs (p k : Nat) (x : Lat) : (s.setLat p k x).tabs = s.tabs := rfl
@[simp] theorem State.setLat_invals (p k : Nat) (x : Lat) : (s.setLat p k x).invals = s.invals := rfl
@[simp] theorem State.setLat_prqs (p k : Nat) (x : Lat) : (s.setLat p k x).prqs = s.prqs := rfl
@[simp] theorem State.setLat_prqWait (p k : Nat) (x : Lat) : (s.setLat p k x).prqWait = s.prqWait := rfl
@[simp] theorem State.setLat_fatals (p k : Nat) (x : Lat) : (s.setLat p k x).fatals = s.fatals := rfl
@[simp] theorem State.setLat_regions (p k : Nat) (x : Lat) : (s.setLat p k x).regions = s.regions := rfl
@[simp] theorem State.setLat_slots (p k : Nat) (x : Lat) : (s.setLat p k x).slots = s.slots := rfl
@[simp] theorem State.setLat_queues (p k : Nat) (x : Lat) : (s.setLat p k x).queues = s.queues := rfl
@[simp] theorem State.setLat_crings (p k : Nat) (x : Lat) : (s.setLat p k x).crings = s.crings := rfl
@[simp] theorem State.setLat_held (p k : Nat) (x : Lat) : (s.setLat p k x).held = s.held := rfl
@[simp] theorem State.setLat_kicks (p k : Nat) (x : Lat) : (s.setLat p k x).kicks = s.kicks := rfl
@[simp] theorem State.setLat_wdogs (p k : Nat) (x : Lat) : (s.setLat p k x).wdogs = s.wdogs := rfl
@[simp] theorem State.setLat_jnext (p k : Nat) (x : Lat) : (s.setLat p k x).jnext = s.jnext := rfl
@[simp] theorem State.setLat_takevec (p k : Nat) (x : Lat) : (s.setLat p k x).takevec = s.takevec := rfl
@[simp] theorem State.setLat_lfault (p k : Nat) (x : Lat) : (s.setLat p k x).lfault = s.lfault := rfl
@[simp] theorem State.setLat_fatal (p k : Nat) (x : Lat) : (s.setLat p k x).fatal = s.fatal := rfl
@[simp] theorem State.setLat_frames (p k : Nat) (x : Lat) : (s.setLat p k x).frames = s.frames := rfl
@[simp] theorem State.setLat_frame (p k : Nat) (x : Lat) : (s.setLat p k x).frame = s.frame := rfl
@[simp] theorem State.setLat_cuts (p k : Nat) (x : Lat) : (s.setLat p k x).cuts = s.cuts := rfl
@[simp] theorem State.setLat_scrubs (p k : Nat) (x : Lat) : (s.setLat p k x).scrubs = s.scrubs := rfl
@[simp] theorem State.setLat_scrubSeq (p k : Nat) (x : Lat) : (s.setLat p k x).scrubSeq = s.scrubSeq := rfl
@[simp] theorem State.setLat_scrubLast (p k : Nat) (x : Lat) : (s.setLat p k x).scrubLast = s.scrubLast := rfl
@[simp] theorem State.setLat_tokenBars (p k : Nat) (x : Lat) : (s.setLat p k x).tokenBars = s.tokenBars := rfl
@[simp] theorem State.setLat_ways (p k : Nat) (x : Lat) : (s.setLat p k x).ways = s.ways := rfl
@[simp] theorem State.setLat_waySpares (p k : Nat) (x : Lat) : (s.setLat p k x).waySpares = s.waySpares := rfl
@[simp] theorem State.setLat_waysLost (p k : Nat) (x : Lat) : (s.setLat p k x).waysLost = s.waysLost := rfl
@[simp] theorem State.setLat_spares (p k : Nat) (x : Lat) : (s.setLat p k x).spares = s.spares := rfl
@[simp] theorem State.setLat_colSpares (p k : Nat) (x : Lat) : (s.setLat p k x).colSpares = s.colSpares := rfl
@[simp] theorem State.setLat_rowRepairs (p k : Nat) (x : Lat) : (s.setLat p k x).rowRepairs = s.rowRepairs := rfl
@[simp] theorem State.setLat_repairs (p k : Nat) (x : Lat) : (s.setLat p k x).repairs = s.repairs := rfl
@[simp] theorem State.setLat_wear (p k : Nat) (x : Lat) : (s.setLat p k x).wear = s.wear := rfl
@[simp] theorem State.setLat_lanes (p k : Nat) (x : Lat) : (s.setLat p k x).lanes = s.lanes := rfl
@[simp] theorem State.setLat_admin (p k : Nat) (x : Lat) : (s.setLat p k x).admin = s.admin := rfl
@[simp] theorem State.setLat_vfbox (p k : Nat) (x : Lat) : (s.setLat p k x).vfbox = s.vfbox := rfl
@[simp] theorem State.setLat_pftoken (p k : Nat) (x : Lat) : (s.setLat p k x).pftoken = s.pftoken := rfl
@[simp] theorem State.setLat_perms (p k : Nat) (x : Lat) : (s.setLat p k x).perms = s.perms := rfl
@[simp] theorem State.setLat_tierEnc (p k : Nat) (x : Lat) : (s.setLat p k x).tierEnc = s.tierEnc := rfl
@[simp] theorem State.setLat_shared (p k : Nat) (x : Lat) : (s.setLat p k x).shared = s.shared := rfl
@[simp] theorem State.setLat_hostHeld (p k : Nat) (x : Lat) : (s.setLat p k x).hostHeld = s.hostHeld := rfl
@[simp] theorem State.setLat_pwrcap (p k : Nat) (x : Lat) : (s.setLat p k x).pwrcap = s.pwrcap := rfl
@[simp] theorem State.setLat_locid (p k : Nat) (x : Lat) : (s.setLat p k x).locid = s.locid := rfl
@[simp] theorem State.setLat_staged (p k : Nat) (x : Lat) : (s.setLat p k x).staged = s.staged := rfl
@[simp] theorem State.setLat_running (p k : Nat) (x : Lat) : (s.setLat p k x).running = s.running := rfl
@[simp] theorem State.setLat_vec0 (p k : Nat) (x : Lat) : (s.setLat p k x).vec0 = s.vec0 := rfl
@[simp] theorem State.setLat_mctp (p k : Nat) (x : Lat) : (s.setLat p k x).mctp = s.mctp := rfl
@[simp] theorem State.setLat_flits (p k : Nat) (x : Lat) : (s.setLat p k x).flits = s.flits := rfl

/-! `setAcc` -/

@[simp] theorem State.setAcc_cur (p n : Nat) (x : Acc) : (s.setAcc p n x).cur = s.cur := rfl
@[simp] theorem State.setAcc_agenda (p n : Nat) (x : Acc) : (s.setAcc p n x).agenda = s.agenda := rfl
@[simp] theorem State.setAcc_cycle (p n : Nat) (x : Acc) : (s.setAcc p n x).cycle = s.cycle := rfl
@[simp] theorem State.setAcc_free (p n : Nat) (x : Acc) : (s.setAcc p n x).free = s.free := rfl
@[simp] theorem State.setAcc_mem (p n : Nat) (x : Acc) : (s.setAcc p n x).mem = s.mem := rfl
@[simp] theorem State.setAcc_badMem (p n : Nat) (x : Acc) : (s.setAcc p n x).badMem = s.badMem := rfl
@[simp] theorem State.setAcc_sram (p n : Nat) (x : Acc) : (s.setAcc p n x).sram = s.sram := rfl
@[simp] theorem State.setAcc_sramBad (p n : Nat) (x : Acc) : (s.setAcc p n x).sramBad = s.sramBad := rfl
@[simp] theorem State.setAcc_imem (p n : Nat) (x : Acc) : (s.setAcc p n x).imem = s.imem := rfl
@[simp] theorem State.setAcc_threads (p n : Nat) (x : Acc) : (s.setAcc p n x).threads = s.threads := rfl
@[simp] theorem State.setAcc_lodges (p n : Nat) (x : Acc) : (s.setAcc p n x).lodges = s.lodges := rfl
@[simp] theorem State.setAcc_plots (p n : Nat) (x : Acc) : (s.setAcc p n x).plots = s.plots := rfl
@[simp] theorem State.setAcc_planes (p n : Nat) (x : Acc) : (s.setAcc p n x).planes = s.planes := rfl
@[simp] theorem State.setAcc_cells (p n : Nat) (x : Acc) : (s.setAcc p n x).cells = s.cells := rfl
@[simp] theorem State.setAcc_ports (p n : Nat) (x : Acc) : (s.setAcc p n x).ports = s.ports := rfl
@[simp] theorem State.setAcc_lats (p n : Nat) (x : Acc) : (s.setAcc p n x).lats = s.lats := rfl
@[simp] theorem State.setAcc_latOwner (p n : Nat) (x : Acc) : (s.setAcc p n x).latOwner = s.latOwner := rfl
@[simp] theorem State.setAcc_tiles (p n : Nat) (x : Acc) : (s.setAcc p n x).tiles = s.tiles := rfl
@[simp] theorem State.setAcc_rings (p n : Nat) (x : Acc) : (s.setAcc p n x).rings = s.rings := rfl
@[simp] theorem State.setAcc_gates (p n : Nat) (x : Acc) : (s.setAcc p n x).gates = s.gates := rfl
@[simp] theorem State.setAcc_chans (p n : Nat) (x : Acc) : (s.setAcc p n x).chans = s.chans := rfl
@[simp] theorem State.setAcc_mboxes (p n : Nat) (x : Acc) : (s.setAcc p n x).mboxes = s.mboxes := rfl
@[simp] theorem State.setAcc_sets (p n : Nat) (x : Acc) : (s.setAcc p n x).sets = s.sets := rfl
@[simp] theorem State.setAcc_tenants (p n : Nat) (x : Acc) : (s.setAcc p n x).tenants = s.tenants := rfl
@[simp] theorem State.setAcc_pend (p n : Nat) (x : Acc) : (s.setAcc p n x).pend = s.pend := rfl
@[simp] theorem State.setAcc_seen (p n : Nat) (x : Acc) : (s.setAcc p n x).seen = s.seen := rfl
@[simp] theorem State.setAcc_knows (p n : Nat) (x : Acc) : (s.setAcc p n x).knows = s.knows := rfl
@[simp] theorem State.setAcc_remotes (p n : Nat) (x : Acc) : (s.setAcc p n x).remotes = s.remotes := rfl
@[simp] theorem State.setAcc_nextId (p n : Nat) (x : Acc) : (s.setAcc p n x).nextId = s.nextId := rfl
@[simp] theorem State.setAcc_xlats (p n : Nat) (x : Acc) : (s.setAcc p n x).xlats = s.xlats := rfl
@[simp] theorem State.setAcc_tabs (p n : Nat) (x : Acc) : (s.setAcc p n x).tabs = s.tabs := rfl
@[simp] theorem State.setAcc_invals (p n : Nat) (x : Acc) : (s.setAcc p n x).invals = s.invals := rfl
@[simp] theorem State.setAcc_prqs (p n : Nat) (x : Acc) : (s.setAcc p n x).prqs = s.prqs := rfl
@[simp] theorem State.setAcc_prqWait (p n : Nat) (x : Acc) : (s.setAcc p n x).prqWait = s.prqWait := rfl
@[simp] theorem State.setAcc_fatals (p n : Nat) (x : Acc) : (s.setAcc p n x).fatals = s.fatals := rfl
@[simp] theorem State.setAcc_regions (p n : Nat) (x : Acc) : (s.setAcc p n x).regions = s.regions := rfl
@[simp] theorem State.setAcc_slots (p n : Nat) (x : Acc) : (s.setAcc p n x).slots = s.slots := rfl
@[simp] theorem State.setAcc_queues (p n : Nat) (x : Acc) : (s.setAcc p n x).queues = s.queues := rfl
@[simp] theorem State.setAcc_crings (p n : Nat) (x : Acc) : (s.setAcc p n x).crings = s.crings := rfl
@[simp] theorem State.setAcc_held (p n : Nat) (x : Acc) : (s.setAcc p n x).held = s.held := rfl
@[simp] theorem State.setAcc_kicks (p n : Nat) (x : Acc) : (s.setAcc p n x).kicks = s.kicks := rfl
@[simp] theorem State.setAcc_wdogs (p n : Nat) (x : Acc) : (s.setAcc p n x).wdogs = s.wdogs := rfl
@[simp] theorem State.setAcc_jnext (p n : Nat) (x : Acc) : (s.setAcc p n x).jnext = s.jnext := rfl
@[simp] theorem State.setAcc_takevec (p n : Nat) (x : Acc) : (s.setAcc p n x).takevec = s.takevec := rfl
@[simp] theorem State.setAcc_lfault (p n : Nat) (x : Acc) : (s.setAcc p n x).lfault = s.lfault := rfl
@[simp] theorem State.setAcc_fatal (p n : Nat) (x : Acc) : (s.setAcc p n x).fatal = s.fatal := rfl
@[simp] theorem State.setAcc_frames (p n : Nat) (x : Acc) : (s.setAcc p n x).frames = s.frames := rfl
@[simp] theorem State.setAcc_frame (p n : Nat) (x : Acc) : (s.setAcc p n x).frame = s.frame := rfl
@[simp] theorem State.setAcc_cuts (p n : Nat) (x : Acc) : (s.setAcc p n x).cuts = s.cuts := rfl
@[simp] theorem State.setAcc_scrubs (p n : Nat) (x : Acc) : (s.setAcc p n x).scrubs = s.scrubs := rfl
@[simp] theorem State.setAcc_scrubSeq (p n : Nat) (x : Acc) : (s.setAcc p n x).scrubSeq = s.scrubSeq := rfl
@[simp] theorem State.setAcc_scrubLast (p n : Nat) (x : Acc) : (s.setAcc p n x).scrubLast = s.scrubLast := rfl
@[simp] theorem State.setAcc_tokenBars (p n : Nat) (x : Acc) : (s.setAcc p n x).tokenBars = s.tokenBars := rfl
@[simp] theorem State.setAcc_ways (p n : Nat) (x : Acc) : (s.setAcc p n x).ways = s.ways := rfl
@[simp] theorem State.setAcc_waySpares (p n : Nat) (x : Acc) : (s.setAcc p n x).waySpares = s.waySpares := rfl
@[simp] theorem State.setAcc_waysLost (p n : Nat) (x : Acc) : (s.setAcc p n x).waysLost = s.waysLost := rfl
@[simp] theorem State.setAcc_spares (p n : Nat) (x : Acc) : (s.setAcc p n x).spares = s.spares := rfl
@[simp] theorem State.setAcc_colSpares (p n : Nat) (x : Acc) : (s.setAcc p n x).colSpares = s.colSpares := rfl
@[simp] theorem State.setAcc_rowRepairs (p n : Nat) (x : Acc) : (s.setAcc p n x).rowRepairs = s.rowRepairs := rfl
@[simp] theorem State.setAcc_repairs (p n : Nat) (x : Acc) : (s.setAcc p n x).repairs = s.repairs := rfl
@[simp] theorem State.setAcc_wear (p n : Nat) (x : Acc) : (s.setAcc p n x).wear = s.wear := rfl
@[simp] theorem State.setAcc_lanes (p n : Nat) (x : Acc) : (s.setAcc p n x).lanes = s.lanes := rfl
@[simp] theorem State.setAcc_admin (p n : Nat) (x : Acc) : (s.setAcc p n x).admin = s.admin := rfl
@[simp] theorem State.setAcc_vfbox (p n : Nat) (x : Acc) : (s.setAcc p n x).vfbox = s.vfbox := rfl
@[simp] theorem State.setAcc_pftoken (p n : Nat) (x : Acc) : (s.setAcc p n x).pftoken = s.pftoken := rfl
@[simp] theorem State.setAcc_perms (p n : Nat) (x : Acc) : (s.setAcc p n x).perms = s.perms := rfl
@[simp] theorem State.setAcc_tierEnc (p n : Nat) (x : Acc) : (s.setAcc p n x).tierEnc = s.tierEnc := rfl
@[simp] theorem State.setAcc_shared (p n : Nat) (x : Acc) : (s.setAcc p n x).shared = s.shared := rfl
@[simp] theorem State.setAcc_hostHeld (p n : Nat) (x : Acc) : (s.setAcc p n x).hostHeld = s.hostHeld := rfl
@[simp] theorem State.setAcc_pwrcap (p n : Nat) (x : Acc) : (s.setAcc p n x).pwrcap = s.pwrcap := rfl
@[simp] theorem State.setAcc_locid (p n : Nat) (x : Acc) : (s.setAcc p n x).locid = s.locid := rfl
@[simp] theorem State.setAcc_staged (p n : Nat) (x : Acc) : (s.setAcc p n x).staged = s.staged := rfl
@[simp] theorem State.setAcc_running (p n : Nat) (x : Acc) : (s.setAcc p n x).running = s.running := rfl
@[simp] theorem State.setAcc_vec0 (p n : Nat) (x : Acc) : (s.setAcc p n x).vec0 = s.vec0 := rfl
@[simp] theorem State.setAcc_mctp (p n : Nat) (x : Acc) : (s.setAcc p n x).mctp = s.mctp := rfl
@[simp] theorem State.setAcc_flits (p n : Nat) (x : Acc) : (s.setAcc p n x).flits = s.flits := rfl

/-! `setTile` -/

@[simp] theorem State.setTile_cur (p h : Nat) (x : Tile) : (s.setTile p h x).cur = s.cur := rfl
@[simp] theorem State.setTile_agenda (p h : Nat) (x : Tile) : (s.setTile p h x).agenda = s.agenda := rfl
@[simp] theorem State.setTile_cycle (p h : Nat) (x : Tile) : (s.setTile p h x).cycle = s.cycle := rfl
@[simp] theorem State.setTile_free (p h : Nat) (x : Tile) : (s.setTile p h x).free = s.free := rfl
@[simp] theorem State.setTile_mem (p h : Nat) (x : Tile) : (s.setTile p h x).mem = s.mem := rfl
@[simp] theorem State.setTile_badMem (p h : Nat) (x : Tile) : (s.setTile p h x).badMem = s.badMem := rfl
@[simp] theorem State.setTile_sram (p h : Nat) (x : Tile) : (s.setTile p h x).sram = s.sram := rfl
@[simp] theorem State.setTile_sramBad (p h : Nat) (x : Tile) : (s.setTile p h x).sramBad = s.sramBad := rfl
@[simp] theorem State.setTile_imem (p h : Nat) (x : Tile) : (s.setTile p h x).imem = s.imem := rfl
@[simp] theorem State.setTile_threads (p h : Nat) (x : Tile) : (s.setTile p h x).threads = s.threads := rfl
@[simp] theorem State.setTile_lodges (p h : Nat) (x : Tile) : (s.setTile p h x).lodges = s.lodges := rfl
@[simp] theorem State.setTile_plots (p h : Nat) (x : Tile) : (s.setTile p h x).plots = s.plots := rfl
@[simp] theorem State.setTile_planes (p h : Nat) (x : Tile) : (s.setTile p h x).planes = s.planes := rfl
@[simp] theorem State.setTile_cells (p h : Nat) (x : Tile) : (s.setTile p h x).cells = s.cells := rfl
@[simp] theorem State.setTile_ports (p h : Nat) (x : Tile) : (s.setTile p h x).ports = s.ports := rfl
@[simp] theorem State.setTile_lats (p h : Nat) (x : Tile) : (s.setTile p h x).lats = s.lats := rfl
@[simp] theorem State.setTile_latOwner (p h : Nat) (x : Tile) : (s.setTile p h x).latOwner = s.latOwner := rfl
@[simp] theorem State.setTile_accs (p h : Nat) (x : Tile) : (s.setTile p h x).accs = s.accs := rfl
@[simp] theorem State.setTile_rings (p h : Nat) (x : Tile) : (s.setTile p h x).rings = s.rings := rfl
@[simp] theorem State.setTile_gates (p h : Nat) (x : Tile) : (s.setTile p h x).gates = s.gates := rfl
@[simp] theorem State.setTile_chans (p h : Nat) (x : Tile) : (s.setTile p h x).chans = s.chans := rfl
@[simp] theorem State.setTile_mboxes (p h : Nat) (x : Tile) : (s.setTile p h x).mboxes = s.mboxes := rfl
@[simp] theorem State.setTile_sets (p h : Nat) (x : Tile) : (s.setTile p h x).sets = s.sets := rfl
@[simp] theorem State.setTile_tenants (p h : Nat) (x : Tile) : (s.setTile p h x).tenants = s.tenants := rfl
@[simp] theorem State.setTile_pend (p h : Nat) (x : Tile) : (s.setTile p h x).pend = s.pend := rfl
@[simp] theorem State.setTile_seen (p h : Nat) (x : Tile) : (s.setTile p h x).seen = s.seen := rfl
@[simp] theorem State.setTile_knows (p h : Nat) (x : Tile) : (s.setTile p h x).knows = s.knows := rfl
@[simp] theorem State.setTile_remotes (p h : Nat) (x : Tile) : (s.setTile p h x).remotes = s.remotes := rfl
@[simp] theorem State.setTile_nextId (p h : Nat) (x : Tile) : (s.setTile p h x).nextId = s.nextId := rfl
@[simp] theorem State.setTile_xlats (p h : Nat) (x : Tile) : (s.setTile p h x).xlats = s.xlats := rfl
@[simp] theorem State.setTile_tabs (p h : Nat) (x : Tile) : (s.setTile p h x).tabs = s.tabs := rfl
@[simp] theorem State.setTile_invals (p h : Nat) (x : Tile) : (s.setTile p h x).invals = s.invals := rfl
@[simp] theorem State.setTile_prqs (p h : Nat) (x : Tile) : (s.setTile p h x).prqs = s.prqs := rfl
@[simp] theorem State.setTile_prqWait (p h : Nat) (x : Tile) : (s.setTile p h x).prqWait = s.prqWait := rfl
@[simp] theorem State.setTile_fatals (p h : Nat) (x : Tile) : (s.setTile p h x).fatals = s.fatals := rfl
@[simp] theorem State.setTile_regions (p h : Nat) (x : Tile) : (s.setTile p h x).regions = s.regions := rfl
@[simp] theorem State.setTile_slots (p h : Nat) (x : Tile) : (s.setTile p h x).slots = s.slots := rfl
@[simp] theorem State.setTile_queues (p h : Nat) (x : Tile) : (s.setTile p h x).queues = s.queues := rfl
@[simp] theorem State.setTile_crings (p h : Nat) (x : Tile) : (s.setTile p h x).crings = s.crings := rfl
@[simp] theorem State.setTile_held (p h : Nat) (x : Tile) : (s.setTile p h x).held = s.held := rfl
@[simp] theorem State.setTile_kicks (p h : Nat) (x : Tile) : (s.setTile p h x).kicks = s.kicks := rfl
@[simp] theorem State.setTile_wdogs (p h : Nat) (x : Tile) : (s.setTile p h x).wdogs = s.wdogs := rfl
@[simp] theorem State.setTile_jnext (p h : Nat) (x : Tile) : (s.setTile p h x).jnext = s.jnext := rfl
@[simp] theorem State.setTile_takevec (p h : Nat) (x : Tile) : (s.setTile p h x).takevec = s.takevec := rfl
@[simp] theorem State.setTile_lfault (p h : Nat) (x : Tile) : (s.setTile p h x).lfault = s.lfault := rfl
@[simp] theorem State.setTile_fatal (p h : Nat) (x : Tile) : (s.setTile p h x).fatal = s.fatal := rfl
@[simp] theorem State.setTile_frames (p h : Nat) (x : Tile) : (s.setTile p h x).frames = s.frames := rfl
@[simp] theorem State.setTile_frame (p h : Nat) (x : Tile) : (s.setTile p h x).frame = s.frame := rfl
@[simp] theorem State.setTile_cuts (p h : Nat) (x : Tile) : (s.setTile p h x).cuts = s.cuts := rfl
@[simp] theorem State.setTile_scrubs (p h : Nat) (x : Tile) : (s.setTile p h x).scrubs = s.scrubs := rfl
@[simp] theorem State.setTile_scrubSeq (p h : Nat) (x : Tile) : (s.setTile p h x).scrubSeq = s.scrubSeq := rfl
@[simp] theorem State.setTile_scrubLast (p h : Nat) (x : Tile) : (s.setTile p h x).scrubLast = s.scrubLast := rfl
@[simp] theorem State.setTile_tokenBars (p h : Nat) (x : Tile) : (s.setTile p h x).tokenBars = s.tokenBars := rfl
@[simp] theorem State.setTile_ways (p h : Nat) (x : Tile) : (s.setTile p h x).ways = s.ways := rfl
@[simp] theorem State.setTile_waySpares (p h : Nat) (x : Tile) : (s.setTile p h x).waySpares = s.waySpares := rfl
@[simp] theorem State.setTile_waysLost (p h : Nat) (x : Tile) : (s.setTile p h x).waysLost = s.waysLost := rfl
@[simp] theorem State.setTile_spares (p h : Nat) (x : Tile) : (s.setTile p h x).spares = s.spares := rfl
@[simp] theorem State.setTile_colSpares (p h : Nat) (x : Tile) : (s.setTile p h x).colSpares = s.colSpares := rfl
@[simp] theorem State.setTile_rowRepairs (p h : Nat) (x : Tile) : (s.setTile p h x).rowRepairs = s.rowRepairs := rfl
@[simp] theorem State.setTile_repairs (p h : Nat) (x : Tile) : (s.setTile p h x).repairs = s.repairs := rfl
@[simp] theorem State.setTile_wear (p h : Nat) (x : Tile) : (s.setTile p h x).wear = s.wear := rfl
@[simp] theorem State.setTile_lanes (p h : Nat) (x : Tile) : (s.setTile p h x).lanes = s.lanes := rfl
@[simp] theorem State.setTile_admin (p h : Nat) (x : Tile) : (s.setTile p h x).admin = s.admin := rfl
@[simp] theorem State.setTile_vfbox (p h : Nat) (x : Tile) : (s.setTile p h x).vfbox = s.vfbox := rfl
@[simp] theorem State.setTile_pftoken (p h : Nat) (x : Tile) : (s.setTile p h x).pftoken = s.pftoken := rfl
@[simp] theorem State.setTile_perms (p h : Nat) (x : Tile) : (s.setTile p h x).perms = s.perms := rfl
@[simp] theorem State.setTile_tierEnc (p h : Nat) (x : Tile) : (s.setTile p h x).tierEnc = s.tierEnc := rfl
@[simp] theorem State.setTile_shared (p h : Nat) (x : Tile) : (s.setTile p h x).shared = s.shared := rfl
@[simp] theorem State.setTile_hostHeld (p h : Nat) (x : Tile) : (s.setTile p h x).hostHeld = s.hostHeld := rfl
@[simp] theorem State.setTile_pwrcap (p h : Nat) (x : Tile) : (s.setTile p h x).pwrcap = s.pwrcap := rfl
@[simp] theorem State.setTile_locid (p h : Nat) (x : Tile) : (s.setTile p h x).locid = s.locid := rfl
@[simp] theorem State.setTile_staged (p h : Nat) (x : Tile) : (s.setTile p h x).staged = s.staged := rfl
@[simp] theorem State.setTile_running (p h : Nat) (x : Tile) : (s.setTile p h x).running = s.running := rfl
@[simp] theorem State.setTile_vec0 (p h : Nat) (x : Tile) : (s.setTile p h x).vec0 = s.vec0 := rfl
@[simp] theorem State.setTile_mctp (p h : Nat) (x : Tile) : (s.setTile p h x).mctp = s.mctp := rfl
@[simp] theorem State.setTile_flits (p h : Nat) (x : Tile) : (s.setTile p h x).flits = s.flits := rfl

/-! `setRing` -/

@[simp] theorem State.setRing_cur (p r : Nat) (x : Ring) : (s.setRing p r x).cur = s.cur := rfl
@[simp] theorem State.setRing_agenda (p r : Nat) (x : Ring) : (s.setRing p r x).agenda = s.agenda := rfl
@[simp] theorem State.setRing_cycle (p r : Nat) (x : Ring) : (s.setRing p r x).cycle = s.cycle := rfl
@[simp] theorem State.setRing_free (p r : Nat) (x : Ring) : (s.setRing p r x).free = s.free := rfl
@[simp] theorem State.setRing_mem (p r : Nat) (x : Ring) : (s.setRing p r x).mem = s.mem := rfl
@[simp] theorem State.setRing_badMem (p r : Nat) (x : Ring) : (s.setRing p r x).badMem = s.badMem := rfl
@[simp] theorem State.setRing_sram (p r : Nat) (x : Ring) : (s.setRing p r x).sram = s.sram := rfl
@[simp] theorem State.setRing_sramBad (p r : Nat) (x : Ring) : (s.setRing p r x).sramBad = s.sramBad := rfl
@[simp] theorem State.setRing_imem (p r : Nat) (x : Ring) : (s.setRing p r x).imem = s.imem := rfl
@[simp] theorem State.setRing_threads (p r : Nat) (x : Ring) : (s.setRing p r x).threads = s.threads := rfl
@[simp] theorem State.setRing_lodges (p r : Nat) (x : Ring) : (s.setRing p r x).lodges = s.lodges := rfl
@[simp] theorem State.setRing_plots (p r : Nat) (x : Ring) : (s.setRing p r x).plots = s.plots := rfl
@[simp] theorem State.setRing_planes (p r : Nat) (x : Ring) : (s.setRing p r x).planes = s.planes := rfl
@[simp] theorem State.setRing_cells (p r : Nat) (x : Ring) : (s.setRing p r x).cells = s.cells := rfl
@[simp] theorem State.setRing_ports (p r : Nat) (x : Ring) : (s.setRing p r x).ports = s.ports := rfl
@[simp] theorem State.setRing_lats (p r : Nat) (x : Ring) : (s.setRing p r x).lats = s.lats := rfl
@[simp] theorem State.setRing_latOwner (p r : Nat) (x : Ring) : (s.setRing p r x).latOwner = s.latOwner := rfl
@[simp] theorem State.setRing_accs (p r : Nat) (x : Ring) : (s.setRing p r x).accs = s.accs := rfl
@[simp] theorem State.setRing_tiles (p r : Nat) (x : Ring) : (s.setRing p r x).tiles = s.tiles := rfl
@[simp] theorem State.setRing_gates (p r : Nat) (x : Ring) : (s.setRing p r x).gates = s.gates := rfl
@[simp] theorem State.setRing_chans (p r : Nat) (x : Ring) : (s.setRing p r x).chans = s.chans := rfl
@[simp] theorem State.setRing_mboxes (p r : Nat) (x : Ring) : (s.setRing p r x).mboxes = s.mboxes := rfl
@[simp] theorem State.setRing_sets (p r : Nat) (x : Ring) : (s.setRing p r x).sets = s.sets := rfl
@[simp] theorem State.setRing_tenants (p r : Nat) (x : Ring) : (s.setRing p r x).tenants = s.tenants := rfl
@[simp] theorem State.setRing_pend (p r : Nat) (x : Ring) : (s.setRing p r x).pend = s.pend := rfl
@[simp] theorem State.setRing_seen (p r : Nat) (x : Ring) : (s.setRing p r x).seen = s.seen := rfl
@[simp] theorem State.setRing_knows (p r : Nat) (x : Ring) : (s.setRing p r x).knows = s.knows := rfl
@[simp] theorem State.setRing_remotes (p r : Nat) (x : Ring) : (s.setRing p r x).remotes = s.remotes := rfl
@[simp] theorem State.setRing_nextId (p r : Nat) (x : Ring) : (s.setRing p r x).nextId = s.nextId := rfl
@[simp] theorem State.setRing_xlats (p r : Nat) (x : Ring) : (s.setRing p r x).xlats = s.xlats := rfl
@[simp] theorem State.setRing_tabs (p r : Nat) (x : Ring) : (s.setRing p r x).tabs = s.tabs := rfl
@[simp] theorem State.setRing_invals (p r : Nat) (x : Ring) : (s.setRing p r x).invals = s.invals := rfl
@[simp] theorem State.setRing_prqs (p r : Nat) (x : Ring) : (s.setRing p r x).prqs = s.prqs := rfl
@[simp] theorem State.setRing_prqWait (p r : Nat) (x : Ring) : (s.setRing p r x).prqWait = s.prqWait := rfl
@[simp] theorem State.setRing_fatals (p r : Nat) (x : Ring) : (s.setRing p r x).fatals = s.fatals := rfl
@[simp] theorem State.setRing_regions (p r : Nat) (x : Ring) : (s.setRing p r x).regions = s.regions := rfl
@[simp] theorem State.setRing_slots (p r : Nat) (x : Ring) : (s.setRing p r x).slots = s.slots := rfl
@[simp] theorem State.setRing_queues (p r : Nat) (x : Ring) : (s.setRing p r x).queues = s.queues := rfl
@[simp] theorem State.setRing_crings (p r : Nat) (x : Ring) : (s.setRing p r x).crings = s.crings := rfl
@[simp] theorem State.setRing_held (p r : Nat) (x : Ring) : (s.setRing p r x).held = s.held := rfl
@[simp] theorem State.setRing_kicks (p r : Nat) (x : Ring) : (s.setRing p r x).kicks = s.kicks := rfl
@[simp] theorem State.setRing_wdogs (p r : Nat) (x : Ring) : (s.setRing p r x).wdogs = s.wdogs := rfl
@[simp] theorem State.setRing_jnext (p r : Nat) (x : Ring) : (s.setRing p r x).jnext = s.jnext := rfl
@[simp] theorem State.setRing_takevec (p r : Nat) (x : Ring) : (s.setRing p r x).takevec = s.takevec := rfl
@[simp] theorem State.setRing_lfault (p r : Nat) (x : Ring) : (s.setRing p r x).lfault = s.lfault := rfl
@[simp] theorem State.setRing_fatal (p r : Nat) (x : Ring) : (s.setRing p r x).fatal = s.fatal := rfl
@[simp] theorem State.setRing_frames (p r : Nat) (x : Ring) : (s.setRing p r x).frames = s.frames := rfl
@[simp] theorem State.setRing_frame (p r : Nat) (x : Ring) : (s.setRing p r x).frame = s.frame := rfl
@[simp] theorem State.setRing_cuts (p r : Nat) (x : Ring) : (s.setRing p r x).cuts = s.cuts := rfl
@[simp] theorem State.setRing_scrubs (p r : Nat) (x : Ring) : (s.setRing p r x).scrubs = s.scrubs := rfl
@[simp] theorem State.setRing_scrubSeq (p r : Nat) (x : Ring) : (s.setRing p r x).scrubSeq = s.scrubSeq := rfl
@[simp] theorem State.setRing_scrubLast (p r : Nat) (x : Ring) : (s.setRing p r x).scrubLast = s.scrubLast := rfl
@[simp] theorem State.setRing_tokenBars (p r : Nat) (x : Ring) : (s.setRing p r x).tokenBars = s.tokenBars := rfl
@[simp] theorem State.setRing_ways (p r : Nat) (x : Ring) : (s.setRing p r x).ways = s.ways := rfl
@[simp] theorem State.setRing_waySpares (p r : Nat) (x : Ring) : (s.setRing p r x).waySpares = s.waySpares := rfl
@[simp] theorem State.setRing_waysLost (p r : Nat) (x : Ring) : (s.setRing p r x).waysLost = s.waysLost := rfl
@[simp] theorem State.setRing_spares (p r : Nat) (x : Ring) : (s.setRing p r x).spares = s.spares := rfl
@[simp] theorem State.setRing_colSpares (p r : Nat) (x : Ring) : (s.setRing p r x).colSpares = s.colSpares := rfl
@[simp] theorem State.setRing_rowRepairs (p r : Nat) (x : Ring) : (s.setRing p r x).rowRepairs = s.rowRepairs := rfl
@[simp] theorem State.setRing_repairs (p r : Nat) (x : Ring) : (s.setRing p r x).repairs = s.repairs := rfl
@[simp] theorem State.setRing_wear (p r : Nat) (x : Ring) : (s.setRing p r x).wear = s.wear := rfl
@[simp] theorem State.setRing_lanes (p r : Nat) (x : Ring) : (s.setRing p r x).lanes = s.lanes := rfl
@[simp] theorem State.setRing_admin (p r : Nat) (x : Ring) : (s.setRing p r x).admin = s.admin := rfl
@[simp] theorem State.setRing_vfbox (p r : Nat) (x : Ring) : (s.setRing p r x).vfbox = s.vfbox := rfl
@[simp] theorem State.setRing_pftoken (p r : Nat) (x : Ring) : (s.setRing p r x).pftoken = s.pftoken := rfl
@[simp] theorem State.setRing_perms (p r : Nat) (x : Ring) : (s.setRing p r x).perms = s.perms := rfl
@[simp] theorem State.setRing_tierEnc (p r : Nat) (x : Ring) : (s.setRing p r x).tierEnc = s.tierEnc := rfl
@[simp] theorem State.setRing_shared (p r : Nat) (x : Ring) : (s.setRing p r x).shared = s.shared := rfl
@[simp] theorem State.setRing_hostHeld (p r : Nat) (x : Ring) : (s.setRing p r x).hostHeld = s.hostHeld := rfl
@[simp] theorem State.setRing_pwrcap (p r : Nat) (x : Ring) : (s.setRing p r x).pwrcap = s.pwrcap := rfl
@[simp] theorem State.setRing_locid (p r : Nat) (x : Ring) : (s.setRing p r x).locid = s.locid := rfl
@[simp] theorem State.setRing_staged (p r : Nat) (x : Ring) : (s.setRing p r x).staged = s.staged := rfl
@[simp] theorem State.setRing_running (p r : Nat) (x : Ring) : (s.setRing p r x).running = s.running := rfl
@[simp] theorem State.setRing_vec0 (p r : Nat) (x : Ring) : (s.setRing p r x).vec0 = s.vec0 := rfl
@[simp] theorem State.setRing_mctp (p r : Nat) (x : Ring) : (s.setRing p r x).mctp = s.mctp := rfl
@[simp] theorem State.setRing_flits (p r : Nat) (x : Ring) : (s.setRing p r x).flits = s.flits := rfl

/-! `setGate` -/

@[simp] theorem State.setGate_cur (p g : Nat) (x : Gate) : (s.setGate p g x).cur = s.cur := rfl
@[simp] theorem State.setGate_agenda (p g : Nat) (x : Gate) : (s.setGate p g x).agenda = s.agenda := rfl
@[simp] theorem State.setGate_cycle (p g : Nat) (x : Gate) : (s.setGate p g x).cycle = s.cycle := rfl
@[simp] theorem State.setGate_free (p g : Nat) (x : Gate) : (s.setGate p g x).free = s.free := rfl
@[simp] theorem State.setGate_mem (p g : Nat) (x : Gate) : (s.setGate p g x).mem = s.mem := rfl
@[simp] theorem State.setGate_badMem (p g : Nat) (x : Gate) : (s.setGate p g x).badMem = s.badMem := rfl
@[simp] theorem State.setGate_sram (p g : Nat) (x : Gate) : (s.setGate p g x).sram = s.sram := rfl
@[simp] theorem State.setGate_sramBad (p g : Nat) (x : Gate) : (s.setGate p g x).sramBad = s.sramBad := rfl
@[simp] theorem State.setGate_imem (p g : Nat) (x : Gate) : (s.setGate p g x).imem = s.imem := rfl
@[simp] theorem State.setGate_threads (p g : Nat) (x : Gate) : (s.setGate p g x).threads = s.threads := rfl
@[simp] theorem State.setGate_lodges (p g : Nat) (x : Gate) : (s.setGate p g x).lodges = s.lodges := rfl
@[simp] theorem State.setGate_plots (p g : Nat) (x : Gate) : (s.setGate p g x).plots = s.plots := rfl
@[simp] theorem State.setGate_planes (p g : Nat) (x : Gate) : (s.setGate p g x).planes = s.planes := rfl
@[simp] theorem State.setGate_cells (p g : Nat) (x : Gate) : (s.setGate p g x).cells = s.cells := rfl
@[simp] theorem State.setGate_ports (p g : Nat) (x : Gate) : (s.setGate p g x).ports = s.ports := rfl
@[simp] theorem State.setGate_lats (p g : Nat) (x : Gate) : (s.setGate p g x).lats = s.lats := rfl
@[simp] theorem State.setGate_latOwner (p g : Nat) (x : Gate) : (s.setGate p g x).latOwner = s.latOwner := rfl
@[simp] theorem State.setGate_accs (p g : Nat) (x : Gate) : (s.setGate p g x).accs = s.accs := rfl
@[simp] theorem State.setGate_tiles (p g : Nat) (x : Gate) : (s.setGate p g x).tiles = s.tiles := rfl
@[simp] theorem State.setGate_rings (p g : Nat) (x : Gate) : (s.setGate p g x).rings = s.rings := rfl
@[simp] theorem State.setGate_chans (p g : Nat) (x : Gate) : (s.setGate p g x).chans = s.chans := rfl
@[simp] theorem State.setGate_mboxes (p g : Nat) (x : Gate) : (s.setGate p g x).mboxes = s.mboxes := rfl
@[simp] theorem State.setGate_sets (p g : Nat) (x : Gate) : (s.setGate p g x).sets = s.sets := rfl
@[simp] theorem State.setGate_tenants (p g : Nat) (x : Gate) : (s.setGate p g x).tenants = s.tenants := rfl
@[simp] theorem State.setGate_pend (p g : Nat) (x : Gate) : (s.setGate p g x).pend = s.pend := rfl
@[simp] theorem State.setGate_seen (p g : Nat) (x : Gate) : (s.setGate p g x).seen = s.seen := rfl
@[simp] theorem State.setGate_knows (p g : Nat) (x : Gate) : (s.setGate p g x).knows = s.knows := rfl
@[simp] theorem State.setGate_remotes (p g : Nat) (x : Gate) : (s.setGate p g x).remotes = s.remotes := rfl
@[simp] theorem State.setGate_nextId (p g : Nat) (x : Gate) : (s.setGate p g x).nextId = s.nextId := rfl
@[simp] theorem State.setGate_xlats (p g : Nat) (x : Gate) : (s.setGate p g x).xlats = s.xlats := rfl
@[simp] theorem State.setGate_tabs (p g : Nat) (x : Gate) : (s.setGate p g x).tabs = s.tabs := rfl
@[simp] theorem State.setGate_invals (p g : Nat) (x : Gate) : (s.setGate p g x).invals = s.invals := rfl
@[simp] theorem State.setGate_prqs (p g : Nat) (x : Gate) : (s.setGate p g x).prqs = s.prqs := rfl
@[simp] theorem State.setGate_prqWait (p g : Nat) (x : Gate) : (s.setGate p g x).prqWait = s.prqWait := rfl
@[simp] theorem State.setGate_fatals (p g : Nat) (x : Gate) : (s.setGate p g x).fatals = s.fatals := rfl
@[simp] theorem State.setGate_regions (p g : Nat) (x : Gate) : (s.setGate p g x).regions = s.regions := rfl
@[simp] theorem State.setGate_slots (p g : Nat) (x : Gate) : (s.setGate p g x).slots = s.slots := rfl
@[simp] theorem State.setGate_queues (p g : Nat) (x : Gate) : (s.setGate p g x).queues = s.queues := rfl
@[simp] theorem State.setGate_crings (p g : Nat) (x : Gate) : (s.setGate p g x).crings = s.crings := rfl
@[simp] theorem State.setGate_held (p g : Nat) (x : Gate) : (s.setGate p g x).held = s.held := rfl
@[simp] theorem State.setGate_kicks (p g : Nat) (x : Gate) : (s.setGate p g x).kicks = s.kicks := rfl
@[simp] theorem State.setGate_wdogs (p g : Nat) (x : Gate) : (s.setGate p g x).wdogs = s.wdogs := rfl
@[simp] theorem State.setGate_jnext (p g : Nat) (x : Gate) : (s.setGate p g x).jnext = s.jnext := rfl
@[simp] theorem State.setGate_takevec (p g : Nat) (x : Gate) : (s.setGate p g x).takevec = s.takevec := rfl
@[simp] theorem State.setGate_lfault (p g : Nat) (x : Gate) : (s.setGate p g x).lfault = s.lfault := rfl
@[simp] theorem State.setGate_fatal (p g : Nat) (x : Gate) : (s.setGate p g x).fatal = s.fatal := rfl
@[simp] theorem State.setGate_frames (p g : Nat) (x : Gate) : (s.setGate p g x).frames = s.frames := rfl
@[simp] theorem State.setGate_frame (p g : Nat) (x : Gate) : (s.setGate p g x).frame = s.frame := rfl
@[simp] theorem State.setGate_cuts (p g : Nat) (x : Gate) : (s.setGate p g x).cuts = s.cuts := rfl
@[simp] theorem State.setGate_scrubs (p g : Nat) (x : Gate) : (s.setGate p g x).scrubs = s.scrubs := rfl
@[simp] theorem State.setGate_scrubSeq (p g : Nat) (x : Gate) : (s.setGate p g x).scrubSeq = s.scrubSeq := rfl
@[simp] theorem State.setGate_scrubLast (p g : Nat) (x : Gate) : (s.setGate p g x).scrubLast = s.scrubLast := rfl
@[simp] theorem State.setGate_tokenBars (p g : Nat) (x : Gate) : (s.setGate p g x).tokenBars = s.tokenBars := rfl
@[simp] theorem State.setGate_ways (p g : Nat) (x : Gate) : (s.setGate p g x).ways = s.ways := rfl
@[simp] theorem State.setGate_waySpares (p g : Nat) (x : Gate) : (s.setGate p g x).waySpares = s.waySpares := rfl
@[simp] theorem State.setGate_waysLost (p g : Nat) (x : Gate) : (s.setGate p g x).waysLost = s.waysLost := rfl
@[simp] theorem State.setGate_spares (p g : Nat) (x : Gate) : (s.setGate p g x).spares = s.spares := rfl
@[simp] theorem State.setGate_colSpares (p g : Nat) (x : Gate) : (s.setGate p g x).colSpares = s.colSpares := rfl
@[simp] theorem State.setGate_rowRepairs (p g : Nat) (x : Gate) : (s.setGate p g x).rowRepairs = s.rowRepairs := rfl
@[simp] theorem State.setGate_repairs (p g : Nat) (x : Gate) : (s.setGate p g x).repairs = s.repairs := rfl
@[simp] theorem State.setGate_wear (p g : Nat) (x : Gate) : (s.setGate p g x).wear = s.wear := rfl
@[simp] theorem State.setGate_lanes (p g : Nat) (x : Gate) : (s.setGate p g x).lanes = s.lanes := rfl
@[simp] theorem State.setGate_admin (p g : Nat) (x : Gate) : (s.setGate p g x).admin = s.admin := rfl
@[simp] theorem State.setGate_vfbox (p g : Nat) (x : Gate) : (s.setGate p g x).vfbox = s.vfbox := rfl
@[simp] theorem State.setGate_pftoken (p g : Nat) (x : Gate) : (s.setGate p g x).pftoken = s.pftoken := rfl
@[simp] theorem State.setGate_perms (p g : Nat) (x : Gate) : (s.setGate p g x).perms = s.perms := rfl
@[simp] theorem State.setGate_tierEnc (p g : Nat) (x : Gate) : (s.setGate p g x).tierEnc = s.tierEnc := rfl
@[simp] theorem State.setGate_shared (p g : Nat) (x : Gate) : (s.setGate p g x).shared = s.shared := rfl
@[simp] theorem State.setGate_hostHeld (p g : Nat) (x : Gate) : (s.setGate p g x).hostHeld = s.hostHeld := rfl
@[simp] theorem State.setGate_pwrcap (p g : Nat) (x : Gate) : (s.setGate p g x).pwrcap = s.pwrcap := rfl
@[simp] theorem State.setGate_locid (p g : Nat) (x : Gate) : (s.setGate p g x).locid = s.locid := rfl
@[simp] theorem State.setGate_staged (p g : Nat) (x : Gate) : (s.setGate p g x).staged = s.staged := rfl
@[simp] theorem State.setGate_running (p g : Nat) (x : Gate) : (s.setGate p g x).running = s.running := rfl
@[simp] theorem State.setGate_vec0 (p g : Nat) (x : Gate) : (s.setGate p g x).vec0 = s.vec0 := rfl
@[simp] theorem State.setGate_mctp (p g : Nat) (x : Gate) : (s.setGate p g x).mctp = s.mctp := rfl
@[simp] theorem State.setGate_flits (p g : Nat) (x : Gate) : (s.setGate p g x).flits = s.flits := rfl

/-! `setChan` -/

@[simp] theorem State.setChan_cur (c : Nat) (x : Chan) : (s.setChan c x).cur = s.cur := rfl
@[simp] theorem State.setChan_agenda (c : Nat) (x : Chan) : (s.setChan c x).agenda = s.agenda := rfl
@[simp] theorem State.setChan_cycle (c : Nat) (x : Chan) : (s.setChan c x).cycle = s.cycle := rfl
@[simp] theorem State.setChan_free (c : Nat) (x : Chan) : (s.setChan c x).free = s.free := rfl
@[simp] theorem State.setChan_mem (c : Nat) (x : Chan) : (s.setChan c x).mem = s.mem := rfl
@[simp] theorem State.setChan_badMem (c : Nat) (x : Chan) : (s.setChan c x).badMem = s.badMem := rfl
@[simp] theorem State.setChan_sram (c : Nat) (x : Chan) : (s.setChan c x).sram = s.sram := rfl
@[simp] theorem State.setChan_sramBad (c : Nat) (x : Chan) : (s.setChan c x).sramBad = s.sramBad := rfl
@[simp] theorem State.setChan_imem (c : Nat) (x : Chan) : (s.setChan c x).imem = s.imem := rfl
@[simp] theorem State.setChan_threads (c : Nat) (x : Chan) : (s.setChan c x).threads = s.threads := rfl
@[simp] theorem State.setChan_lodges (c : Nat) (x : Chan) : (s.setChan c x).lodges = s.lodges := rfl
@[simp] theorem State.setChan_plots (c : Nat) (x : Chan) : (s.setChan c x).plots = s.plots := rfl
@[simp] theorem State.setChan_planes (c : Nat) (x : Chan) : (s.setChan c x).planes = s.planes := rfl
@[simp] theorem State.setChan_cells (c : Nat) (x : Chan) : (s.setChan c x).cells = s.cells := rfl
@[simp] theorem State.setChan_ports (c : Nat) (x : Chan) : (s.setChan c x).ports = s.ports := rfl
@[simp] theorem State.setChan_lats (c : Nat) (x : Chan) : (s.setChan c x).lats = s.lats := rfl
@[simp] theorem State.setChan_latOwner (c : Nat) (x : Chan) : (s.setChan c x).latOwner = s.latOwner := rfl
@[simp] theorem State.setChan_accs (c : Nat) (x : Chan) : (s.setChan c x).accs = s.accs := rfl
@[simp] theorem State.setChan_tiles (c : Nat) (x : Chan) : (s.setChan c x).tiles = s.tiles := rfl
@[simp] theorem State.setChan_rings (c : Nat) (x : Chan) : (s.setChan c x).rings = s.rings := rfl
@[simp] theorem State.setChan_gates (c : Nat) (x : Chan) : (s.setChan c x).gates = s.gates := rfl
@[simp] theorem State.setChan_mboxes (c : Nat) (x : Chan) : (s.setChan c x).mboxes = s.mboxes := rfl
@[simp] theorem State.setChan_sets (c : Nat) (x : Chan) : (s.setChan c x).sets = s.sets := rfl
@[simp] theorem State.setChan_tenants (c : Nat) (x : Chan) : (s.setChan c x).tenants = s.tenants := rfl
@[simp] theorem State.setChan_pend (c : Nat) (x : Chan) : (s.setChan c x).pend = s.pend := rfl
@[simp] theorem State.setChan_seen (c : Nat) (x : Chan) : (s.setChan c x).seen = s.seen := rfl
@[simp] theorem State.setChan_knows (c : Nat) (x : Chan) : (s.setChan c x).knows = s.knows := rfl
@[simp] theorem State.setChan_remotes (c : Nat) (x : Chan) : (s.setChan c x).remotes = s.remotes := rfl
@[simp] theorem State.setChan_nextId (c : Nat) (x : Chan) : (s.setChan c x).nextId = s.nextId := rfl
@[simp] theorem State.setChan_xlats (c : Nat) (x : Chan) : (s.setChan c x).xlats = s.xlats := rfl
@[simp] theorem State.setChan_tabs (c : Nat) (x : Chan) : (s.setChan c x).tabs = s.tabs := rfl
@[simp] theorem State.setChan_invals (c : Nat) (x : Chan) : (s.setChan c x).invals = s.invals := rfl
@[simp] theorem State.setChan_prqs (c : Nat) (x : Chan) : (s.setChan c x).prqs = s.prqs := rfl
@[simp] theorem State.setChan_prqWait (c : Nat) (x : Chan) : (s.setChan c x).prqWait = s.prqWait := rfl
@[simp] theorem State.setChan_fatals (c : Nat) (x : Chan) : (s.setChan c x).fatals = s.fatals := rfl
@[simp] theorem State.setChan_regions (c : Nat) (x : Chan) : (s.setChan c x).regions = s.regions := rfl
@[simp] theorem State.setChan_slots (c : Nat) (x : Chan) : (s.setChan c x).slots = s.slots := rfl
@[simp] theorem State.setChan_queues (c : Nat) (x : Chan) : (s.setChan c x).queues = s.queues := rfl
@[simp] theorem State.setChan_crings (c : Nat) (x : Chan) : (s.setChan c x).crings = s.crings := rfl
@[simp] theorem State.setChan_held (c : Nat) (x : Chan) : (s.setChan c x).held = s.held := rfl
@[simp] theorem State.setChan_kicks (c : Nat) (x : Chan) : (s.setChan c x).kicks = s.kicks := rfl
@[simp] theorem State.setChan_wdogs (c : Nat) (x : Chan) : (s.setChan c x).wdogs = s.wdogs := rfl
@[simp] theorem State.setChan_jnext (c : Nat) (x : Chan) : (s.setChan c x).jnext = s.jnext := rfl
@[simp] theorem State.setChan_takevec (c : Nat) (x : Chan) : (s.setChan c x).takevec = s.takevec := rfl
@[simp] theorem State.setChan_lfault (c : Nat) (x : Chan) : (s.setChan c x).lfault = s.lfault := rfl
@[simp] theorem State.setChan_fatal (c : Nat) (x : Chan) : (s.setChan c x).fatal = s.fatal := rfl
@[simp] theorem State.setChan_frames (c : Nat) (x : Chan) : (s.setChan c x).frames = s.frames := rfl
@[simp] theorem State.setChan_frame (c : Nat) (x : Chan) : (s.setChan c x).frame = s.frame := rfl
@[simp] theorem State.setChan_cuts (c : Nat) (x : Chan) : (s.setChan c x).cuts = s.cuts := rfl
@[simp] theorem State.setChan_scrubs (c : Nat) (x : Chan) : (s.setChan c x).scrubs = s.scrubs := rfl
@[simp] theorem State.setChan_scrubSeq (c : Nat) (x : Chan) : (s.setChan c x).scrubSeq = s.scrubSeq := rfl
@[simp] theorem State.setChan_scrubLast (c : Nat) (x : Chan) : (s.setChan c x).scrubLast = s.scrubLast := rfl
@[simp] theorem State.setChan_tokenBars (c : Nat) (x : Chan) : (s.setChan c x).tokenBars = s.tokenBars := rfl
@[simp] theorem State.setChan_ways (c : Nat) (x : Chan) : (s.setChan c x).ways = s.ways := rfl
@[simp] theorem State.setChan_waySpares (c : Nat) (x : Chan) : (s.setChan c x).waySpares = s.waySpares := rfl
@[simp] theorem State.setChan_waysLost (c : Nat) (x : Chan) : (s.setChan c x).waysLost = s.waysLost := rfl
@[simp] theorem State.setChan_spares (c : Nat) (x : Chan) : (s.setChan c x).spares = s.spares := rfl
@[simp] theorem State.setChan_colSpares (c : Nat) (x : Chan) : (s.setChan c x).colSpares = s.colSpares := rfl
@[simp] theorem State.setChan_rowRepairs (c : Nat) (x : Chan) : (s.setChan c x).rowRepairs = s.rowRepairs := rfl
@[simp] theorem State.setChan_repairs (c : Nat) (x : Chan) : (s.setChan c x).repairs = s.repairs := rfl
@[simp] theorem State.setChan_wear (c : Nat) (x : Chan) : (s.setChan c x).wear = s.wear := rfl
@[simp] theorem State.setChan_lanes (c : Nat) (x : Chan) : (s.setChan c x).lanes = s.lanes := rfl
@[simp] theorem State.setChan_admin (c : Nat) (x : Chan) : (s.setChan c x).admin = s.admin := rfl
@[simp] theorem State.setChan_vfbox (c : Nat) (x : Chan) : (s.setChan c x).vfbox = s.vfbox := rfl
@[simp] theorem State.setChan_pftoken (c : Nat) (x : Chan) : (s.setChan c x).pftoken = s.pftoken := rfl
@[simp] theorem State.setChan_perms (c : Nat) (x : Chan) : (s.setChan c x).perms = s.perms := rfl
@[simp] theorem State.setChan_tierEnc (c : Nat) (x : Chan) : (s.setChan c x).tierEnc = s.tierEnc := rfl
@[simp] theorem State.setChan_shared (c : Nat) (x : Chan) : (s.setChan c x).shared = s.shared := rfl
@[simp] theorem State.setChan_hostHeld (c : Nat) (x : Chan) : (s.setChan c x).hostHeld = s.hostHeld := rfl
@[simp] theorem State.setChan_pwrcap (c : Nat) (x : Chan) : (s.setChan c x).pwrcap = s.pwrcap := rfl
@[simp] theorem State.setChan_locid (c : Nat) (x : Chan) : (s.setChan c x).locid = s.locid := rfl
@[simp] theorem State.setChan_staged (c : Nat) (x : Chan) : (s.setChan c x).staged = s.staged := rfl
@[simp] theorem State.setChan_running (c : Nat) (x : Chan) : (s.setChan c x).running = s.running := rfl
@[simp] theorem State.setChan_vec0 (c : Nat) (x : Chan) : (s.setChan c x).vec0 = s.vec0 := rfl
@[simp] theorem State.setChan_mctp (c : Nat) (x : Chan) : (s.setChan c x).mctp = s.mctp := rfl
@[simp] theorem State.setChan_flits (c : Nat) (x : Chan) : (s.setChan c x).flits = s.flits := rfl

/-! `setMbox` -/

@[simp] theorem State.setMbox_cur (m : Nat) (x : Mbox) : (s.setMbox m x).cur = s.cur := rfl
@[simp] theorem State.setMbox_agenda (m : Nat) (x : Mbox) : (s.setMbox m x).agenda = s.agenda := rfl
@[simp] theorem State.setMbox_cycle (m : Nat) (x : Mbox) : (s.setMbox m x).cycle = s.cycle := rfl
@[simp] theorem State.setMbox_free (m : Nat) (x : Mbox) : (s.setMbox m x).free = s.free := rfl
@[simp] theorem State.setMbox_mem (m : Nat) (x : Mbox) : (s.setMbox m x).mem = s.mem := rfl
@[simp] theorem State.setMbox_badMem (m : Nat) (x : Mbox) : (s.setMbox m x).badMem = s.badMem := rfl
@[simp] theorem State.setMbox_sram (m : Nat) (x : Mbox) : (s.setMbox m x).sram = s.sram := rfl
@[simp] theorem State.setMbox_sramBad (m : Nat) (x : Mbox) : (s.setMbox m x).sramBad = s.sramBad := rfl
@[simp] theorem State.setMbox_imem (m : Nat) (x : Mbox) : (s.setMbox m x).imem = s.imem := rfl
@[simp] theorem State.setMbox_threads (m : Nat) (x : Mbox) : (s.setMbox m x).threads = s.threads := rfl
@[simp] theorem State.setMbox_lodges (m : Nat) (x : Mbox) : (s.setMbox m x).lodges = s.lodges := rfl
@[simp] theorem State.setMbox_plots (m : Nat) (x : Mbox) : (s.setMbox m x).plots = s.plots := rfl
@[simp] theorem State.setMbox_planes (m : Nat) (x : Mbox) : (s.setMbox m x).planes = s.planes := rfl
@[simp] theorem State.setMbox_cells (m : Nat) (x : Mbox) : (s.setMbox m x).cells = s.cells := rfl
@[simp] theorem State.setMbox_ports (m : Nat) (x : Mbox) : (s.setMbox m x).ports = s.ports := rfl
@[simp] theorem State.setMbox_lats (m : Nat) (x : Mbox) : (s.setMbox m x).lats = s.lats := rfl
@[simp] theorem State.setMbox_latOwner (m : Nat) (x : Mbox) : (s.setMbox m x).latOwner = s.latOwner := rfl
@[simp] theorem State.setMbox_accs (m : Nat) (x : Mbox) : (s.setMbox m x).accs = s.accs := rfl
@[simp] theorem State.setMbox_tiles (m : Nat) (x : Mbox) : (s.setMbox m x).tiles = s.tiles := rfl
@[simp] theorem State.setMbox_rings (m : Nat) (x : Mbox) : (s.setMbox m x).rings = s.rings := rfl
@[simp] theorem State.setMbox_gates (m : Nat) (x : Mbox) : (s.setMbox m x).gates = s.gates := rfl
@[simp] theorem State.setMbox_chans (m : Nat) (x : Mbox) : (s.setMbox m x).chans = s.chans := rfl
@[simp] theorem State.setMbox_sets (m : Nat) (x : Mbox) : (s.setMbox m x).sets = s.sets := rfl
@[simp] theorem State.setMbox_tenants (m : Nat) (x : Mbox) : (s.setMbox m x).tenants = s.tenants := rfl
@[simp] theorem State.setMbox_pend (m : Nat) (x : Mbox) : (s.setMbox m x).pend = s.pend := rfl
@[simp] theorem State.setMbox_seen (m : Nat) (x : Mbox) : (s.setMbox m x).seen = s.seen := rfl
@[simp] theorem State.setMbox_knows (m : Nat) (x : Mbox) : (s.setMbox m x).knows = s.knows := rfl
@[simp] theorem State.setMbox_remotes (m : Nat) (x : Mbox) : (s.setMbox m x).remotes = s.remotes := rfl
@[simp] theorem State.setMbox_nextId (m : Nat) (x : Mbox) : (s.setMbox m x).nextId = s.nextId := rfl
@[simp] theorem State.setMbox_xlats (m : Nat) (x : Mbox) : (s.setMbox m x).xlats = s.xlats := rfl
@[simp] theorem State.setMbox_tabs (m : Nat) (x : Mbox) : (s.setMbox m x).tabs = s.tabs := rfl
@[simp] theorem State.setMbox_invals (m : Nat) (x : Mbox) : (s.setMbox m x).invals = s.invals := rfl
@[simp] theorem State.setMbox_prqs (m : Nat) (x : Mbox) : (s.setMbox m x).prqs = s.prqs := rfl
@[simp] theorem State.setMbox_prqWait (m : Nat) (x : Mbox) : (s.setMbox m x).prqWait = s.prqWait := rfl
@[simp] theorem State.setMbox_fatals (m : Nat) (x : Mbox) : (s.setMbox m x).fatals = s.fatals := rfl
@[simp] theorem State.setMbox_regions (m : Nat) (x : Mbox) : (s.setMbox m x).regions = s.regions := rfl
@[simp] theorem State.setMbox_slots (m : Nat) (x : Mbox) : (s.setMbox m x).slots = s.slots := rfl
@[simp] theorem State.setMbox_queues (m : Nat) (x : Mbox) : (s.setMbox m x).queues = s.queues := rfl
@[simp] theorem State.setMbox_crings (m : Nat) (x : Mbox) : (s.setMbox m x).crings = s.crings := rfl
@[simp] theorem State.setMbox_held (m : Nat) (x : Mbox) : (s.setMbox m x).held = s.held := rfl
@[simp] theorem State.setMbox_kicks (m : Nat) (x : Mbox) : (s.setMbox m x).kicks = s.kicks := rfl
@[simp] theorem State.setMbox_wdogs (m : Nat) (x : Mbox) : (s.setMbox m x).wdogs = s.wdogs := rfl
@[simp] theorem State.setMbox_jnext (m : Nat) (x : Mbox) : (s.setMbox m x).jnext = s.jnext := rfl
@[simp] theorem State.setMbox_takevec (m : Nat) (x : Mbox) : (s.setMbox m x).takevec = s.takevec := rfl
@[simp] theorem State.setMbox_lfault (m : Nat) (x : Mbox) : (s.setMbox m x).lfault = s.lfault := rfl
@[simp] theorem State.setMbox_fatal (m : Nat) (x : Mbox) : (s.setMbox m x).fatal = s.fatal := rfl
@[simp] theorem State.setMbox_frames (m : Nat) (x : Mbox) : (s.setMbox m x).frames = s.frames := rfl
@[simp] theorem State.setMbox_frame (m : Nat) (x : Mbox) : (s.setMbox m x).frame = s.frame := rfl
@[simp] theorem State.setMbox_cuts (m : Nat) (x : Mbox) : (s.setMbox m x).cuts = s.cuts := rfl
@[simp] theorem State.setMbox_scrubs (m : Nat) (x : Mbox) : (s.setMbox m x).scrubs = s.scrubs := rfl
@[simp] theorem State.setMbox_scrubSeq (m : Nat) (x : Mbox) : (s.setMbox m x).scrubSeq = s.scrubSeq := rfl
@[simp] theorem State.setMbox_scrubLast (m : Nat) (x : Mbox) : (s.setMbox m x).scrubLast = s.scrubLast := rfl
@[simp] theorem State.setMbox_tokenBars (m : Nat) (x : Mbox) : (s.setMbox m x).tokenBars = s.tokenBars := rfl
@[simp] theorem State.setMbox_ways (m : Nat) (x : Mbox) : (s.setMbox m x).ways = s.ways := rfl
@[simp] theorem State.setMbox_waySpares (m : Nat) (x : Mbox) : (s.setMbox m x).waySpares = s.waySpares := rfl
@[simp] theorem State.setMbox_waysLost (m : Nat) (x : Mbox) : (s.setMbox m x).waysLost = s.waysLost := rfl
@[simp] theorem State.setMbox_spares (m : Nat) (x : Mbox) : (s.setMbox m x).spares = s.spares := rfl
@[simp] theorem State.setMbox_colSpares (m : Nat) (x : Mbox) : (s.setMbox m x).colSpares = s.colSpares := rfl
@[simp] theorem State.setMbox_rowRepairs (m : Nat) (x : Mbox) : (s.setMbox m x).rowRepairs = s.rowRepairs := rfl
@[simp] theorem State.setMbox_repairs (m : Nat) (x : Mbox) : (s.setMbox m x).repairs = s.repairs := rfl
@[simp] theorem State.setMbox_wear (m : Nat) (x : Mbox) : (s.setMbox m x).wear = s.wear := rfl
@[simp] theorem State.setMbox_lanes (m : Nat) (x : Mbox) : (s.setMbox m x).lanes = s.lanes := rfl
@[simp] theorem State.setMbox_admin (m : Nat) (x : Mbox) : (s.setMbox m x).admin = s.admin := rfl
@[simp] theorem State.setMbox_vfbox (m : Nat) (x : Mbox) : (s.setMbox m x).vfbox = s.vfbox := rfl
@[simp] theorem State.setMbox_pftoken (m : Nat) (x : Mbox) : (s.setMbox m x).pftoken = s.pftoken := rfl
@[simp] theorem State.setMbox_perms (m : Nat) (x : Mbox) : (s.setMbox m x).perms = s.perms := rfl
@[simp] theorem State.setMbox_tierEnc (m : Nat) (x : Mbox) : (s.setMbox m x).tierEnc = s.tierEnc := rfl
@[simp] theorem State.setMbox_shared (m : Nat) (x : Mbox) : (s.setMbox m x).shared = s.shared := rfl
@[simp] theorem State.setMbox_hostHeld (m : Nat) (x : Mbox) : (s.setMbox m x).hostHeld = s.hostHeld := rfl
@[simp] theorem State.setMbox_pwrcap (m : Nat) (x : Mbox) : (s.setMbox m x).pwrcap = s.pwrcap := rfl
@[simp] theorem State.setMbox_locid (m : Nat) (x : Mbox) : (s.setMbox m x).locid = s.locid := rfl
@[simp] theorem State.setMbox_staged (m : Nat) (x : Mbox) : (s.setMbox m x).staged = s.staged := rfl
@[simp] theorem State.setMbox_running (m : Nat) (x : Mbox) : (s.setMbox m x).running = s.running := rfl
@[simp] theorem State.setMbox_vec0 (m : Nat) (x : Mbox) : (s.setMbox m x).vec0 = s.vec0 := rfl
@[simp] theorem State.setMbox_mctp (m : Nat) (x : Mbox) : (s.setMbox m x).mctp = s.mctp := rfl
@[simp] theorem State.setMbox_flits (m : Nat) (x : Mbox) : (s.setMbox m x).flits = s.flits := rfl

/-! `setTenant` -/

@[simp] theorem State.setTenant_cur (v : Nat) (x : Tenant) : (s.setTenant v x).cur = s.cur := rfl
@[simp] theorem State.setTenant_agenda (v : Nat) (x : Tenant) : (s.setTenant v x).agenda = s.agenda := rfl
@[simp] theorem State.setTenant_cycle (v : Nat) (x : Tenant) : (s.setTenant v x).cycle = s.cycle := rfl
@[simp] theorem State.setTenant_free (v : Nat) (x : Tenant) : (s.setTenant v x).free = s.free := rfl
@[simp] theorem State.setTenant_mem (v : Nat) (x : Tenant) : (s.setTenant v x).mem = s.mem := rfl
@[simp] theorem State.setTenant_badMem (v : Nat) (x : Tenant) : (s.setTenant v x).badMem = s.badMem := rfl
@[simp] theorem State.setTenant_sram (v : Nat) (x : Tenant) : (s.setTenant v x).sram = s.sram := rfl
@[simp] theorem State.setTenant_sramBad (v : Nat) (x : Tenant) : (s.setTenant v x).sramBad = s.sramBad := rfl
@[simp] theorem State.setTenant_imem (v : Nat) (x : Tenant) : (s.setTenant v x).imem = s.imem := rfl
@[simp] theorem State.setTenant_threads (v : Nat) (x : Tenant) : (s.setTenant v x).threads = s.threads := rfl
@[simp] theorem State.setTenant_lodges (v : Nat) (x : Tenant) : (s.setTenant v x).lodges = s.lodges := rfl
@[simp] theorem State.setTenant_plots (v : Nat) (x : Tenant) : (s.setTenant v x).plots = s.plots := rfl
@[simp] theorem State.setTenant_planes (v : Nat) (x : Tenant) : (s.setTenant v x).planes = s.planes := rfl
@[simp] theorem State.setTenant_cells (v : Nat) (x : Tenant) : (s.setTenant v x).cells = s.cells := rfl
@[simp] theorem State.setTenant_ports (v : Nat) (x : Tenant) : (s.setTenant v x).ports = s.ports := rfl
@[simp] theorem State.setTenant_lats (v : Nat) (x : Tenant) : (s.setTenant v x).lats = s.lats := rfl
@[simp] theorem State.setTenant_latOwner (v : Nat) (x : Tenant) : (s.setTenant v x).latOwner = s.latOwner := rfl
@[simp] theorem State.setTenant_accs (v : Nat) (x : Tenant) : (s.setTenant v x).accs = s.accs := rfl
@[simp] theorem State.setTenant_tiles (v : Nat) (x : Tenant) : (s.setTenant v x).tiles = s.tiles := rfl
@[simp] theorem State.setTenant_rings (v : Nat) (x : Tenant) : (s.setTenant v x).rings = s.rings := rfl
@[simp] theorem State.setTenant_gates (v : Nat) (x : Tenant) : (s.setTenant v x).gates = s.gates := rfl
@[simp] theorem State.setTenant_chans (v : Nat) (x : Tenant) : (s.setTenant v x).chans = s.chans := rfl
@[simp] theorem State.setTenant_mboxes (v : Nat) (x : Tenant) : (s.setTenant v x).mboxes = s.mboxes := rfl
@[simp] theorem State.setTenant_sets (v : Nat) (x : Tenant) : (s.setTenant v x).sets = s.sets := rfl
@[simp] theorem State.setTenant_pend (v : Nat) (x : Tenant) : (s.setTenant v x).pend = s.pend := rfl
@[simp] theorem State.setTenant_seen (v : Nat) (x : Tenant) : (s.setTenant v x).seen = s.seen := rfl
@[simp] theorem State.setTenant_knows (v : Nat) (x : Tenant) : (s.setTenant v x).knows = s.knows := rfl
@[simp] theorem State.setTenant_remotes (v : Nat) (x : Tenant) : (s.setTenant v x).remotes = s.remotes := rfl
@[simp] theorem State.setTenant_nextId (v : Nat) (x : Tenant) : (s.setTenant v x).nextId = s.nextId := rfl
@[simp] theorem State.setTenant_xlats (v : Nat) (x : Tenant) : (s.setTenant v x).xlats = s.xlats := rfl
@[simp] theorem State.setTenant_tabs (v : Nat) (x : Tenant) : (s.setTenant v x).tabs = s.tabs := rfl
@[simp] theorem State.setTenant_invals (v : Nat) (x : Tenant) : (s.setTenant v x).invals = s.invals := rfl
@[simp] theorem State.setTenant_prqs (v : Nat) (x : Tenant) : (s.setTenant v x).prqs = s.prqs := rfl
@[simp] theorem State.setTenant_prqWait (v : Nat) (x : Tenant) : (s.setTenant v x).prqWait = s.prqWait := rfl
@[simp] theorem State.setTenant_fatals (v : Nat) (x : Tenant) : (s.setTenant v x).fatals = s.fatals := rfl
@[simp] theorem State.setTenant_regions (v : Nat) (x : Tenant) : (s.setTenant v x).regions = s.regions := rfl
@[simp] theorem State.setTenant_slots (v : Nat) (x : Tenant) : (s.setTenant v x).slots = s.slots := rfl
@[simp] theorem State.setTenant_queues (v : Nat) (x : Tenant) : (s.setTenant v x).queues = s.queues := rfl
@[simp] theorem State.setTenant_crings (v : Nat) (x : Tenant) : (s.setTenant v x).crings = s.crings := rfl
@[simp] theorem State.setTenant_held (v : Nat) (x : Tenant) : (s.setTenant v x).held = s.held := rfl
@[simp] theorem State.setTenant_kicks (v : Nat) (x : Tenant) : (s.setTenant v x).kicks = s.kicks := rfl
@[simp] theorem State.setTenant_wdogs (v : Nat) (x : Tenant) : (s.setTenant v x).wdogs = s.wdogs := rfl
@[simp] theorem State.setTenant_jnext (v : Nat) (x : Tenant) : (s.setTenant v x).jnext = s.jnext := rfl
@[simp] theorem State.setTenant_takevec (v : Nat) (x : Tenant) : (s.setTenant v x).takevec = s.takevec := rfl
@[simp] theorem State.setTenant_lfault (v : Nat) (x : Tenant) : (s.setTenant v x).lfault = s.lfault := rfl
@[simp] theorem State.setTenant_fatal (v : Nat) (x : Tenant) : (s.setTenant v x).fatal = s.fatal := rfl
@[simp] theorem State.setTenant_frames (v : Nat) (x : Tenant) : (s.setTenant v x).frames = s.frames := rfl
@[simp] theorem State.setTenant_frame (v : Nat) (x : Tenant) : (s.setTenant v x).frame = s.frame := rfl
@[simp] theorem State.setTenant_cuts (v : Nat) (x : Tenant) : (s.setTenant v x).cuts = s.cuts := rfl
@[simp] theorem State.setTenant_scrubs (v : Nat) (x : Tenant) : (s.setTenant v x).scrubs = s.scrubs := rfl
@[simp] theorem State.setTenant_scrubSeq (v : Nat) (x : Tenant) : (s.setTenant v x).scrubSeq = s.scrubSeq := rfl
@[simp] theorem State.setTenant_scrubLast (v : Nat) (x : Tenant) : (s.setTenant v x).scrubLast = s.scrubLast := rfl
@[simp] theorem State.setTenant_tokenBars (v : Nat) (x : Tenant) : (s.setTenant v x).tokenBars = s.tokenBars := rfl
@[simp] theorem State.setTenant_ways (v : Nat) (x : Tenant) : (s.setTenant v x).ways = s.ways := rfl
@[simp] theorem State.setTenant_waySpares (v : Nat) (x : Tenant) : (s.setTenant v x).waySpares = s.waySpares := rfl
@[simp] theorem State.setTenant_waysLost (v : Nat) (x : Tenant) : (s.setTenant v x).waysLost = s.waysLost := rfl
@[simp] theorem State.setTenant_spares (v : Nat) (x : Tenant) : (s.setTenant v x).spares = s.spares := rfl
@[simp] theorem State.setTenant_colSpares (v : Nat) (x : Tenant) : (s.setTenant v x).colSpares = s.colSpares := rfl
@[simp] theorem State.setTenant_rowRepairs (v : Nat) (x : Tenant) : (s.setTenant v x).rowRepairs = s.rowRepairs := rfl
@[simp] theorem State.setTenant_repairs (v : Nat) (x : Tenant) : (s.setTenant v x).repairs = s.repairs := rfl
@[simp] theorem State.setTenant_wear (v : Nat) (x : Tenant) : (s.setTenant v x).wear = s.wear := rfl
@[simp] theorem State.setTenant_lanes (v : Nat) (x : Tenant) : (s.setTenant v x).lanes = s.lanes := rfl
@[simp] theorem State.setTenant_admin (v : Nat) (x : Tenant) : (s.setTenant v x).admin = s.admin := rfl
@[simp] theorem State.setTenant_vfbox (v : Nat) (x : Tenant) : (s.setTenant v x).vfbox = s.vfbox := rfl
@[simp] theorem State.setTenant_pftoken (v : Nat) (x : Tenant) : (s.setTenant v x).pftoken = s.pftoken := rfl
@[simp] theorem State.setTenant_perms (v : Nat) (x : Tenant) : (s.setTenant v x).perms = s.perms := rfl
@[simp] theorem State.setTenant_tierEnc (v : Nat) (x : Tenant) : (s.setTenant v x).tierEnc = s.tierEnc := rfl
@[simp] theorem State.setTenant_shared (v : Nat) (x : Tenant) : (s.setTenant v x).shared = s.shared := rfl
@[simp] theorem State.setTenant_hostHeld (v : Nat) (x : Tenant) : (s.setTenant v x).hostHeld = s.hostHeld := rfl
@[simp] theorem State.setTenant_pwrcap (v : Nat) (x : Tenant) : (s.setTenant v x).pwrcap = s.pwrcap := rfl
@[simp] theorem State.setTenant_locid (v : Nat) (x : Tenant) : (s.setTenant v x).locid = s.locid := rfl
@[simp] theorem State.setTenant_staged (v : Nat) (x : Tenant) : (s.setTenant v x).staged = s.staged := rfl
@[simp] theorem State.setTenant_running (v : Nat) (x : Tenant) : (s.setTenant v x).running = s.running := rfl
@[simp] theorem State.setTenant_vec0 (v : Nat) (x : Tenant) : (s.setTenant v x).vec0 = s.vec0 := rfl
@[simp] theorem State.setTenant_mctp (v : Nat) (x : Tenant) : (s.setTenant v x).mctp = s.mctp := rfl
@[simp] theorem State.setTenant_flits (v : Nat) (x : Tenant) : (s.setTenant v x).flits = s.flits := rfl

/-! `setSlot` -/

@[simp] theorem State.setSlot_cur (i : Nat) (x : Slot) : (s.setSlot i x).cur = s.cur := rfl
@[simp] theorem State.setSlot_agenda (i : Nat) (x : Slot) : (s.setSlot i x).agenda = s.agenda := rfl
@[simp] theorem State.setSlot_cycle (i : Nat) (x : Slot) : (s.setSlot i x).cycle = s.cycle := rfl
@[simp] theorem State.setSlot_free (i : Nat) (x : Slot) : (s.setSlot i x).free = s.free := rfl
@[simp] theorem State.setSlot_mem (i : Nat) (x : Slot) : (s.setSlot i x).mem = s.mem := rfl
@[simp] theorem State.setSlot_badMem (i : Nat) (x : Slot) : (s.setSlot i x).badMem = s.badMem := rfl
@[simp] theorem State.setSlot_sram (i : Nat) (x : Slot) : (s.setSlot i x).sram = s.sram := rfl
@[simp] theorem State.setSlot_sramBad (i : Nat) (x : Slot) : (s.setSlot i x).sramBad = s.sramBad := rfl
@[simp] theorem State.setSlot_imem (i : Nat) (x : Slot) : (s.setSlot i x).imem = s.imem := rfl
@[simp] theorem State.setSlot_threads (i : Nat) (x : Slot) : (s.setSlot i x).threads = s.threads := rfl
@[simp] theorem State.setSlot_lodges (i : Nat) (x : Slot) : (s.setSlot i x).lodges = s.lodges := rfl
@[simp] theorem State.setSlot_plots (i : Nat) (x : Slot) : (s.setSlot i x).plots = s.plots := rfl
@[simp] theorem State.setSlot_planes (i : Nat) (x : Slot) : (s.setSlot i x).planes = s.planes := rfl
@[simp] theorem State.setSlot_cells (i : Nat) (x : Slot) : (s.setSlot i x).cells = s.cells := rfl
@[simp] theorem State.setSlot_ports (i : Nat) (x : Slot) : (s.setSlot i x).ports = s.ports := rfl
@[simp] theorem State.setSlot_lats (i : Nat) (x : Slot) : (s.setSlot i x).lats = s.lats := rfl
@[simp] theorem State.setSlot_latOwner (i : Nat) (x : Slot) : (s.setSlot i x).latOwner = s.latOwner := rfl
@[simp] theorem State.setSlot_accs (i : Nat) (x : Slot) : (s.setSlot i x).accs = s.accs := rfl
@[simp] theorem State.setSlot_tiles (i : Nat) (x : Slot) : (s.setSlot i x).tiles = s.tiles := rfl
@[simp] theorem State.setSlot_rings (i : Nat) (x : Slot) : (s.setSlot i x).rings = s.rings := rfl
@[simp] theorem State.setSlot_gates (i : Nat) (x : Slot) : (s.setSlot i x).gates = s.gates := rfl
@[simp] theorem State.setSlot_chans (i : Nat) (x : Slot) : (s.setSlot i x).chans = s.chans := rfl
@[simp] theorem State.setSlot_mboxes (i : Nat) (x : Slot) : (s.setSlot i x).mboxes = s.mboxes := rfl
@[simp] theorem State.setSlot_sets (i : Nat) (x : Slot) : (s.setSlot i x).sets = s.sets := rfl
@[simp] theorem State.setSlot_tenants (i : Nat) (x : Slot) : (s.setSlot i x).tenants = s.tenants := rfl
@[simp] theorem State.setSlot_pend (i : Nat) (x : Slot) : (s.setSlot i x).pend = s.pend := rfl
@[simp] theorem State.setSlot_seen (i : Nat) (x : Slot) : (s.setSlot i x).seen = s.seen := rfl
@[simp] theorem State.setSlot_knows (i : Nat) (x : Slot) : (s.setSlot i x).knows = s.knows := rfl
@[simp] theorem State.setSlot_remotes (i : Nat) (x : Slot) : (s.setSlot i x).remotes = s.remotes := rfl
@[simp] theorem State.setSlot_nextId (i : Nat) (x : Slot) : (s.setSlot i x).nextId = s.nextId := rfl
@[simp] theorem State.setSlot_xlats (i : Nat) (x : Slot) : (s.setSlot i x).xlats = s.xlats := rfl
@[simp] theorem State.setSlot_tabs (i : Nat) (x : Slot) : (s.setSlot i x).tabs = s.tabs := rfl
@[simp] theorem State.setSlot_invals (i : Nat) (x : Slot) : (s.setSlot i x).invals = s.invals := rfl
@[simp] theorem State.setSlot_prqs (i : Nat) (x : Slot) : (s.setSlot i x).prqs = s.prqs := rfl
@[simp] theorem State.setSlot_prqWait (i : Nat) (x : Slot) : (s.setSlot i x).prqWait = s.prqWait := rfl
@[simp] theorem State.setSlot_fatals (i : Nat) (x : Slot) : (s.setSlot i x).fatals = s.fatals := rfl
@[simp] theorem State.setSlot_regions (i : Nat) (x : Slot) : (s.setSlot i x).regions = s.regions := rfl
@[simp] theorem State.setSlot_queues (i : Nat) (x : Slot) : (s.setSlot i x).queues = s.queues := rfl
@[simp] theorem State.setSlot_crings (i : Nat) (x : Slot) : (s.setSlot i x).crings = s.crings := rfl
@[simp] theorem State.setSlot_held (i : Nat) (x : Slot) : (s.setSlot i x).held = s.held := rfl
@[simp] theorem State.setSlot_kicks (i : Nat) (x : Slot) : (s.setSlot i x).kicks = s.kicks := rfl
@[simp] theorem State.setSlot_wdogs (i : Nat) (x : Slot) : (s.setSlot i x).wdogs = s.wdogs := rfl
@[simp] theorem State.setSlot_jnext (i : Nat) (x : Slot) : (s.setSlot i x).jnext = s.jnext := rfl
@[simp] theorem State.setSlot_takevec (i : Nat) (x : Slot) : (s.setSlot i x).takevec = s.takevec := rfl
@[simp] theorem State.setSlot_lfault (i : Nat) (x : Slot) : (s.setSlot i x).lfault = s.lfault := rfl
@[simp] theorem State.setSlot_fatal (i : Nat) (x : Slot) : (s.setSlot i x).fatal = s.fatal := rfl
@[simp] theorem State.setSlot_frames (i : Nat) (x : Slot) : (s.setSlot i x).frames = s.frames := rfl
@[simp] theorem State.setSlot_frame (i : Nat) (x : Slot) : (s.setSlot i x).frame = s.frame := rfl
@[simp] theorem State.setSlot_cuts (i : Nat) (x : Slot) : (s.setSlot i x).cuts = s.cuts := rfl
@[simp] theorem State.setSlot_scrubs (i : Nat) (x : Slot) : (s.setSlot i x).scrubs = s.scrubs := rfl
@[simp] theorem State.setSlot_scrubSeq (i : Nat) (x : Slot) : (s.setSlot i x).scrubSeq = s.scrubSeq := rfl
@[simp] theorem State.setSlot_scrubLast (i : Nat) (x : Slot) : (s.setSlot i x).scrubLast = s.scrubLast := rfl
@[simp] theorem State.setSlot_tokenBars (i : Nat) (x : Slot) : (s.setSlot i x).tokenBars = s.tokenBars := rfl
@[simp] theorem State.setSlot_ways (i : Nat) (x : Slot) : (s.setSlot i x).ways = s.ways := rfl
@[simp] theorem State.setSlot_waySpares (i : Nat) (x : Slot) : (s.setSlot i x).waySpares = s.waySpares := rfl
@[simp] theorem State.setSlot_waysLost (i : Nat) (x : Slot) : (s.setSlot i x).waysLost = s.waysLost := rfl
@[simp] theorem State.setSlot_spares (i : Nat) (x : Slot) : (s.setSlot i x).spares = s.spares := rfl
@[simp] theorem State.setSlot_colSpares (i : Nat) (x : Slot) : (s.setSlot i x).colSpares = s.colSpares := rfl
@[simp] theorem State.setSlot_rowRepairs (i : Nat) (x : Slot) : (s.setSlot i x).rowRepairs = s.rowRepairs := rfl
@[simp] theorem State.setSlot_repairs (i : Nat) (x : Slot) : (s.setSlot i x).repairs = s.repairs := rfl
@[simp] theorem State.setSlot_wear (i : Nat) (x : Slot) : (s.setSlot i x).wear = s.wear := rfl
@[simp] theorem State.setSlot_lanes (i : Nat) (x : Slot) : (s.setSlot i x).lanes = s.lanes := rfl
@[simp] theorem State.setSlot_admin (i : Nat) (x : Slot) : (s.setSlot i x).admin = s.admin := rfl
@[simp] theorem State.setSlot_vfbox (i : Nat) (x : Slot) : (s.setSlot i x).vfbox = s.vfbox := rfl
@[simp] theorem State.setSlot_pftoken (i : Nat) (x : Slot) : (s.setSlot i x).pftoken = s.pftoken := rfl
@[simp] theorem State.setSlot_perms (i : Nat) (x : Slot) : (s.setSlot i x).perms = s.perms := rfl
@[simp] theorem State.setSlot_tierEnc (i : Nat) (x : Slot) : (s.setSlot i x).tierEnc = s.tierEnc := rfl
@[simp] theorem State.setSlot_shared (i : Nat) (x : Slot) : (s.setSlot i x).shared = s.shared := rfl
@[simp] theorem State.setSlot_hostHeld (i : Nat) (x : Slot) : (s.setSlot i x).hostHeld = s.hostHeld := rfl
@[simp] theorem State.setSlot_pwrcap (i : Nat) (x : Slot) : (s.setSlot i x).pwrcap = s.pwrcap := rfl
@[simp] theorem State.setSlot_locid (i : Nat) (x : Slot) : (s.setSlot i x).locid = s.locid := rfl
@[simp] theorem State.setSlot_staged (i : Nat) (x : Slot) : (s.setSlot i x).staged = s.staged := rfl
@[simp] theorem State.setSlot_running (i : Nat) (x : Slot) : (s.setSlot i x).running = s.running := rfl
@[simp] theorem State.setSlot_vec0 (i : Nat) (x : Slot) : (s.setSlot i x).vec0 = s.vec0 := rfl
@[simp] theorem State.setSlot_mctp (i : Nat) (x : Slot) : (s.setSlot i x).mctp = s.mctp := rfl
@[simp] theorem State.setSlot_flits (i : Nat) (x : Slot) : (s.setSlot i x).flits = s.flits := rfl

/-! `setQueue` -/

@[simp] theorem State.setQueue_cur (q : Nat) (x : HQueue) : (s.setQueue q x).cur = s.cur := rfl
@[simp] theorem State.setQueue_agenda (q : Nat) (x : HQueue) : (s.setQueue q x).agenda = s.agenda := rfl
@[simp] theorem State.setQueue_cycle (q : Nat) (x : HQueue) : (s.setQueue q x).cycle = s.cycle := rfl
@[simp] theorem State.setQueue_free (q : Nat) (x : HQueue) : (s.setQueue q x).free = s.free := rfl
@[simp] theorem State.setQueue_mem (q : Nat) (x : HQueue) : (s.setQueue q x).mem = s.mem := rfl
@[simp] theorem State.setQueue_badMem (q : Nat) (x : HQueue) : (s.setQueue q x).badMem = s.badMem := rfl
@[simp] theorem State.setQueue_sram (q : Nat) (x : HQueue) : (s.setQueue q x).sram = s.sram := rfl
@[simp] theorem State.setQueue_sramBad (q : Nat) (x : HQueue) : (s.setQueue q x).sramBad = s.sramBad := rfl
@[simp] theorem State.setQueue_imem (q : Nat) (x : HQueue) : (s.setQueue q x).imem = s.imem := rfl
@[simp] theorem State.setQueue_threads (q : Nat) (x : HQueue) : (s.setQueue q x).threads = s.threads := rfl
@[simp] theorem State.setQueue_lodges (q : Nat) (x : HQueue) : (s.setQueue q x).lodges = s.lodges := rfl
@[simp] theorem State.setQueue_plots (q : Nat) (x : HQueue) : (s.setQueue q x).plots = s.plots := rfl
@[simp] theorem State.setQueue_planes (q : Nat) (x : HQueue) : (s.setQueue q x).planes = s.planes := rfl
@[simp] theorem State.setQueue_cells (q : Nat) (x : HQueue) : (s.setQueue q x).cells = s.cells := rfl
@[simp] theorem State.setQueue_ports (q : Nat) (x : HQueue) : (s.setQueue q x).ports = s.ports := rfl
@[simp] theorem State.setQueue_lats (q : Nat) (x : HQueue) : (s.setQueue q x).lats = s.lats := rfl
@[simp] theorem State.setQueue_latOwner (q : Nat) (x : HQueue) : (s.setQueue q x).latOwner = s.latOwner := rfl
@[simp] theorem State.setQueue_accs (q : Nat) (x : HQueue) : (s.setQueue q x).accs = s.accs := rfl
@[simp] theorem State.setQueue_tiles (q : Nat) (x : HQueue) : (s.setQueue q x).tiles = s.tiles := rfl
@[simp] theorem State.setQueue_rings (q : Nat) (x : HQueue) : (s.setQueue q x).rings = s.rings := rfl
@[simp] theorem State.setQueue_gates (q : Nat) (x : HQueue) : (s.setQueue q x).gates = s.gates := rfl
@[simp] theorem State.setQueue_chans (q : Nat) (x : HQueue) : (s.setQueue q x).chans = s.chans := rfl
@[simp] theorem State.setQueue_mboxes (q : Nat) (x : HQueue) : (s.setQueue q x).mboxes = s.mboxes := rfl
@[simp] theorem State.setQueue_sets (q : Nat) (x : HQueue) : (s.setQueue q x).sets = s.sets := rfl
@[simp] theorem State.setQueue_tenants (q : Nat) (x : HQueue) : (s.setQueue q x).tenants = s.tenants := rfl
@[simp] theorem State.setQueue_pend (q : Nat) (x : HQueue) : (s.setQueue q x).pend = s.pend := rfl
@[simp] theorem State.setQueue_seen (q : Nat) (x : HQueue) : (s.setQueue q x).seen = s.seen := rfl
@[simp] theorem State.setQueue_knows (q : Nat) (x : HQueue) : (s.setQueue q x).knows = s.knows := rfl
@[simp] theorem State.setQueue_remotes (q : Nat) (x : HQueue) : (s.setQueue q x).remotes = s.remotes := rfl
@[simp] theorem State.setQueue_nextId (q : Nat) (x : HQueue) : (s.setQueue q x).nextId = s.nextId := rfl
@[simp] theorem State.setQueue_xlats (q : Nat) (x : HQueue) : (s.setQueue q x).xlats = s.xlats := rfl
@[simp] theorem State.setQueue_tabs (q : Nat) (x : HQueue) : (s.setQueue q x).tabs = s.tabs := rfl
@[simp] theorem State.setQueue_invals (q : Nat) (x : HQueue) : (s.setQueue q x).invals = s.invals := rfl
@[simp] theorem State.setQueue_prqs (q : Nat) (x : HQueue) : (s.setQueue q x).prqs = s.prqs := rfl
@[simp] theorem State.setQueue_prqWait (q : Nat) (x : HQueue) : (s.setQueue q x).prqWait = s.prqWait := rfl
@[simp] theorem State.setQueue_fatals (q : Nat) (x : HQueue) : (s.setQueue q x).fatals = s.fatals := rfl
@[simp] theorem State.setQueue_regions (q : Nat) (x : HQueue) : (s.setQueue q x).regions = s.regions := rfl
@[simp] theorem State.setQueue_slots (q : Nat) (x : HQueue) : (s.setQueue q x).slots = s.slots := rfl
@[simp] theorem State.setQueue_crings (q : Nat) (x : HQueue) : (s.setQueue q x).crings = s.crings := rfl
@[simp] theorem State.setQueue_held (q : Nat) (x : HQueue) : (s.setQueue q x).held = s.held := rfl
@[simp] theorem State.setQueue_kicks (q : Nat) (x : HQueue) : (s.setQueue q x).kicks = s.kicks := rfl
@[simp] theorem State.setQueue_wdogs (q : Nat) (x : HQueue) : (s.setQueue q x).wdogs = s.wdogs := rfl
@[simp] theorem State.setQueue_jnext (q : Nat) (x : HQueue) : (s.setQueue q x).jnext = s.jnext := rfl
@[simp] theorem State.setQueue_takevec (q : Nat) (x : HQueue) : (s.setQueue q x).takevec = s.takevec := rfl
@[simp] theorem State.setQueue_lfault (q : Nat) (x : HQueue) : (s.setQueue q x).lfault = s.lfault := rfl
@[simp] theorem State.setQueue_fatal (q : Nat) (x : HQueue) : (s.setQueue q x).fatal = s.fatal := rfl
@[simp] theorem State.setQueue_frames (q : Nat) (x : HQueue) : (s.setQueue q x).frames = s.frames := rfl
@[simp] theorem State.setQueue_frame (q : Nat) (x : HQueue) : (s.setQueue q x).frame = s.frame := rfl
@[simp] theorem State.setQueue_cuts (q : Nat) (x : HQueue) : (s.setQueue q x).cuts = s.cuts := rfl
@[simp] theorem State.setQueue_scrubs (q : Nat) (x : HQueue) : (s.setQueue q x).scrubs = s.scrubs := rfl
@[simp] theorem State.setQueue_scrubSeq (q : Nat) (x : HQueue) : (s.setQueue q x).scrubSeq = s.scrubSeq := rfl
@[simp] theorem State.setQueue_scrubLast (q : Nat) (x : HQueue) : (s.setQueue q x).scrubLast = s.scrubLast := rfl
@[simp] theorem State.setQueue_tokenBars (q : Nat) (x : HQueue) : (s.setQueue q x).tokenBars = s.tokenBars := rfl
@[simp] theorem State.setQueue_ways (q : Nat) (x : HQueue) : (s.setQueue q x).ways = s.ways := rfl
@[simp] theorem State.setQueue_waySpares (q : Nat) (x : HQueue) : (s.setQueue q x).waySpares = s.waySpares := rfl
@[simp] theorem State.setQueue_waysLost (q : Nat) (x : HQueue) : (s.setQueue q x).waysLost = s.waysLost := rfl
@[simp] theorem State.setQueue_spares (q : Nat) (x : HQueue) : (s.setQueue q x).spares = s.spares := rfl
@[simp] theorem State.setQueue_colSpares (q : Nat) (x : HQueue) : (s.setQueue q x).colSpares = s.colSpares := rfl
@[simp] theorem State.setQueue_rowRepairs (q : Nat) (x : HQueue) : (s.setQueue q x).rowRepairs = s.rowRepairs := rfl
@[simp] theorem State.setQueue_repairs (q : Nat) (x : HQueue) : (s.setQueue q x).repairs = s.repairs := rfl
@[simp] theorem State.setQueue_wear (q : Nat) (x : HQueue) : (s.setQueue q x).wear = s.wear := rfl
@[simp] theorem State.setQueue_lanes (q : Nat) (x : HQueue) : (s.setQueue q x).lanes = s.lanes := rfl
@[simp] theorem State.setQueue_admin (q : Nat) (x : HQueue) : (s.setQueue q x).admin = s.admin := rfl
@[simp] theorem State.setQueue_vfbox (q : Nat) (x : HQueue) : (s.setQueue q x).vfbox = s.vfbox := rfl
@[simp] theorem State.setQueue_pftoken (q : Nat) (x : HQueue) : (s.setQueue q x).pftoken = s.pftoken := rfl
@[simp] theorem State.setQueue_perms (q : Nat) (x : HQueue) : (s.setQueue q x).perms = s.perms := rfl
@[simp] theorem State.setQueue_tierEnc (q : Nat) (x : HQueue) : (s.setQueue q x).tierEnc = s.tierEnc := rfl
@[simp] theorem State.setQueue_shared (q : Nat) (x : HQueue) : (s.setQueue q x).shared = s.shared := rfl
@[simp] theorem State.setQueue_hostHeld (q : Nat) (x : HQueue) : (s.setQueue q x).hostHeld = s.hostHeld := rfl
@[simp] theorem State.setQueue_pwrcap (q : Nat) (x : HQueue) : (s.setQueue q x).pwrcap = s.pwrcap := rfl
@[simp] theorem State.setQueue_locid (q : Nat) (x : HQueue) : (s.setQueue q x).locid = s.locid := rfl
@[simp] theorem State.setQueue_staged (q : Nat) (x : HQueue) : (s.setQueue q x).staged = s.staged := rfl
@[simp] theorem State.setQueue_running (q : Nat) (x : HQueue) : (s.setQueue q x).running = s.running := rfl
@[simp] theorem State.setQueue_vec0 (q : Nat) (x : HQueue) : (s.setQueue q x).vec0 = s.vec0 := rfl
@[simp] theorem State.setQueue_mctp (q : Nat) (x : HQueue) : (s.setQueue q x).mctp = s.mctp := rfl
@[simp] theorem State.setQueue_flits (q : Nat) (x : HQueue) : (s.setQueue q x).flits = s.flits := rfl

/-! `setCring` -/

@[simp] theorem State.setCring_cur (v n : Nat) (x : CRing) : (s.setCring v n x).cur = s.cur := rfl
@[simp] theorem State.setCring_agenda (v n : Nat) (x : CRing) : (s.setCring v n x).agenda = s.agenda := rfl
@[simp] theorem State.setCring_cycle (v n : Nat) (x : CRing) : (s.setCring v n x).cycle = s.cycle := rfl
@[simp] theorem State.setCring_free (v n : Nat) (x : CRing) : (s.setCring v n x).free = s.free := rfl
@[simp] theorem State.setCring_mem (v n : Nat) (x : CRing) : (s.setCring v n x).mem = s.mem := rfl
@[simp] theorem State.setCring_badMem (v n : Nat) (x : CRing) : (s.setCring v n x).badMem = s.badMem := rfl
@[simp] theorem State.setCring_sram (v n : Nat) (x : CRing) : (s.setCring v n x).sram = s.sram := rfl
@[simp] theorem State.setCring_sramBad (v n : Nat) (x : CRing) : (s.setCring v n x).sramBad = s.sramBad := rfl
@[simp] theorem State.setCring_imem (v n : Nat) (x : CRing) : (s.setCring v n x).imem = s.imem := rfl
@[simp] theorem State.setCring_threads (v n : Nat) (x : CRing) : (s.setCring v n x).threads = s.threads := rfl
@[simp] theorem State.setCring_lodges (v n : Nat) (x : CRing) : (s.setCring v n x).lodges = s.lodges := rfl
@[simp] theorem State.setCring_plots (v n : Nat) (x : CRing) : (s.setCring v n x).plots = s.plots := rfl
@[simp] theorem State.setCring_planes (v n : Nat) (x : CRing) : (s.setCring v n x).planes = s.planes := rfl
@[simp] theorem State.setCring_cells (v n : Nat) (x : CRing) : (s.setCring v n x).cells = s.cells := rfl
@[simp] theorem State.setCring_ports (v n : Nat) (x : CRing) : (s.setCring v n x).ports = s.ports := rfl
@[simp] theorem State.setCring_lats (v n : Nat) (x : CRing) : (s.setCring v n x).lats = s.lats := rfl
@[simp] theorem State.setCring_latOwner (v n : Nat) (x : CRing) : (s.setCring v n x).latOwner = s.latOwner := rfl
@[simp] theorem State.setCring_accs (v n : Nat) (x : CRing) : (s.setCring v n x).accs = s.accs := rfl
@[simp] theorem State.setCring_tiles (v n : Nat) (x : CRing) : (s.setCring v n x).tiles = s.tiles := rfl
@[simp] theorem State.setCring_rings (v n : Nat) (x : CRing) : (s.setCring v n x).rings = s.rings := rfl
@[simp] theorem State.setCring_gates (v n : Nat) (x : CRing) : (s.setCring v n x).gates = s.gates := rfl
@[simp] theorem State.setCring_chans (v n : Nat) (x : CRing) : (s.setCring v n x).chans = s.chans := rfl
@[simp] theorem State.setCring_mboxes (v n : Nat) (x : CRing) : (s.setCring v n x).mboxes = s.mboxes := rfl
@[simp] theorem State.setCring_sets (v n : Nat) (x : CRing) : (s.setCring v n x).sets = s.sets := rfl
@[simp] theorem State.setCring_tenants (v n : Nat) (x : CRing) : (s.setCring v n x).tenants = s.tenants := rfl
@[simp] theorem State.setCring_pend (v n : Nat) (x : CRing) : (s.setCring v n x).pend = s.pend := rfl
@[simp] theorem State.setCring_seen (v n : Nat) (x : CRing) : (s.setCring v n x).seen = s.seen := rfl
@[simp] theorem State.setCring_knows (v n : Nat) (x : CRing) : (s.setCring v n x).knows = s.knows := rfl
@[simp] theorem State.setCring_remotes (v n : Nat) (x : CRing) : (s.setCring v n x).remotes = s.remotes := rfl
@[simp] theorem State.setCring_nextId (v n : Nat) (x : CRing) : (s.setCring v n x).nextId = s.nextId := rfl
@[simp] theorem State.setCring_xlats (v n : Nat) (x : CRing) : (s.setCring v n x).xlats = s.xlats := rfl
@[simp] theorem State.setCring_tabs (v n : Nat) (x : CRing) : (s.setCring v n x).tabs = s.tabs := rfl
@[simp] theorem State.setCring_invals (v n : Nat) (x : CRing) : (s.setCring v n x).invals = s.invals := rfl
@[simp] theorem State.setCring_prqs (v n : Nat) (x : CRing) : (s.setCring v n x).prqs = s.prqs := rfl
@[simp] theorem State.setCring_prqWait (v n : Nat) (x : CRing) : (s.setCring v n x).prqWait = s.prqWait := rfl
@[simp] theorem State.setCring_fatals (v n : Nat) (x : CRing) : (s.setCring v n x).fatals = s.fatals := rfl
@[simp] theorem State.setCring_regions (v n : Nat) (x : CRing) : (s.setCring v n x).regions = s.regions := rfl
@[simp] theorem State.setCring_slots (v n : Nat) (x : CRing) : (s.setCring v n x).slots = s.slots := rfl
@[simp] theorem State.setCring_queues (v n : Nat) (x : CRing) : (s.setCring v n x).queues = s.queues := rfl
@[simp] theorem State.setCring_held (v n : Nat) (x : CRing) : (s.setCring v n x).held = s.held := rfl
@[simp] theorem State.setCring_kicks (v n : Nat) (x : CRing) : (s.setCring v n x).kicks = s.kicks := rfl
@[simp] theorem State.setCring_wdogs (v n : Nat) (x : CRing) : (s.setCring v n x).wdogs = s.wdogs := rfl
@[simp] theorem State.setCring_jnext (v n : Nat) (x : CRing) : (s.setCring v n x).jnext = s.jnext := rfl
@[simp] theorem State.setCring_takevec (v n : Nat) (x : CRing) : (s.setCring v n x).takevec = s.takevec := rfl
@[simp] theorem State.setCring_lfault (v n : Nat) (x : CRing) : (s.setCring v n x).lfault = s.lfault := rfl
@[simp] theorem State.setCring_fatal (v n : Nat) (x : CRing) : (s.setCring v n x).fatal = s.fatal := rfl
@[simp] theorem State.setCring_frames (v n : Nat) (x : CRing) : (s.setCring v n x).frames = s.frames := rfl
@[simp] theorem State.setCring_frame (v n : Nat) (x : CRing) : (s.setCring v n x).frame = s.frame := rfl
@[simp] theorem State.setCring_cuts (v n : Nat) (x : CRing) : (s.setCring v n x).cuts = s.cuts := rfl
@[simp] theorem State.setCring_scrubs (v n : Nat) (x : CRing) : (s.setCring v n x).scrubs = s.scrubs := rfl
@[simp] theorem State.setCring_scrubSeq (v n : Nat) (x : CRing) : (s.setCring v n x).scrubSeq = s.scrubSeq := rfl
@[simp] theorem State.setCring_scrubLast (v n : Nat) (x : CRing) : (s.setCring v n x).scrubLast = s.scrubLast := rfl
@[simp] theorem State.setCring_tokenBars (v n : Nat) (x : CRing) : (s.setCring v n x).tokenBars = s.tokenBars := rfl
@[simp] theorem State.setCring_ways (v n : Nat) (x : CRing) : (s.setCring v n x).ways = s.ways := rfl
@[simp] theorem State.setCring_waySpares (v n : Nat) (x : CRing) : (s.setCring v n x).waySpares = s.waySpares := rfl
@[simp] theorem State.setCring_waysLost (v n : Nat) (x : CRing) : (s.setCring v n x).waysLost = s.waysLost := rfl
@[simp] theorem State.setCring_spares (v n : Nat) (x : CRing) : (s.setCring v n x).spares = s.spares := rfl
@[simp] theorem State.setCring_colSpares (v n : Nat) (x : CRing) : (s.setCring v n x).colSpares = s.colSpares := rfl
@[simp] theorem State.setCring_rowRepairs (v n : Nat) (x : CRing) : (s.setCring v n x).rowRepairs = s.rowRepairs := rfl
@[simp] theorem State.setCring_repairs (v n : Nat) (x : CRing) : (s.setCring v n x).repairs = s.repairs := rfl
@[simp] theorem State.setCring_wear (v n : Nat) (x : CRing) : (s.setCring v n x).wear = s.wear := rfl
@[simp] theorem State.setCring_lanes (v n : Nat) (x : CRing) : (s.setCring v n x).lanes = s.lanes := rfl
@[simp] theorem State.setCring_admin (v n : Nat) (x : CRing) : (s.setCring v n x).admin = s.admin := rfl
@[simp] theorem State.setCring_vfbox (v n : Nat) (x : CRing) : (s.setCring v n x).vfbox = s.vfbox := rfl
@[simp] theorem State.setCring_pftoken (v n : Nat) (x : CRing) : (s.setCring v n x).pftoken = s.pftoken := rfl
@[simp] theorem State.setCring_perms (v n : Nat) (x : CRing) : (s.setCring v n x).perms = s.perms := rfl
@[simp] theorem State.setCring_tierEnc (v n : Nat) (x : CRing) : (s.setCring v n x).tierEnc = s.tierEnc := rfl
@[simp] theorem State.setCring_shared (v n : Nat) (x : CRing) : (s.setCring v n x).shared = s.shared := rfl
@[simp] theorem State.setCring_hostHeld (v n : Nat) (x : CRing) : (s.setCring v n x).hostHeld = s.hostHeld := rfl
@[simp] theorem State.setCring_pwrcap (v n : Nat) (x : CRing) : (s.setCring v n x).pwrcap = s.pwrcap := rfl
@[simp] theorem State.setCring_locid (v n : Nat) (x : CRing) : (s.setCring v n x).locid = s.locid := rfl
@[simp] theorem State.setCring_staged (v n : Nat) (x : CRing) : (s.setCring v n x).staged = s.staged := rfl
@[simp] theorem State.setCring_running (v n : Nat) (x : CRing) : (s.setCring v n x).running = s.running := rfl
@[simp] theorem State.setCring_vec0 (v n : Nat) (x : CRing) : (s.setCring v n x).vec0 = s.vec0 := rfl
@[simp] theorem State.setCring_mctp (v n : Nat) (x : CRing) : (s.setCring v n x).mctp = s.mctp := rfl
@[simp] theorem State.setCring_flits (v n : Nat) (x : CRing) : (s.setCring v n x).flits = s.flits := rfl

/-! `setCuts` -/

@[simp] theorem State.setCuts_cur (r : Nat) (x : Cuts) : (s.setCuts r x).cur = s.cur := rfl
@[simp] theorem State.setCuts_agenda (r : Nat) (x : Cuts) : (s.setCuts r x).agenda = s.agenda := rfl
@[simp] theorem State.setCuts_cycle (r : Nat) (x : Cuts) : (s.setCuts r x).cycle = s.cycle := rfl
@[simp] theorem State.setCuts_free (r : Nat) (x : Cuts) : (s.setCuts r x).free = s.free := rfl
@[simp] theorem State.setCuts_mem (r : Nat) (x : Cuts) : (s.setCuts r x).mem = s.mem := rfl
@[simp] theorem State.setCuts_badMem (r : Nat) (x : Cuts) : (s.setCuts r x).badMem = s.badMem := rfl
@[simp] theorem State.setCuts_sram (r : Nat) (x : Cuts) : (s.setCuts r x).sram = s.sram := rfl
@[simp] theorem State.setCuts_sramBad (r : Nat) (x : Cuts) : (s.setCuts r x).sramBad = s.sramBad := rfl
@[simp] theorem State.setCuts_imem (r : Nat) (x : Cuts) : (s.setCuts r x).imem = s.imem := rfl
@[simp] theorem State.setCuts_threads (r : Nat) (x : Cuts) : (s.setCuts r x).threads = s.threads := rfl
@[simp] theorem State.setCuts_lodges (r : Nat) (x : Cuts) : (s.setCuts r x).lodges = s.lodges := rfl
@[simp] theorem State.setCuts_plots (r : Nat) (x : Cuts) : (s.setCuts r x).plots = s.plots := rfl
@[simp] theorem State.setCuts_planes (r : Nat) (x : Cuts) : (s.setCuts r x).planes = s.planes := rfl
@[simp] theorem State.setCuts_cells (r : Nat) (x : Cuts) : (s.setCuts r x).cells = s.cells := rfl
@[simp] theorem State.setCuts_ports (r : Nat) (x : Cuts) : (s.setCuts r x).ports = s.ports := rfl
@[simp] theorem State.setCuts_lats (r : Nat) (x : Cuts) : (s.setCuts r x).lats = s.lats := rfl
@[simp] theorem State.setCuts_latOwner (r : Nat) (x : Cuts) : (s.setCuts r x).latOwner = s.latOwner := rfl
@[simp] theorem State.setCuts_accs (r : Nat) (x : Cuts) : (s.setCuts r x).accs = s.accs := rfl
@[simp] theorem State.setCuts_tiles (r : Nat) (x : Cuts) : (s.setCuts r x).tiles = s.tiles := rfl
@[simp] theorem State.setCuts_rings (r : Nat) (x : Cuts) : (s.setCuts r x).rings = s.rings := rfl
@[simp] theorem State.setCuts_gates (r : Nat) (x : Cuts) : (s.setCuts r x).gates = s.gates := rfl
@[simp] theorem State.setCuts_chans (r : Nat) (x : Cuts) : (s.setCuts r x).chans = s.chans := rfl
@[simp] theorem State.setCuts_mboxes (r : Nat) (x : Cuts) : (s.setCuts r x).mboxes = s.mboxes := rfl
@[simp] theorem State.setCuts_sets (r : Nat) (x : Cuts) : (s.setCuts r x).sets = s.sets := rfl
@[simp] theorem State.setCuts_tenants (r : Nat) (x : Cuts) : (s.setCuts r x).tenants = s.tenants := rfl
@[simp] theorem State.setCuts_pend (r : Nat) (x : Cuts) : (s.setCuts r x).pend = s.pend := rfl
@[simp] theorem State.setCuts_seen (r : Nat) (x : Cuts) : (s.setCuts r x).seen = s.seen := rfl
@[simp] theorem State.setCuts_knows (r : Nat) (x : Cuts) : (s.setCuts r x).knows = s.knows := rfl
@[simp] theorem State.setCuts_remotes (r : Nat) (x : Cuts) : (s.setCuts r x).remotes = s.remotes := rfl
@[simp] theorem State.setCuts_nextId (r : Nat) (x : Cuts) : (s.setCuts r x).nextId = s.nextId := rfl
@[simp] theorem State.setCuts_xlats (r : Nat) (x : Cuts) : (s.setCuts r x).xlats = s.xlats := rfl
@[simp] theorem State.setCuts_tabs (r : Nat) (x : Cuts) : (s.setCuts r x).tabs = s.tabs := rfl
@[simp] theorem State.setCuts_invals (r : Nat) (x : Cuts) : (s.setCuts r x).invals = s.invals := rfl
@[simp] theorem State.setCuts_prqs (r : Nat) (x : Cuts) : (s.setCuts r x).prqs = s.prqs := rfl
@[simp] theorem State.setCuts_prqWait (r : Nat) (x : Cuts) : (s.setCuts r x).prqWait = s.prqWait := rfl
@[simp] theorem State.setCuts_fatals (r : Nat) (x : Cuts) : (s.setCuts r x).fatals = s.fatals := rfl
@[simp] theorem State.setCuts_regions (r : Nat) (x : Cuts) : (s.setCuts r x).regions = s.regions := rfl
@[simp] theorem State.setCuts_slots (r : Nat) (x : Cuts) : (s.setCuts r x).slots = s.slots := rfl
@[simp] theorem State.setCuts_queues (r : Nat) (x : Cuts) : (s.setCuts r x).queues = s.queues := rfl
@[simp] theorem State.setCuts_crings (r : Nat) (x : Cuts) : (s.setCuts r x).crings = s.crings := rfl
@[simp] theorem State.setCuts_held (r : Nat) (x : Cuts) : (s.setCuts r x).held = s.held := rfl
@[simp] theorem State.setCuts_kicks (r : Nat) (x : Cuts) : (s.setCuts r x).kicks = s.kicks := rfl
@[simp] theorem State.setCuts_wdogs (r : Nat) (x : Cuts) : (s.setCuts r x).wdogs = s.wdogs := rfl
@[simp] theorem State.setCuts_jnext (r : Nat) (x : Cuts) : (s.setCuts r x).jnext = s.jnext := rfl
@[simp] theorem State.setCuts_takevec (r : Nat) (x : Cuts) : (s.setCuts r x).takevec = s.takevec := rfl
@[simp] theorem State.setCuts_lfault (r : Nat) (x : Cuts) : (s.setCuts r x).lfault = s.lfault := rfl
@[simp] theorem State.setCuts_fatal (r : Nat) (x : Cuts) : (s.setCuts r x).fatal = s.fatal := rfl
@[simp] theorem State.setCuts_frames (r : Nat) (x : Cuts) : (s.setCuts r x).frames = s.frames := rfl
@[simp] theorem State.setCuts_frame (r : Nat) (x : Cuts) : (s.setCuts r x).frame = s.frame := rfl
@[simp] theorem State.setCuts_scrubs (r : Nat) (x : Cuts) : (s.setCuts r x).scrubs = s.scrubs := rfl
@[simp] theorem State.setCuts_scrubSeq (r : Nat) (x : Cuts) : (s.setCuts r x).scrubSeq = s.scrubSeq := rfl
@[simp] theorem State.setCuts_scrubLast (r : Nat) (x : Cuts) : (s.setCuts r x).scrubLast = s.scrubLast := rfl
@[simp] theorem State.setCuts_tokenBars (r : Nat) (x : Cuts) : (s.setCuts r x).tokenBars = s.tokenBars := rfl
@[simp] theorem State.setCuts_ways (r : Nat) (x : Cuts) : (s.setCuts r x).ways = s.ways := rfl
@[simp] theorem State.setCuts_waySpares (r : Nat) (x : Cuts) : (s.setCuts r x).waySpares = s.waySpares := rfl
@[simp] theorem State.setCuts_waysLost (r : Nat) (x : Cuts) : (s.setCuts r x).waysLost = s.waysLost := rfl
@[simp] theorem State.setCuts_spares (r : Nat) (x : Cuts) : (s.setCuts r x).spares = s.spares := rfl
@[simp] theorem State.setCuts_colSpares (r : Nat) (x : Cuts) : (s.setCuts r x).colSpares = s.colSpares := rfl
@[simp] theorem State.setCuts_rowRepairs (r : Nat) (x : Cuts) : (s.setCuts r x).rowRepairs = s.rowRepairs := rfl
@[simp] theorem State.setCuts_repairs (r : Nat) (x : Cuts) : (s.setCuts r x).repairs = s.repairs := rfl
@[simp] theorem State.setCuts_wear (r : Nat) (x : Cuts) : (s.setCuts r x).wear = s.wear := rfl
@[simp] theorem State.setCuts_lanes (r : Nat) (x : Cuts) : (s.setCuts r x).lanes = s.lanes := rfl
@[simp] theorem State.setCuts_admin (r : Nat) (x : Cuts) : (s.setCuts r x).admin = s.admin := rfl
@[simp] theorem State.setCuts_vfbox (r : Nat) (x : Cuts) : (s.setCuts r x).vfbox = s.vfbox := rfl
@[simp] theorem State.setCuts_pftoken (r : Nat) (x : Cuts) : (s.setCuts r x).pftoken = s.pftoken := rfl
@[simp] theorem State.setCuts_perms (r : Nat) (x : Cuts) : (s.setCuts r x).perms = s.perms := rfl
@[simp] theorem State.setCuts_tierEnc (r : Nat) (x : Cuts) : (s.setCuts r x).tierEnc = s.tierEnc := rfl
@[simp] theorem State.setCuts_shared (r : Nat) (x : Cuts) : (s.setCuts r x).shared = s.shared := rfl
@[simp] theorem State.setCuts_hostHeld (r : Nat) (x : Cuts) : (s.setCuts r x).hostHeld = s.hostHeld := rfl
@[simp] theorem State.setCuts_pwrcap (r : Nat) (x : Cuts) : (s.setCuts r x).pwrcap = s.pwrcap := rfl
@[simp] theorem State.setCuts_locid (r : Nat) (x : Cuts) : (s.setCuts r x).locid = s.locid := rfl
@[simp] theorem State.setCuts_staged (r : Nat) (x : Cuts) : (s.setCuts r x).staged = s.staged := rfl
@[simp] theorem State.setCuts_running (r : Nat) (x : Cuts) : (s.setCuts r x).running = s.running := rfl
@[simp] theorem State.setCuts_vec0 (r : Nat) (x : Cuts) : (s.setCuts r x).vec0 = s.vec0 := rfl
@[simp] theorem State.setCuts_mctp (r : Nat) (x : Cuts) : (s.setCuts r x).mctp = s.mctp := rfl
@[simp] theorem State.setCuts_flits (r : Nat) (x : Cuts) : (s.setCuts r x).flits = s.flits := rfl

/-! `setCtxOf` and `setCtx` -/

@[simp] theorem State.setCtxOf_cur (a : Agent) (c : Ctx) : (s.setCtxOf a c).cur = s.cur := by cases a <;> rfl
@[simp] theorem State.setCtxOf_agenda (a : Agent) (c : Ctx) : (s.setCtxOf a c).agenda = s.agenda := by cases a <;> rfl
@[simp] theorem State.setCtxOf_cycle (a : Agent) (c : Ctx) : (s.setCtxOf a c).cycle = s.cycle := by cases a <;> rfl
@[simp] theorem State.setCtxOf_free (a : Agent) (c : Ctx) : (s.setCtxOf a c).free = s.free := by cases a <;> rfl
@[simp] theorem State.setCtxOf_mem (a : Agent) (c : Ctx) : (s.setCtxOf a c).mem = s.mem := by cases a <;> rfl
@[simp] theorem State.setCtxOf_badMem (a : Agent) (c : Ctx) : (s.setCtxOf a c).badMem = s.badMem := by cases a <;> rfl
@[simp] theorem State.setCtxOf_sram (a : Agent) (c : Ctx) : (s.setCtxOf a c).sram = s.sram := by cases a <;> rfl
@[simp] theorem State.setCtxOf_sramBad (a : Agent) (c : Ctx) : (s.setCtxOf a c).sramBad = s.sramBad := by cases a <;> rfl
@[simp] theorem State.setCtxOf_imem (a : Agent) (c : Ctx) : (s.setCtxOf a c).imem = s.imem := by cases a <;> rfl
@[simp] theorem State.setCtxOf_planes (a : Agent) (c : Ctx) : (s.setCtxOf a c).planes = s.planes := by cases a <;> rfl
@[simp] theorem State.setCtxOf_cells (a : Agent) (c : Ctx) : (s.setCtxOf a c).cells = s.cells := by cases a <;> rfl
@[simp] theorem State.setCtxOf_ports (a : Agent) (c : Ctx) : (s.setCtxOf a c).ports = s.ports := by cases a <;> rfl
@[simp] theorem State.setCtxOf_lats (a : Agent) (c : Ctx) : (s.setCtxOf a c).lats = s.lats := by cases a <;> rfl
@[simp] theorem State.setCtxOf_latOwner (a : Agent) (c : Ctx) : (s.setCtxOf a c).latOwner = s.latOwner := by cases a <;> rfl
@[simp] theorem State.setCtxOf_accs (a : Agent) (c : Ctx) : (s.setCtxOf a c).accs = s.accs := by cases a <;> rfl
@[simp] theorem State.setCtxOf_tiles (a : Agent) (c : Ctx) : (s.setCtxOf a c).tiles = s.tiles := by cases a <;> rfl
@[simp] theorem State.setCtxOf_rings (a : Agent) (c : Ctx) : (s.setCtxOf a c).rings = s.rings := by cases a <;> rfl
@[simp] theorem State.setCtxOf_gates (a : Agent) (c : Ctx) : (s.setCtxOf a c).gates = s.gates := by cases a <;> rfl
@[simp] theorem State.setCtxOf_chans (a : Agent) (c : Ctx) : (s.setCtxOf a c).chans = s.chans := by cases a <;> rfl
@[simp] theorem State.setCtxOf_mboxes (a : Agent) (c : Ctx) : (s.setCtxOf a c).mboxes = s.mboxes := by cases a <;> rfl
@[simp] theorem State.setCtxOf_sets (a : Agent) (c : Ctx) : (s.setCtxOf a c).sets = s.sets := by cases a <;> rfl
@[simp] theorem State.setCtxOf_tenants (a : Agent) (c : Ctx) : (s.setCtxOf a c).tenants = s.tenants := by cases a <;> rfl
@[simp] theorem State.setCtxOf_pend (a : Agent) (c : Ctx) : (s.setCtxOf a c).pend = s.pend := by cases a <;> rfl
@[simp] theorem State.setCtxOf_seen (a : Agent) (c : Ctx) : (s.setCtxOf a c).seen = s.seen := by cases a <;> rfl
@[simp] theorem State.setCtxOf_knows (a : Agent) (c : Ctx) : (s.setCtxOf a c).knows = s.knows := by cases a <;> rfl
@[simp] theorem State.setCtxOf_remotes (a : Agent) (c : Ctx) : (s.setCtxOf a c).remotes = s.remotes := by cases a <;> rfl
@[simp] theorem State.setCtxOf_nextId (a : Agent) (c : Ctx) : (s.setCtxOf a c).nextId = s.nextId := by cases a <;> rfl
@[simp] theorem State.setCtxOf_xlats (a : Agent) (c : Ctx) : (s.setCtxOf a c).xlats = s.xlats := by cases a <;> rfl
@[simp] theorem State.setCtxOf_tabs (a : Agent) (c : Ctx) : (s.setCtxOf a c).tabs = s.tabs := by cases a <;> rfl
@[simp] theorem State.setCtxOf_invals (a : Agent) (c : Ctx) : (s.setCtxOf a c).invals = s.invals := by cases a <;> rfl
@[simp] theorem State.setCtxOf_prqs (a : Agent) (c : Ctx) : (s.setCtxOf a c).prqs = s.prqs := by cases a <;> rfl
@[simp] theorem State.setCtxOf_prqWait (a : Agent) (c : Ctx) : (s.setCtxOf a c).prqWait = s.prqWait := by cases a <;> rfl
@[simp] theorem State.setCtxOf_fatals (a : Agent) (c : Ctx) : (s.setCtxOf a c).fatals = s.fatals := by cases a <;> rfl
@[simp] theorem State.setCtxOf_regions (a : Agent) (c : Ctx) : (s.setCtxOf a c).regions = s.regions := by cases a <;> rfl
@[simp] theorem State.setCtxOf_slots (a : Agent) (c : Ctx) : (s.setCtxOf a c).slots = s.slots := by cases a <;> rfl
@[simp] theorem State.setCtxOf_queues (a : Agent) (c : Ctx) : (s.setCtxOf a c).queues = s.queues := by cases a <;> rfl
@[simp] theorem State.setCtxOf_crings (a : Agent) (c : Ctx) : (s.setCtxOf a c).crings = s.crings := by cases a <;> rfl
@[simp] theorem State.setCtxOf_held (a : Agent) (c : Ctx) : (s.setCtxOf a c).held = s.held := by cases a <;> rfl
@[simp] theorem State.setCtxOf_kicks (a : Agent) (c : Ctx) : (s.setCtxOf a c).kicks = s.kicks := by cases a <;> rfl
@[simp] theorem State.setCtxOf_wdogs (a : Agent) (c : Ctx) : (s.setCtxOf a c).wdogs = s.wdogs := by cases a <;> rfl
@[simp] theorem State.setCtxOf_jnext (a : Agent) (c : Ctx) : (s.setCtxOf a c).jnext = s.jnext := by cases a <;> rfl
@[simp] theorem State.setCtxOf_takevec (a : Agent) (c : Ctx) : (s.setCtxOf a c).takevec = s.takevec := by cases a <;> rfl
@[simp] theorem State.setCtxOf_lfault (a : Agent) (c : Ctx) : (s.setCtxOf a c).lfault = s.lfault := by cases a <;> rfl
@[simp] theorem State.setCtxOf_fatal (a : Agent) (c : Ctx) : (s.setCtxOf a c).fatal = s.fatal := by cases a <;> rfl
@[simp] theorem State.setCtxOf_frames (a : Agent) (c : Ctx) : (s.setCtxOf a c).frames = s.frames := by cases a <;> rfl
@[simp] theorem State.setCtxOf_frame (a : Agent) (c : Ctx) : (s.setCtxOf a c).frame = s.frame := by cases a <;> rfl
@[simp] theorem State.setCtxOf_cuts (a : Agent) (c : Ctx) : (s.setCtxOf a c).cuts = s.cuts := by cases a <;> rfl
@[simp] theorem State.setCtxOf_scrubs (a : Agent) (c : Ctx) : (s.setCtxOf a c).scrubs = s.scrubs := by cases a <;> rfl
@[simp] theorem State.setCtxOf_scrubSeq (a : Agent) (c : Ctx) : (s.setCtxOf a c).scrubSeq = s.scrubSeq := by cases a <;> rfl
@[simp] theorem State.setCtxOf_scrubLast (a : Agent) (c : Ctx) : (s.setCtxOf a c).scrubLast = s.scrubLast := by cases a <;> rfl
@[simp] theorem State.setCtxOf_tokenBars (a : Agent) (c : Ctx) : (s.setCtxOf a c).tokenBars = s.tokenBars := by cases a <;> rfl
@[simp] theorem State.setCtxOf_ways (a : Agent) (c : Ctx) : (s.setCtxOf a c).ways = s.ways := by cases a <;> rfl
@[simp] theorem State.setCtxOf_waySpares (a : Agent) (c : Ctx) : (s.setCtxOf a c).waySpares = s.waySpares := by cases a <;> rfl
@[simp] theorem State.setCtxOf_waysLost (a : Agent) (c : Ctx) : (s.setCtxOf a c).waysLost = s.waysLost := by cases a <;> rfl
@[simp] theorem State.setCtxOf_spares (a : Agent) (c : Ctx) : (s.setCtxOf a c).spares = s.spares := by cases a <;> rfl
@[simp] theorem State.setCtxOf_colSpares (a : Agent) (c : Ctx) : (s.setCtxOf a c).colSpares = s.colSpares := by cases a <;> rfl
@[simp] theorem State.setCtxOf_rowRepairs (a : Agent) (c : Ctx) : (s.setCtxOf a c).rowRepairs = s.rowRepairs := by cases a <;> rfl
@[simp] theorem State.setCtxOf_repairs (a : Agent) (c : Ctx) : (s.setCtxOf a c).repairs = s.repairs := by cases a <;> rfl
@[simp] theorem State.setCtxOf_wear (a : Agent) (c : Ctx) : (s.setCtxOf a c).wear = s.wear := by cases a <;> rfl
@[simp] theorem State.setCtxOf_lanes (a : Agent) (c : Ctx) : (s.setCtxOf a c).lanes = s.lanes := by cases a <;> rfl
@[simp] theorem State.setCtxOf_admin (a : Agent) (c : Ctx) : (s.setCtxOf a c).admin = s.admin := by cases a <;> rfl
@[simp] theorem State.setCtxOf_vfbox (a : Agent) (c : Ctx) : (s.setCtxOf a c).vfbox = s.vfbox := by cases a <;> rfl
@[simp] theorem State.setCtxOf_pftoken (a : Agent) (c : Ctx) : (s.setCtxOf a c).pftoken = s.pftoken := by cases a <;> rfl
@[simp] theorem State.setCtxOf_perms (a : Agent) (c : Ctx) : (s.setCtxOf a c).perms = s.perms := by cases a <;> rfl
@[simp] theorem State.setCtxOf_tierEnc (a : Agent) (c : Ctx) : (s.setCtxOf a c).tierEnc = s.tierEnc := by cases a <;> rfl
@[simp] theorem State.setCtxOf_shared (a : Agent) (c : Ctx) : (s.setCtxOf a c).shared = s.shared := by cases a <;> rfl
@[simp] theorem State.setCtxOf_hostHeld (a : Agent) (c : Ctx) : (s.setCtxOf a c).hostHeld = s.hostHeld := by cases a <;> rfl
@[simp] theorem State.setCtxOf_pwrcap (a : Agent) (c : Ctx) : (s.setCtxOf a c).pwrcap = s.pwrcap := by cases a <;> rfl
@[simp] theorem State.setCtxOf_locid (a : Agent) (c : Ctx) : (s.setCtxOf a c).locid = s.locid := by cases a <;> rfl
@[simp] theorem State.setCtxOf_staged (a : Agent) (c : Ctx) : (s.setCtxOf a c).staged = s.staged := by cases a <;> rfl
@[simp] theorem State.setCtxOf_running (a : Agent) (c : Ctx) : (s.setCtxOf a c).running = s.running := by cases a <;> rfl
@[simp] theorem State.setCtxOf_vec0 (a : Agent) (c : Ctx) : (s.setCtxOf a c).vec0 = s.vec0 := by cases a <;> rfl
@[simp] theorem State.setCtxOf_mctp (a : Agent) (c : Ctx) : (s.setCtxOf a c).mctp = s.mctp := by cases a <;> rfl
@[simp] theorem State.setCtxOf_flits (a : Agent) (c : Ctx) : (s.setCtxOf a c).flits = s.flits := by cases a <;> rfl
@[simp] theorem State.setCtx_cur (c : Ctx) : (s.setCtx c).cur = s.cur := by simp [State.setCtx]
@[simp] theorem State.setCtx_agenda (c : Ctx) : (s.setCtx c).agenda = s.agenda := by simp [State.setCtx]
@[simp] theorem State.setCtx_cycle (c : Ctx) : (s.setCtx c).cycle = s.cycle := by simp [State.setCtx]
@[simp] theorem State.setCtx_free (c : Ctx) : (s.setCtx c).free = s.free := by simp [State.setCtx]
@[simp] theorem State.setCtx_mem (c : Ctx) : (s.setCtx c).mem = s.mem := by simp [State.setCtx]
@[simp] theorem State.setCtx_badMem (c : Ctx) : (s.setCtx c).badMem = s.badMem := by simp [State.setCtx]
@[simp] theorem State.setCtx_sram (c : Ctx) : (s.setCtx c).sram = s.sram := by simp [State.setCtx]
@[simp] theorem State.setCtx_sramBad (c : Ctx) : (s.setCtx c).sramBad = s.sramBad := by simp [State.setCtx]
@[simp] theorem State.setCtx_imem (c : Ctx) : (s.setCtx c).imem = s.imem := by simp [State.setCtx]
@[simp] theorem State.setCtx_planes (c : Ctx) : (s.setCtx c).planes = s.planes := by simp [State.setCtx]
@[simp] theorem State.setCtx_cells (c : Ctx) : (s.setCtx c).cells = s.cells := by simp [State.setCtx]
@[simp] theorem State.setCtx_ports (c : Ctx) : (s.setCtx c).ports = s.ports := by simp [State.setCtx]
@[simp] theorem State.setCtx_lats (c : Ctx) : (s.setCtx c).lats = s.lats := by simp [State.setCtx]
@[simp] theorem State.setCtx_latOwner (c : Ctx) : (s.setCtx c).latOwner = s.latOwner := by simp [State.setCtx]
@[simp] theorem State.setCtx_accs (c : Ctx) : (s.setCtx c).accs = s.accs := by simp [State.setCtx]
@[simp] theorem State.setCtx_tiles (c : Ctx) : (s.setCtx c).tiles = s.tiles := by simp [State.setCtx]
@[simp] theorem State.setCtx_rings (c : Ctx) : (s.setCtx c).rings = s.rings := by simp [State.setCtx]
@[simp] theorem State.setCtx_gates (c : Ctx) : (s.setCtx c).gates = s.gates := by simp [State.setCtx]
@[simp] theorem State.setCtx_chans (c : Ctx) : (s.setCtx c).chans = s.chans := by simp [State.setCtx]
@[simp] theorem State.setCtx_mboxes (c : Ctx) : (s.setCtx c).mboxes = s.mboxes := by simp [State.setCtx]
@[simp] theorem State.setCtx_sets (c : Ctx) : (s.setCtx c).sets = s.sets := by simp [State.setCtx]
@[simp] theorem State.setCtx_tenants (c : Ctx) : (s.setCtx c).tenants = s.tenants := by simp [State.setCtx]
@[simp] theorem State.setCtx_pend (c : Ctx) : (s.setCtx c).pend = s.pend := by simp [State.setCtx]
@[simp] theorem State.setCtx_seen (c : Ctx) : (s.setCtx c).seen = s.seen := by simp [State.setCtx]
@[simp] theorem State.setCtx_knows (c : Ctx) : (s.setCtx c).knows = s.knows := by simp [State.setCtx]
@[simp] theorem State.setCtx_remotes (c : Ctx) : (s.setCtx c).remotes = s.remotes := by simp [State.setCtx]
@[simp] theorem State.setCtx_nextId (c : Ctx) : (s.setCtx c).nextId = s.nextId := by simp [State.setCtx]
@[simp] theorem State.setCtx_xlats (c : Ctx) : (s.setCtx c).xlats = s.xlats := by simp [State.setCtx]
@[simp] theorem State.setCtx_tabs (c : Ctx) : (s.setCtx c).tabs = s.tabs := by simp [State.setCtx]
@[simp] theorem State.setCtx_invals (c : Ctx) : (s.setCtx c).invals = s.invals := by simp [State.setCtx]
@[simp] theorem State.setCtx_prqs (c : Ctx) : (s.setCtx c).prqs = s.prqs := by simp [State.setCtx]
@[simp] theorem State.setCtx_prqWait (c : Ctx) : (s.setCtx c).prqWait = s.prqWait := by simp [State.setCtx]
@[simp] theorem State.setCtx_fatals (c : Ctx) : (s.setCtx c).fatals = s.fatals := by simp [State.setCtx]
@[simp] theorem State.setCtx_regions (c : Ctx) : (s.setCtx c).regions = s.regions := by simp [State.setCtx]
@[simp] theorem State.setCtx_slots (c : Ctx) : (s.setCtx c).slots = s.slots := by simp [State.setCtx]
@[simp] theorem State.setCtx_queues (c : Ctx) : (s.setCtx c).queues = s.queues := by simp [State.setCtx]
@[simp] theorem State.setCtx_crings (c : Ctx) : (s.setCtx c).crings = s.crings := by simp [State.setCtx]
@[simp] theorem State.setCtx_held (c : Ctx) : (s.setCtx c).held = s.held := by simp [State.setCtx]
@[simp] theorem State.setCtx_kicks (c : Ctx) : (s.setCtx c).kicks = s.kicks := by simp [State.setCtx]
@[simp] theorem State.setCtx_wdogs (c : Ctx) : (s.setCtx c).wdogs = s.wdogs := by simp [State.setCtx]
@[simp] theorem State.setCtx_jnext (c : Ctx) : (s.setCtx c).jnext = s.jnext := by simp [State.setCtx]
@[simp] theorem State.setCtx_takevec (c : Ctx) : (s.setCtx c).takevec = s.takevec := by simp [State.setCtx]
@[simp] theorem State.setCtx_lfault (c : Ctx) : (s.setCtx c).lfault = s.lfault := by simp [State.setCtx]
@[simp] theorem State.setCtx_fatal (c : Ctx) : (s.setCtx c).fatal = s.fatal := by simp [State.setCtx]
@[simp] theorem State.setCtx_frames (c : Ctx) : (s.setCtx c).frames = s.frames := by simp [State.setCtx]
@[simp] theorem State.setCtx_frame (c : Ctx) : (s.setCtx c).frame = s.frame := by simp [State.setCtx]
@[simp] theorem State.setCtx_cuts (c : Ctx) : (s.setCtx c).cuts = s.cuts := by simp [State.setCtx]
@[simp] theorem State.setCtx_scrubs (c : Ctx) : (s.setCtx c).scrubs = s.scrubs := by simp [State.setCtx]
@[simp] theorem State.setCtx_scrubSeq (c : Ctx) : (s.setCtx c).scrubSeq = s.scrubSeq := by simp [State.setCtx]
@[simp] theorem State.setCtx_scrubLast (c : Ctx) : (s.setCtx c).scrubLast = s.scrubLast := by simp [State.setCtx]
@[simp] theorem State.setCtx_tokenBars (c : Ctx) : (s.setCtx c).tokenBars = s.tokenBars := by simp [State.setCtx]
@[simp] theorem State.setCtx_ways (c : Ctx) : (s.setCtx c).ways = s.ways := by simp [State.setCtx]
@[simp] theorem State.setCtx_waySpares (c : Ctx) : (s.setCtx c).waySpares = s.waySpares := by simp [State.setCtx]
@[simp] theorem State.setCtx_waysLost (c : Ctx) : (s.setCtx c).waysLost = s.waysLost := by simp [State.setCtx]
@[simp] theorem State.setCtx_spares (c : Ctx) : (s.setCtx c).spares = s.spares := by simp [State.setCtx]
@[simp] theorem State.setCtx_colSpares (c : Ctx) : (s.setCtx c).colSpares = s.colSpares := by simp [State.setCtx]
@[simp] theorem State.setCtx_rowRepairs (c : Ctx) : (s.setCtx c).rowRepairs = s.rowRepairs := by simp [State.setCtx]
@[simp] theorem State.setCtx_repairs (c : Ctx) : (s.setCtx c).repairs = s.repairs := by simp [State.setCtx]
@[simp] theorem State.setCtx_wear (c : Ctx) : (s.setCtx c).wear = s.wear := by simp [State.setCtx]
@[simp] theorem State.setCtx_lanes (c : Ctx) : (s.setCtx c).lanes = s.lanes := by simp [State.setCtx]
@[simp] theorem State.setCtx_admin (c : Ctx) : (s.setCtx c).admin = s.admin := by simp [State.setCtx]
@[simp] theorem State.setCtx_vfbox (c : Ctx) : (s.setCtx c).vfbox = s.vfbox := by simp [State.setCtx]
@[simp] theorem State.setCtx_pftoken (c : Ctx) : (s.setCtx c).pftoken = s.pftoken := by simp [State.setCtx]
@[simp] theorem State.setCtx_perms (c : Ctx) : (s.setCtx c).perms = s.perms := by simp [State.setCtx]
@[simp] theorem State.setCtx_tierEnc (c : Ctx) : (s.setCtx c).tierEnc = s.tierEnc := by simp [State.setCtx]
@[simp] theorem State.setCtx_shared (c : Ctx) : (s.setCtx c).shared = s.shared := by simp [State.setCtx]
@[simp] theorem State.setCtx_hostHeld (c : Ctx) : (s.setCtx c).hostHeld = s.hostHeld := by simp [State.setCtx]
@[simp] theorem State.setCtx_pwrcap (c : Ctx) : (s.setCtx c).pwrcap = s.pwrcap := by simp [State.setCtx]
@[simp] theorem State.setCtx_locid (c : Ctx) : (s.setCtx c).locid = s.locid := by simp [State.setCtx]
@[simp] theorem State.setCtx_staged (c : Ctx) : (s.setCtx c).staged = s.staged := by simp [State.setCtx]
@[simp] theorem State.setCtx_running (c : Ctx) : (s.setCtx c).running = s.running := by simp [State.setCtx]
@[simp] theorem State.setCtx_vec0 (c : Ctx) : (s.setCtx c).vec0 = s.vec0 := by simp [State.setCtx]
@[simp] theorem State.setCtx_mctp (c : Ctx) : (s.setCtx c).mctp = s.mctp := by simp [State.setCtx]
@[simp] theorem State.setCtx_flits (c : Ctx) : (s.setCtx c).flits = s.flits := by simp [State.setCtx]

end Sys2Proof.Machine
end

