-- ==== Sys2Proof/Laws/Context.lean ====
section
/-! SUPPORT. The issuing context's registers and record, and what completing an instruction and taking an exception do,
said once for each shared operation. -/

namespace Sys2Proof.Machine

/-! The issuing context. -/

@[simp] theorem State.ctxOf_setCtxOf (s : State) (a : Agent) (c : Ctx) : (s.setCtxOf a c).ctxOf a = c := by
  cases a <;> simp [State.ctxOf, State.setCtxOf, State.thread, State.lodge, State.plot, State.setThread, State.setLodge,
    State.setPlot]

@[simp] theorem State.setCtxOf_setCtxOf (s : State) (a : Agent) (c d : Ctx) :
    (s.setCtxOf a c).setCtxOf a d = s.setCtxOf a d := by
  cases a <;> simp [State.setCtxOf, State.lodge, State.plot, State.setThread, State.setLodge, State.setPlot]

@[simp] theorem State.ctx_setCtx (s : State) (c : Ctx) : (s.setCtx c).ctx = c := by
  simp [State.ctx, State.setCtx]

@[simp] theorem State.setCtx_setCtx (s : State) (c d : Ctx) : (s.setCtx c).setCtx d = s.setCtx d := by
  simp [State.setCtx]

@[simp] theorem State.ctxOf_cur (s : State) : s.ctxOf s.cur = s.ctx := rfl

/-! General registers (R48). -/

@[simp] theorem Ctx.get_zero (c : Ctx) : c.get 0#5 = 0 := by simp [Ctx.get]

@[simp] theorem Ctx.put_zero (c : Ctx) (v : Word) : c.put 0#5 v = c := by simp [Ctx.put]

theorem Ctx.get_put (c : Ctx) (r q : Reg) (v : Word) :
    (c.put r v).get q = if q = 0 then 0 else if q = r then v else c.get q := by
  by_cases hq : q = 0#5
  · simp [Ctx.get, hq]
  · by_cases hr : r = 0#5
    · by_cases h : q = r
      · exact absurd (h.trans hr) hq
      · simp [Ctx.get, Ctx.put, hq, hr]
    · by_cases h : q = r
      · subst h; simp [Ctx.get, Ctx.put, hq]
      · have : r.toNat ≠ q.toNat := fun e => h (BitVec.eq_of_toNat_eq e.symm)
        simp [Ctx.get, Ctx.put, hq, hr, h, this]

/-- A write of a register changes no other part of a context. -/
theorem Ctx.put_eq (c : Ctx) (r : Reg) (v : Word) : c.put r v = { c with regs := (c.put r v).regs } := by
  by_cases h : r = 0#5 <;> simp [Ctx.put, h]

@[simp] theorem Ctx.put_pc (c : Ctx) (r : Reg) (v : Word) : (c.put r v).pc = c.pc := by rw [Ctx.put_eq]
@[simp] theorem Ctx.put_cl (c : Ctx) (r : Reg) (v : Word) : (c.put r v).cl = c.cl := by rw [Ctx.put_eq]
@[simp] theorem Ctx.put_st (c : Ctx) (r : Reg) (v : Word) : (c.put r v).st = c.st := by rw [Ctx.put_eq]
@[simp] theorem Ctx.put_retired (c : Ctx) (r : Reg) (v : Word) : (c.put r v).retired = c.retired := by rw [Ctx.put_eq]

@[simp] theorem State.setG_ctx (s : State) (r : Reg) (v : Word) : (s.setG r v).ctx = s.ctx.put r v := by
  simp [State.setG]

theorem State.g_setG (s : State) (r q : Reg) (v : Word) :
    (s.setG r v).g q = if q = 0 then 0 else if q = r then v else s.g q := by
  simp [State.g, Ctx.get_put]

/-! Completing an instruction (R78, R86, R87). -/

/-- The registers do not change as an instruction completes. -/
@[simp] theorem Ctx.advance_regs (c : Ctx) (len : Nat) : (c.advance len).regs = c.regs := by
  unfold Ctx.advance
  dsimp only
  split
  · rfl
  · split
    · rfl
    · split <;> rfl

@[simp] theorem Ctx.advance_retired (c : Ctx) (len : Nat) : (c.advance len).retired = c.retired := by
  unfold Ctx.advance
  dsimp only
  split
  · rfl
  · split
    · rfl
    · split <;> rfl

/-- Outside a clause the next instruction follows. -/
theorem Ctx.advance_straight (c : Ctx) (len : Nat) (h : c.cl.kind = .none) :
    (c.advance len).pc = c.pc + BitVec.ofNat 64 len ∧ (c.advance len).cl = c.cl := by
  simp [Ctx.advance, h]

/-- Completing changes the record of the issuing context alone. -/
theorem retire_eq (s : State) (len : Nat) :
    retire s len = s.setCtx ({ s.ctx with retired := s.ctx.retired + 1 }.advance len) := rfl

@[simp] theorem retire_ctx (s : State) (len : Nat) :
    (retire s len).ctx = { s.ctx with retired := s.ctx.retired + 1 }.advance len := by
  simp [retire]

/-- A register result: the issuing context with the register written, completed. -/
theorem finish_eq (s : State) (rd : Reg) (v : Word) (len : Nat) :
    finish s rd v len =
      .next (s.setCtx ({ s.ctx.put rd v with retired := s.ctx.retired + 1 }.advance len)) := by
  simp [finish, retire, State.setG]

/-! Exceptions (R335). -/

/-- Taking an exception changes the record of the agent's context alone. -/
theorem takeTrap_only (s : State) (a : Agent) (cause : Nat) (epc fbyte faddr einfo : Word) :
    takeTrap s a cause epc fbyte faddr einfo = s.setCtxOf a ((takeTrap s a cause epc fbyte faddr einfo).ctxOf a) := by
  unfold takeTrap
  dsimp only
  split <;> simp

/-- What an exception saves and where it goes; the state DOUBLE tells a handler that cannot be fetched. -/
theorem takeTrap_ctx (s : State) (a : Agent) (cause : Nat) (epc fbyte faddr einfo : Word) :
    let c := s.ctxOf a
    let d := (takeTrap s a cause epc fbyte faddr einfo).ctxOf a
    d.epc = epc &&& ~~~3#64 ∧ d.fbyte = fbyte ∧ d.ecause = BitVec.ofNat 64 cause ∧ d.faddr = faddr ∧ d.einfo = einfo ∧
    d.clause = c.cl.csr ∧ d.pp = c.priv ∧ d.pc = s.trapVector a ∧ d.regs = c.regs ∧ d.retired = c.retired ∧ d.cl = {} ∧
    (d.st = .running ∨ d.st = .double) := by
  unfold takeTrap
  dsimp only
  split <;> simp

end Sys2Proof.Machine
end

