-- ==== Sys2Proof/Laws/Encoding.lean ====
section
/-! SUPPORT. What each field of an encoded word reads as (02_words R16): the decoder's fields of the encoder's words. -/

namespace Sys2Proof

/-- The low part of two joined bit strings. -/
theorem extract_low {n m : Nat} (x : BitVec n) (y : BitVec m) : (x ++ y).extractLsb' 0 m = y := by
  apply BitVec.eq_of_getLsbD_eq
  intro i hi
  simp [BitVec.getLsbD_append, hi]

/-- A field above the low part of two joined bit strings. -/
theorem extract_high {n m : Nat} (k j : Nat) (x : BitVec n) (y : BitVec m) :
    (x ++ y).extractLsb' (m + k) j = x.extractLsb' k j := by
  apply BitVec.eq_of_getLsbD_eq
  intro i hi
  simp [BitVec.getLsbD_append, hi, Nat.add_assoc]

/-- A whole bit string as a field of itself. -/
theorem extract_all {n : Nat} (x : BitVec n) : x.extractLsb' 0 n = x := by
  apply BitVec.eq_of_getLsbD_eq
  intro i hi
  simp [hi]

/-! `encR` -/

@[simp] theorem encR_fMaj (maj : BitVec 6) (rd rs1 rs2 : Reg) (sub : BitVec 5) (mods : BitVec 4) (len : BitVec 2) :
    fMaj (encR maj rd rs1 rs2 sub mods len) = maj.toNat :=
  congrArg BitVec.toNat ((extract_high 24 6 _ len).trans ((extract_high 20 6 _ mods).trans ((extract_high 15 6 _ sub).trans ((extract_high 10 6 _ rs2).trans ((extract_high 5 6 _ rs1).trans ((extract_high 0 6 _ rd).trans (extract_all maj)))))))

@[simp] theorem encR_fRd (maj : BitVec 6) (rd rs1 rs2 : Reg) (sub : BitVec 5) (mods : BitVec 4) (len : BitVec 2) :
    fRd (encR maj rd rs1 rs2 sub mods len) = rd :=
  (extract_high 19 5 _ len).trans ((extract_high 15 5 _ mods).trans ((extract_high 10 5 _ sub).trans ((extract_high 5 5 _ rs2).trans ((extract_high 0 5 _ rs1).trans (extract_low _ rd)))))

@[simp] theorem encR_fRs1 (maj : BitVec 6) (rd rs1 rs2 : Reg) (sub : BitVec 5) (mods : BitVec 4) (len : BitVec 2) :
    fRs1 (encR maj rd rs1 rs2 sub mods len) = rs1 :=
  (extract_high 14 5 _ len).trans ((extract_high 10 5 _ mods).trans ((extract_high 5 5 _ sub).trans ((extract_high 0 5 _ rs2).trans (extract_low _ rs1))))

@[simp] theorem encR_fRs2 (maj : BitVec 6) (rd rs1 rs2 : Reg) (sub : BitVec 5) (mods : BitVec 4) (len : BitVec 2) :
    fRs2 (encR maj rd rs1 rs2 sub mods len) = rs2 :=
  (extract_high 9 5 _ len).trans ((extract_high 5 5 _ mods).trans ((extract_high 0 5 _ sub).trans (extract_low _ rs2)))

@[simp] theorem encR_fSub (maj : BitVec 6) (rd rs1 rs2 : Reg) (sub : BitVec 5) (mods : BitVec 4) (len : BitVec 2) :
    fSub (encR maj rd rs1 rs2 sub mods len) = sub.toNat :=
  congrArg BitVec.toNat ((extract_high 4 5 _ len).trans ((extract_high 0 5 _ mods).trans (extract_low _ sub)))

@[simp] theorem encR_fMods (maj : BitVec 6) (rd rs1 rs2 : Reg) (sub : BitVec 5) (mods : BitVec 4) (len : BitVec 2) :
    fMods (encR maj rd rs1 rs2 sub mods len) = mods :=
  (extract_high 0 4 _ len).trans (extract_low _ mods)

@[simp] theorem encR_fLen (maj : BitVec 6) (rd rs1 rs2 : Reg) (sub : BitVec 5) (mods : BitVec 4) (len : BitVec 2) :
    fLen (encR maj rd rs1 rs2 sub mods len) = len.toNat :=
  congrArg BitVec.toNat (extract_low _ len)

/-! `encI` -/

@[simp] theorem encI_fMaj (maj : BitVec 6) (rd rs1 : Reg) (imm : Imm14) (len : BitVec 2) :
    fMaj (encI maj rd rs1 imm len) = maj.toNat :=
  congrArg BitVec.toNat ((extract_high 24 6 _ len).trans ((extract_high 10 6 _ imm).trans ((extract_high 5 6 _ rs1).trans ((extract_high 0 6 _ rd).trans (extract_all maj)))))

@[simp] theorem encI_fRd (maj : BitVec 6) (rd rs1 : Reg) (imm : Imm14) (len : BitVec 2) :
    fRd (encI maj rd rs1 imm len) = rd :=
  (extract_high 19 5 _ len).trans ((extract_high 5 5 _ imm).trans ((extract_high 0 5 _ rs1).trans (extract_low _ rd)))

@[simp] theorem encI_fRs1 (maj : BitVec 6) (rd rs1 : Reg) (imm : Imm14) (len : BitVec 2) :
    fRs1 (encI maj rd rs1 imm len) = rs1 :=
  (extract_high 14 5 _ len).trans ((extract_high 0 5 _ imm).trans (extract_low _ rs1))

@[simp] theorem encI_fImm (maj : BitVec 6) (rd rs1 : Reg) (imm : Imm14) (len : BitVec 2) :
    fImm (encI maj rd rs1 imm len) = imm :=
  (extract_high 0 14 _ len).trans (extract_low _ imm)

@[simp] theorem encI_fLen (maj : BitVec 6) (rd rs1 : Reg) (imm : Imm14) (len : BitVec 2) :
    fLen (encI maj rd rs1 imm len) = len.toNat :=
  congrArg BitVec.toNat (extract_low _ len)

/-! `encJ` -/

@[simp] theorem encJ_fMaj (maj : BitVec 6) (off : BitVec 24) (len : BitVec 2) :
    fMaj (encJ maj off len) = maj.toNat :=
  congrArg BitVec.toNat ((extract_high 24 6 _ len).trans ((extract_high 0 6 _ off).trans (extract_all maj)))

@[simp] theorem encJ_off (maj : BitVec 6) (off : BitVec 24) (len : BitVec 2) :
    (encJ maj off len).extractLsb' 2 24 = off :=
  (extract_high 0 24 _ len).trans (extract_low _ off)

@[simp] theorem encJ_fLen (maj : BitVec 6) (off : BitVec 24) (len : BitVec 2) :
    fLen (encJ maj off len) = len.toNat :=
  congrArg BitVec.toNat (extract_low _ len)

/-! `encQ` -/

@[simp] theorem encQ_fMaj (maj : BitVec 6) (rd rs1 : Reg) (off : BitVec 13) (es : Bool) (len : BitVec 2) :
    fMaj (encQ maj rd rs1 off es len) = maj.toNat :=
  congrArg BitVec.toNat ((extract_high 24 6 _ len).trans ((extract_high 23 6 _ (BitVec.ofBool es)).trans ((extract_high 10 6 _ off).trans ((extract_high 5 6 _ rs1).trans ((extract_high 0 6 _ rd).trans (extract_all maj))))))

@[simp] theorem encQ_fRd (maj : BitVec 6) (rd rs1 : Reg) (off : BitVec 13) (es : Bool) (len : BitVec 2) :
    fRd (encQ maj rd rs1 off es len) = rd :=
  (extract_high 19 5 _ len).trans ((extract_high 18 5 _ (BitVec.ofBool es)).trans ((extract_high 5 5 _ off).trans ((extract_high 0 5 _ rs1).trans (extract_low _ rd))))

@[simp] theorem encQ_fRs1 (maj : BitVec 6) (rd rs1 : Reg) (off : BitVec 13) (es : Bool) (len : BitVec 2) :
    fRs1 (encQ maj rd rs1 off es len) = rs1 :=
  (extract_high 14 5 _ len).trans ((extract_high 13 5 _ (BitVec.ofBool es)).trans ((extract_high 0 5 _ off).trans (extract_low _ rs1)))

@[simp] theorem encQ_off (maj : BitVec 6) (rd rs1 : Reg) (off : BitVec 13) (es : Bool) (len : BitVec 2) :
    (encQ maj rd rs1 off es len).extractLsb' 3 13 = off :=
  (extract_high 1 13 _ len).trans ((extract_high 0 13 _ (BitVec.ofBool es)).trans (extract_low _ off))

@[simp] theorem encQ_fLen (maj : BitVec 6) (rd rs1 : Reg) (off : BitVec 13) (es : Bool) (len : BitVec 2) :
    fLen (encQ maj rd rs1 off es len) = len.toNat :=
  congrArg BitVec.toNat (extract_low _ len)

/-! `encT` -/

@[simp] theorem encT_fLen (maj : BitVec 6) (rd ro : Reg) (h : BitVec 8) (sz : AccSize) (len : BitVec 2) :
    fLen (encT maj rd ro h sz len) = len.toNat := congrArg BitVec.toNat (extract_low (m := 2) _ len)

@[simp] theorem encT_fMaj (maj : BitVec 6) (rd ro : Reg) (h : BitVec 8) (sz : AccSize) (len : BitVec 2) :
    fMaj (encT maj rd ro h sz len) = maj.toNat := by
  cases sz <;> exact congrArg BitVec.toNat ((extract_high 24 6 _ len).trans ((extract_high 20 6 _ 0#4).trans
    ((extract_high (m := 2) 18 6 _ _).trans ((extract_high 10 6 _ h).trans ((extract_high 5 6 _ ro).trans
      ((extract_high 0 6 _ rd).trans (extract_all maj)))))))

@[simp] theorem encAmo_fLen (sub : BitVec 5) (rd rs1 rs2 : Reg) (ret dw : Bool) (o : AmoOrder) :
    fLen (encAmo sub rd rs1 rs2 ret dw o) = 0 := by simp [encAmo]

@[simp] theorem encAmo_fMaj (sub : BitVec 5) (rd rs1 rs2 : Reg) (ret dw : Bool) (o : AmoOrder) :
    fMaj (encAmo sub rd rs1 rs2 ret dw o) = 0x21 := by simp [encAmo]

/-- An extension has as many words as its LEN says. -/
theorem Ext.words_length (e : Ext) : e.words.length = e.lenField.toNat := by cases e <;> rfl

/-- An extension's LEN is 1 or 2. -/
theorem Ext.lenField_ne (e : Ext) : e.lenField.toNat ≠ 3 := by cases e <;> simp [Ext.lenField]

end Sys2Proof
end

