-- ==== Sys2Proof/Laws/Outcomes.lean ====
section
/-! SUPPORT. The outcomes that meanings share, each said once: a status, a pair, a wait, a check of privilege or of the kind
of context, a transfer of control. -/

namespace Sys2Proof.Machine

/-! Statuses (R49, R290). -/

/-- A status is a register result of a one-word instruction. -/
theorem status_eq (s : State) (rd : Reg) (code : Nat) :
    status s rd code = .next (s.setCtx ({ s.ctx.put rd (BitVec.ofNat 64 code) with retired := s.ctx.retired + 1 }.advance 4)) :=
  finish_eq ..

/-- A register result is a next state. -/
theorem finish_next (s : State) (rd : Reg) (v : Word) (len : Nat) :
    ∃ t, finish s rd v len = .next t ∧ t = s.setCtx t.ctx ∧ t.ctx.regs = (s.ctx.put rd v).regs ∧
      t.ctx.retired = s.ctx.retired + 1 := by
  refine ⟨_, finish_eq .., ?_, ?_, ?_⟩ <;> simp

/-- A pair writes the second register, then the first, and completes. -/
theorem statusPair_eq (s : State) (rd : Reg) (code : Nat) (v : Word) :
    statusPair s rd code v = .next (s.setCtx
      ({ (s.ctx.put (mate rd) v).put rd (BitVec.ofNat 64 code) with retired := s.ctx.retired + 1 }.advance 4)) := by
  simp [statusPair, retire, State.setG]

/-! Waiting (R74). -/

/-- A wait is a next state that differs in the issuing context's record alone; registers, pc and RETIRED stand. -/
theorem waitIn_next (s : State) (i : Instr) (mark : Nat) :
    ∃ t w, waitIn s i mark = .next t ∧ t = s.setCtx { s.ctx with st := .waiting, wait := some w } ∧ w.instr = i := by
  unfold waitIn
  refine ⟨_, _, rfl, rfl, ?_⟩
  cases s.ctx.wait with
  | none => rfl
  | some w => by_cases h : w.instr = i <;> simp [h]

/-- An instruction that has not begun to wait takes this cycle as its start. -/
theorem startOf_none (s : State) (i : Instr) (h : s.ctx.wait = none) : startOf s i = s.cycle := by
  simp [startOf, h]

/-- With a limit of 0 an instruction that has not begun to wait has waited its limit. -/
theorem expired_zero (s : State) (i : Instr) : expired s i 0 = true := by simp [expired]

/-! Checks. -/

/-- At a privilege that suffices an instruction goes on. -/
theorem needPriv_met (s : State) (p : Priv) (i : Instr) (k : Out) (h : p.code ≤ s.ctx.priv.code) : needPriv s p i k = k := by
  simp [needPriv, Nat.not_lt.mpr h]

/-- Below it, it traps with PRIV and its first word. -/
theorem needPriv_unmet (s : State) (p : Priv) (i : Instr) (k : Out) (h : s.ctx.priv.code < p.code) :
    needPriv s p i k = .next (trapPriv s (firstWord i)) := by
  simp [needPriv, h]

/-- On a thread an instruction on tenant resources goes on. -/
theorem onThread_thread (s : State) (rd : Reg) (k : Out) (h : s.isThread = true) : onThread s rd k = k := by simp [onThread, h]

/-- Elsewhere it answers DENIED (R397). -/
theorem onThread_other (s : State) (rd : Reg) (k : Out) (h : s.isThread = false) :
    onThread s rd k = .next (s.setCtx ({ s.ctx.put rd 4 with retired := s.ctx.retired + 1 }.advance 4)) := by
  simp only [onThread, h, Bool.false_eq_true, if_false]
  exact status_eq ..

/-! Transfers of control (R23). -/

/-- A branch or jump changes the pc, RETIRED and the issue state of its context. -/
theorem retireTo_ctx (s : State) (pc : Word) :
    retireTo s pc = s.setCtx { s.ctx with retired := s.ctx.retired + 1, pc := pc, wait := none } := rfl

/-- A trap at the current instruction (R18): EPC and FBYTE are its address, and only the issuing context differs. -/
theorem trapHere_ctx (s : State) (cause : Nat) (faddr einfo : Word) :
    let t := trapHere s cause faddr einfo
    t = s.setCtx t.ctx ∧ t.ctx.epc = s.ctx.pc &&& ~~~3#64 ∧ t.ctx.fbyte = s.ctx.pc ∧
    t.ctx.ecause = BitVec.ofNat 64 cause ∧ t.ctx.faddr = faddr ∧ t.ctx.einfo = einfo ∧ t.ctx.pc = s.trapVector s.cur ∧
    t.ctx.regs = s.ctx.regs := by
  have h := takeTrap_only s s.cur cause s.ctx.pc s.ctx.pc faddr einfo
  have c := takeTrap_ctx s s.cur cause s.ctx.pc s.ctx.pc faddr einfo
  have hc : (trapHere s cause faddr einfo).ctx = (trapHere s cause faddr einfo).ctxOf s.cur := by
    unfold trapHere
    rw [h]
    cases hk : s.cur <;> simp [State.ctx, State.setCtxOf, State.setThread, State.setLodge, State.setPlot, hk]
  refine ⟨?_, ?_⟩
  · rw [hc]; exact h
  · rw [hc]; exact ⟨c.1, c.2.1, c.2.2.1, c.2.2.2.1, c.2.2.2.2.1, c.2.2.2.2.2.2.2.1, c.2.2.2.2.2.2.2.2.1⟩

end Sys2Proof.Machine
end

