-- ==== Sys2Proof/Laws/Memory.lean ====
section
/-! SUPPORT. What the shared operations over global memory do: a store performed at its home, issued stores performed in
order, and that each keeps the canonical form. -/

namespace Sys2Proof

namespace Tbl

variable {α : Type}

/-- A key taken out is not listed. -/
@[simp] theorem get?_del_same (t : Tbl α) (k : Nat) : get? (del t k) k = none := by
  induction t with
  | nil => rfl
  | cons e t ih =>
    unfold del at *
    by_cases h : e.1 = k <;> simp [h, get?, ih]

/-- Another key stands as it did. -/
theorem get?_del_other (t : Tbl α) {k j : Nat} (h : j ≠ k) : get? (del t k) j = get? t j := by
  induction t with
  | nil => rfl
  | cons e t ih =>
    unfold del at *
    by_cases hk : e.1 = k
    · have : e.1 ≠ j := fun x => h (x ▸ hk)
      simp [hk, get?, ih, Ne.symm h]
    · by_cases hj : e.1 = j <;> simp [List.filter_cons, hk, hj, get?, ih]
      simp [← hj, hk, get?]

/-- Every entry changed by a function reads as the function of what it read. -/
theorem get?_mapVals (f : Nat → α → α) (t : Tbl α) (k : Nat) : get? (mapVals f t) k = (get? t k).map (f k) := by
  induction t with
  | nil => rfl
  | cons e t ih =>
    unfold mapVals at *
    by_cases h : e.1 = k
    · subst h; simp [get?]
    · simp [get?, h, ih]

end Tbl

namespace Machine

/-! One store performed. -/

/-- Making room in a derived unit changes regions, nothing else. -/
theorem makeRoom_eq (s : State) (p : Pend) : makeRoom s p = { s with regions := (makeRoom s p).regions } := by
  unfold makeRoom; split <;> rfl

@[simp] theorem makeRoom_mem (s : State) (p : Pend) : (makeRoom s p).mem = s.mem := by rw [makeRoom_eq]

@[simp] theorem performStore_mem (s : State) (p : Pend) : (performStore s p).mem = Mem.write s.mem p.spa p.bytes := by
  simp [performStore]

/-- A performed store changes memory, the derived regions' queues and what the host holds, nothing else. -/
theorem performStore_frame (s : State) (p : Pend) :
    { performStore s p with mem := s.mem, regions := s.regions, hostHeld := s.hostHeld } = s := by
  unfold performStore; rw [makeRoom_eq]

/-- A performed store keeps the canonical form. -/
theorem performStore_memOk (s : State) (p : Pend) (h : s.memOk = true) : (performStore s p).memOk = true := by
  have hf : { performStore s p with mem := s.mem, regions := s.regions, hostHeld := s.hostHeld } = s := performStore_frame s p
  have hs := congrArg State.sram hf
  have hi := congrArg State.imem hf
  simp only [State.memOk, Bool.and_eq_true, performStore_mem] at h hs hi ⊢
  rw [hs, hi]
  exact ⟨⟨Mem.wf_write _ _ _ h.1.1, h.1.2⟩, h.2⟩

/-- A byte outside a performed store reads as before. -/
theorem performStore_outside (s : State) (p : Pend) (h : Mem.wf s.mem = true) {a : Nat}
    (ha : a < p.spa ∨ p.spa + p.bytes.length ≤ a) : Mem.get (performStore s p).mem a = Mem.get s.mem a := by
  rw [performStore_mem]; exact Mem.get_write_outside _ _ _ h ha

/-! Stores performed in order. -/

/-- Performing a list of stores keeps what performing one keeps. -/
theorem performAll_keeps (P : State → Prop) (hP : ∀ s p, P s → P (performStore s p)) (l : List Pend) (s : State)
    (h : P s) : P (l.foldl performStore s) := by
  induction l generalizing s with
  | nil => exact h
  | cons p l ih => exact ih _ (hP s p h)

/-- The memory after a list of stores is theirs, written in order. -/
theorem performAll_mem (l : List Pend) (s : State) :
    (l.foldl performStore s).mem = l.foldl (fun m p => Mem.write m p.spa p.bytes) s.mem := by
  induction l generalizing s with
  | nil => rfl
  | cons p l ih => rw [List.foldl_cons, ih, performStore_mem, List.foldl_cons]

/-- Performing stores changes memory, the derived regions' queues and what the host holds, nothing else. -/
theorem performAll_frame (l : List Pend) (s : State) :
    { l.foldl performStore s with mem := s.mem, regions := s.regions, hostHeld := s.hostHeld } = s := by
  induction l generalizing s with
  | nil => rfl
  | cons p l ih =>
    exact (congrArg (fun t : State => { t with mem := s.mem, regions := s.regions, hostHeld := s.hostHeld })
      (ih (performStore s p))).trans (performStore_frame s p)

/-- Performing the issued stores that satisfy a condition, with those they must follow, changes memory, the list of issued
stores, the derived regions' queues and what the host holds, nothing else. -/
theorem performIf_frame (s : State) (f : Pend → Bool) :
    { performIf s f with mem := s.mem, regions := s.regions, hostHeld := s.hostHeld, pend := s.pend } = s :=
  congrArg (fun t : State => { t with pend := s.pend })
    (performAll_frame (drainSet s.pend f) { s with pend := s.pend.filter fun p => !(drainSet s.pend f).contains p })

/-- What stays issued. -/
theorem performIf_pend (s : State) (f : Pend → Bool) :
    (performIf s f).pend = s.pend.filter fun p => !(drainSet s.pend f).contains p :=
  congrArg State.pend
    (performAll_frame (drainSet s.pend f) { s with pend := s.pend.filter fun p => !(drainSet s.pend f).contains p })

/-- Every store that satisfies the condition is performed. -/
theorem mem_drainSet (l : List Pend) (f : Pend → Bool) {p : Pend} (hp : p ∈ l) (hf : f p = true) : p ∈ drainSet l f := by
  induction l with
  | nil => cases hp
  | cons q l ih =>
    simp only [drainSet, List.foldr_cons] at ih ⊢
    rcases List.mem_cons.mp hp with rfl | hq
    · simp [hf]
    · have := ih hq
      split
      · exact List.mem_cons_of_mem _ this
      · exact this

/-- None of them stays issued. -/
theorem performIf_none (s : State) (f : Pend → Bool) : ∀ p ∈ (performIf s f).pend, f p = false := by
  intro p hp
  rw [performIf_pend, List.mem_filter] at hp
  cases hf : f p with
  | false => rfl
  | true => simp [mem_drainSet s.pend f hp.1 hf] at hp

/-- Performing issued stores keeps the canonical form. -/
theorem performIf_memOk (s : State) (f : Pend → Bool) (h : s.memOk = true) : (performIf s f).memOk = true :=
  performAll_keeps (fun s => s.memOk = true) performStore_memOk _ _ h

/-- A release changes memory, the list of issued stores, the derived regions' queues and what the host holds, nothing else. -/
theorem drainIf_frame (s : State) (f : Pend → Bool) :
    { drainIf s f with mem := s.mem, regions := s.regions, hostHeld := s.hostHeld, pend := s.pend } = s := performIf_frame s _

/-- A release leaves issued none of its stores that is homed here. -/
theorem drainIf_none (s : State) (f : Pend → Bool) : ∀ p ∈ (drainIf s f).pend, f p = true → s.isLocal p.spa = false := by
  intro p hp hf
  simpa [hf] using performIf_none s _ p hp

/-- A release keeps the canonical form. -/
theorem drainIf_memOk (s : State) (f : Pend → Bool) (h : s.memOk = true) : (drainIf s f).memOk = true := performIf_memOk s _ h

/-- A party's release leaves it no issued store that is homed here. -/
theorem drainParty_none (s : State) (h : Holder) : ∀ p ∈ (drainParty s h).pend, p.party = h → s.isLocal p.spa = false :=
  fun p hp e => drainIf_none s _ p hp (by simp [e])

/-- A store sent over the links or not, memory stands. -/
@[simp] theorem sendFlit_mem (s : State) (f : Flit) : (sendFlit s f).mem = s.mem := rfl

/-- An issued store waits: memory stands. -/
theorem issueStore_mem (s : State) (h : Holder) (v a : Nat) (va : Word) (spa : Nat) (bs : List Byte) (l : Option Nat) :
    (issueStore s h v a va spa bs l).mem = s.mem := by
  unfold issueStore
  split <;> rfl

/-- Reset memory is in canonical form. -/
theorem reset_memOk : State.reset.memOk = true := rfl

end Machine

end Sys2Proof
end

