-- ==== Sys2Proof/Laws/PerInstr.lean ====
section
/-! SUPPORT. The shape of every instruction's encoding (R15, R18), one lemma per constructor: the first word of a control
instruction has a length, and its LEN field tells how many words follow it. An event has no encoding. -/

namespace Sys2Proof.Laws.EncodeLength

/-- The encoding of `i`, if it has one, begins with a word that has a length, which is the encoding's. -/
def Statement (i : Instr) : Prop :=
  i.isControl = true → hasLength (firstWord i) = true ∧ (encode i).length = 1 + fLen (firstWord i)

/-- Words whose first has an assigned major opcode and the LEN that counts the others have the stated shape. -/
theorem shape (w : BitVec 32) (rest : List (BitVec 32)) (m l : Nat) (hm : fMaj w = m) (hl : fLen w = l)
    (h : (m != 0 && decide (m < 0x34) && l != 3) = true) (hr : rest.length = l) :
    hasLength w = true ∧ (w :: rest).length = 1 + fLen w := by
  subst hm hl
  exact ⟨h, by rw [List.length_cons, hr, Nat.add_comm]⟩

theorem aluAdd (d : Reg) (a : Reg) (b : Reg) : Statement (.aluAdd d a b) :=
  fun _ => shape (encR 0x01 d a b 0 0 0) [] 0x01 0 (encR_fMaj ..) (encR_fLen ..) rfl rfl

theorem aluSub (d : Reg) (a : Reg) (b : Reg) : Statement (.aluSub d a b) :=
  fun _ => shape (encR 0x01 d a b 1 0 0) [] 0x01 0 (encR_fMaj ..) (encR_fLen ..) rfl rfl

theorem aluAnd (d : Reg) (a : Reg) (b : Reg) : Statement (.aluAnd d a b) :=
  fun _ => shape (encR 0x01 d a b 2 0 0) [] 0x01 0 (encR_fMaj ..) (encR_fLen ..) rfl rfl

theorem aluOr (d : Reg) (a : Reg) (b : Reg) : Statement (.aluOr d a b) :=
  fun _ => shape (encR 0x01 d a b 3 0 0) [] 0x01 0 (encR_fMaj ..) (encR_fLen ..) rfl rfl

theorem aluXor (d : Reg) (a : Reg) (b : Reg) : Statement (.aluXor d a b) :=
  fun _ => shape (encR 0x01 d a b 4 0 0) [] 0x01 0 (encR_fMaj ..) (encR_fLen ..) rfl rfl

theorem aluSll (d : Reg) (a : Reg) (b : Reg) : Statement (.aluSll d a b) :=
  fun _ => shape (encR 0x01 d a b 5 0 0) [] 0x01 0 (encR_fMaj ..) (encR_fLen ..) rfl rfl

theorem aluSrl (d : Reg) (a : Reg) (b : Reg) : Statement (.aluSrl d a b) :=
  fun _ => shape (encR 0x01 d a b 6 0 0) [] 0x01 0 (encR_fMaj ..) (encR_fLen ..) rfl rfl

theorem aluSra (d : Reg) (a : Reg) (b : Reg) : Statement (.aluSra d a b) :=
  fun _ => shape (encR 0x01 d a b 7 0 0) [] 0x01 0 (encR_fMaj ..) (encR_fLen ..) rfl rfl

theorem aluSlt (d : Reg) (a : Reg) (b : Reg) : Statement (.aluSlt d a b) :=
  fun _ => shape (encR 0x01 d a b 8 0 0) [] 0x01 0 (encR_fMaj ..) (encR_fLen ..) rfl rfl

theorem aluSltu (d : Reg) (a : Reg) (b : Reg) : Statement (.aluSltu d a b) :=
  fun _ => shape (encR 0x01 d a b 9 0 0) [] 0x01 0 (encR_fMaj ..) (encR_fLen ..) rfl rfl

theorem aluMin (d : Reg) (a : Reg) (b : Reg) : Statement (.aluMin d a b) :=
  fun _ => shape (encR 0x01 d a b 10 0 0) [] 0x01 0 (encR_fMaj ..) (encR_fLen ..) rfl rfl

theorem aluMax (d : Reg) (a : Reg) (b : Reg) : Statement (.aluMax d a b) :=
  fun _ => shape (encR 0x01 d a b 11 0 0) [] 0x01 0 (encR_fMaj ..) (encR_fLen ..) rfl rfl

theorem aluMinu (d : Reg) (a : Reg) (b : Reg) : Statement (.aluMinu d a b) :=
  fun _ => shape (encR 0x01 d a b 12 0 0) [] 0x01 0 (encR_fMaj ..) (encR_fLen ..) rfl rfl

theorem aluMaxu (d : Reg) (a : Reg) (b : Reg) : Statement (.aluMaxu d a b) :=
  fun _ => shape (encR 0x01 d a b 13 0 0) [] 0x01 0 (encR_fMaj ..) (encR_fLen ..) rfl rfl

theorem aluMul (d : Reg) (a : Reg) (b : Reg) : Statement (.aluMul d a b) :=
  fun _ => shape (encR 0x01 d a b 14 0 0) [] 0x01 0 (encR_fMaj ..) (encR_fLen ..) rfl rfl

theorem aluMulh (d : Reg) (a : Reg) (b : Reg) : Statement (.aluMulh d a b) :=
  fun _ => shape (encR 0x01 d a b 15 0 0) [] 0x01 0 (encR_fMaj ..) (encR_fLen ..) rfl rfl

theorem aluMulhu (d : Reg) (a : Reg) (b : Reg) : Statement (.aluMulhu d a b) :=
  fun _ => shape (encR 0x01 d a b 16 0 0) [] 0x01 0 (encR_fMaj ..) (encR_fLen ..) rfl rfl

theorem aluDiv (d : Reg) (a : Reg) (b : Reg) : Statement (.aluDiv d a b) :=
  fun _ => shape (encR 0x01 d a b 17 0 0) [] 0x01 0 (encR_fMaj ..) (encR_fLen ..) rfl rfl

theorem aluDivu (d : Reg) (a : Reg) (b : Reg) : Statement (.aluDivu d a b) :=
  fun _ => shape (encR 0x01 d a b 18 0 0) [] 0x01 0 (encR_fMaj ..) (encR_fLen ..) rfl rfl

theorem aluRem (d : Reg) (a : Reg) (b : Reg) : Statement (.aluRem d a b) :=
  fun _ => shape (encR 0x01 d a b 19 0 0) [] 0x01 0 (encR_fMaj ..) (encR_fLen ..) rfl rfl

theorem aluRemu (d : Reg) (a : Reg) (b : Reg) : Statement (.aluRemu d a b) :=
  fun _ => shape (encR 0x01 d a b 20 0 0) [] 0x01 0 (encR_fMaj ..) (encR_fLen ..) rfl rfl

theorem clz (d : Reg) (a : Reg) : Statement (.clz d a) :=
  fun _ => shape (encR 0x01 d a 0 21 0 0) [] 0x01 0 (encR_fMaj ..) (encR_fLen ..) rfl rfl

theorem ctz (d : Reg) (a : Reg) : Statement (.ctz d a) :=
  fun _ => shape (encR 0x01 d a 0 22 0 0) [] 0x01 0 (encR_fMaj ..) (encR_fLen ..) rfl rfl

theorem popc (d : Reg) (a : Reg) : Statement (.popc d a) :=
  fun _ => shape (encR 0x01 d a 0 23 0 0) [] 0x01 0 (encR_fMaj ..) (encR_fLen ..) rfl rfl

theorem addi (d : Reg) (a : Reg) (i : Imm14) : Statement (.addi d a i) :=
  fun _ => shape (encI 0x2 d a i 0) [] 0x2 0 (encI_fMaj ..) (encI_fLen ..) rfl rfl

theorem addiExt (d : Reg) (a : Reg) (e : Ext) : Statement (.addiExt d a e) :=
  fun _ => shape (encI 0x2 d a 0 e.lenField) e.words 0x2 _ (encI_fMaj ..) (encI_fLen ..) (by cases e <;> rfl) e.words_length

theorem andi (d : Reg) (a : Reg) (i : Imm14) : Statement (.andi d a i) :=
  fun _ => shape (encI 0x3 d a i 0) [] 0x3 0 (encI_fMaj ..) (encI_fLen ..) rfl rfl

theorem andiExt (d : Reg) (a : Reg) (e : Ext) : Statement (.andiExt d a e) :=
  fun _ => shape (encI 0x3 d a 0 e.lenField) e.words 0x3 _ (encI_fMaj ..) (encI_fLen ..) (by cases e <;> rfl) e.words_length

theorem ori (d : Reg) (a : Reg) (i : Imm14) : Statement (.ori d a i) :=
  fun _ => shape (encI 0x4 d a i 0) [] 0x4 0 (encI_fMaj ..) (encI_fLen ..) rfl rfl

theorem oriExt (d : Reg) (a : Reg) (e : Ext) : Statement (.oriExt d a e) :=
  fun _ => shape (encI 0x4 d a 0 e.lenField) e.words 0x4 _ (encI_fMaj ..) (encI_fLen ..) (by cases e <;> rfl) e.words_length

theorem xori (d : Reg) (a : Reg) (i : Imm14) : Statement (.xori d a i) :=
  fun _ => shape (encI 0x5 d a i 0) [] 0x5 0 (encI_fMaj ..) (encI_fLen ..) rfl rfl

theorem xoriExt (d : Reg) (a : Reg) (e : Ext) : Statement (.xoriExt d a e) :=
  fun _ => shape (encI 0x5 d a 0 e.lenField) e.words 0x5 _ (encI_fMaj ..) (encI_fLen ..) (by cases e <;> rfl) e.words_length

theorem slti (d : Reg) (a : Reg) (i : Imm14) : Statement (.slti d a i) :=
  fun _ => shape (encI 0x7 d a i 0) [] 0x7 0 (encI_fMaj ..) (encI_fLen ..) rfl rfl

theorem sltiExt (d : Reg) (a : Reg) (e : Ext) : Statement (.sltiExt d a e) :=
  fun _ => shape (encI 0x7 d a 0 e.lenField) e.words 0x7 _ (encI_fMaj ..) (encI_fLen ..) (by cases e <;> rfl) e.words_length

theorem slli (d : Reg) (a : Reg) (s : BitVec 6) : Statement (.slli d a s) :=
  fun _ => shape (encI 0x06 d a (0#2 ++ 0#6 ++ s) 0) [] 0x06 0 (encI_fMaj ..) (encI_fLen ..) rfl rfl

theorem srli (d : Reg) (a : Reg) (s : BitVec 6) : Statement (.srli d a s) :=
  fun _ => shape (encI 0x06 d a (1#2 ++ 0#6 ++ s) 0) [] 0x06 0 (encI_fMaj ..) (encI_fLen ..) rfl rfl

theorem srai (d : Reg) (a : Reg) (s : BitVec 6) : Statement (.srai d a s) :=
  fun _ => shape (encI 0x06 d a (2#2 ++ 0#6 ++ s) 0) [] 0x06 0 (encI_fMaj ..) (encI_fLen ..) rfl rfl

theorem beq (a : Reg) (b : Reg) (o : Imm14) : Statement (.beq a b o) :=
  fun _ => shape (encI 0x8 a b o 0) [] 0x8 0 (encI_fMaj ..) (encI_fLen ..) rfl rfl

theorem beqExt (a : Reg) (b : Reg) (e : BitVec 32) : Statement (.beqExt a b e) :=
  fun _ => shape (encI 0x8 a b 0 1) [e] 0x8 1 (encI_fMaj ..) (encI_fLen ..) rfl rfl

theorem bne (a : Reg) (b : Reg) (o : Imm14) : Statement (.bne a b o) :=
  fun _ => shape (encI 0x9 a b o 0) [] 0x9 0 (encI_fMaj ..) (encI_fLen ..) rfl rfl

theorem bneExt (a : Reg) (b : Reg) (e : BitVec 32) : Statement (.bneExt a b e) :=
  fun _ => shape (encI 0x9 a b 0 1) [e] 0x9 1 (encI_fMaj ..) (encI_fLen ..) rfl rfl

theorem blt (a : Reg) (b : Reg) (o : Imm14) : Statement (.blt a b o) :=
  fun _ => shape (encI 0xa a b o 0) [] 0xa 0 (encI_fMaj ..) (encI_fLen ..) rfl rfl

theorem bltExt (a : Reg) (b : Reg) (e : BitVec 32) : Statement (.bltExt a b e) :=
  fun _ => shape (encI 0xa a b 0 1) [e] 0xa 1 (encI_fMaj ..) (encI_fLen ..) rfl rfl

theorem bge (a : Reg) (b : Reg) (o : Imm14) : Statement (.bge a b o) :=
  fun _ => shape (encI 0xb a b o 0) [] 0xb 0 (encI_fMaj ..) (encI_fLen ..) rfl rfl

theorem bgeExt (a : Reg) (b : Reg) (e : BitVec 32) : Statement (.bgeExt a b e) :=
  fun _ => shape (encI 0xb a b 0 1) [e] 0xb 1 (encI_fMaj ..) (encI_fLen ..) rfl rfl

theorem bltu (a : Reg) (b : Reg) (o : Imm14) : Statement (.bltu a b o) :=
  fun _ => shape (encI 0xc a b o 0) [] 0xc 0 (encI_fMaj ..) (encI_fLen ..) rfl rfl

theorem bltuExt (a : Reg) (b : Reg) (e : BitVec 32) : Statement (.bltuExt a b e) :=
  fun _ => shape (encI 0xc a b 0 1) [e] 0xc 1 (encI_fMaj ..) (encI_fLen ..) rfl rfl

theorem bgeu (a : Reg) (b : Reg) (o : Imm14) : Statement (.bgeu a b o) :=
  fun _ => shape (encI 0xd a b o 0) [] 0xd 0 (encI_fMaj ..) (encI_fLen ..) rfl rfl

theorem bgeuExt (a : Reg) (b : Reg) (e : BitVec 32) : Statement (.bgeuExt a b e) :=
  fun _ => shape (encI 0xd a b 0 1) [e] 0xd 1 (encI_fMaj ..) (encI_fLen ..) rfl rfl

theorem jmp (o : BitVec 24) : Statement (.jmp o) :=
  fun _ => shape (encJ 0x0e o 0) [] 0x0e 0 (encJ_fMaj ..) (encJ_fLen ..) rfl rfl

theorem jal (o : BitVec 24) : Statement (.jal o) :=
  fun _ => shape (encJ 0x0f o 0) [] 0x0f 0 (encJ_fMaj ..) (encJ_fLen ..) rfl rfl

theorem jalr (d : Reg) (a : Reg) (i : Imm14) : Statement (.jalr d a i) :=
  fun _ => shape (encI 0x10 d a i 0) [] 0x10 0 (encI_fMaj ..) (encI_fLen ..) rfl rfl

theorem jalrExt (d : Reg) (a : Reg) (e : BitVec 32) : Statement (.jalrExt d a e) :=
  fun _ => shape (encI 0x10 d a 0 1) [e] 0x10 1 (encI_fMaj ..) (encI_fLen ..) rfl rfl

theorem rpt (a : Reg) (n : BitVec 4) : Statement (.rpt a n) :=
  fun _ => shape (encR 0x11 0 a 0 0 n 0) [] 0x11 0 (encR_fMaj ..) (encR_fLen ..) rfl rfl

theorem rptImm (n : BitVec 4) (e : BitVec 32) : Statement (.rptImm n e) :=
  fun _ => shape (encR 0x11 0 0 0 0 n 1) [e] 0x11 1 (encR_fMaj ..) (encR_fLen ..) rfl rfl

theorem when (c : Cond) (a : Reg) (n : BitVec 4) : Statement (.when c a n) :=
  fun _ => shape (encR 0x11 c.code a 0 1 n 0) [] 0x11 0 (encR_fMaj ..) (encR_fLen ..) rfl rfl

theorem ldb (d : Reg) (a : Reg) (i : Imm14) : Statement (.ldb d a i) :=
  fun _ => shape (encI 0x12 d a i 0) [] 0x12 0 (encI_fMaj ..) (encI_fLen ..) rfl rfl

theorem ldbExt (d : Reg) (a : Reg) (e : Ext) : Statement (.ldbExt d a e) :=
  fun _ => shape (encI 0x12 d a 0 e.lenField) e.words 0x12 _ (encI_fMaj ..) (encI_fLen ..) (by cases e <;> rfl) e.words_length

theorem ldbu (d : Reg) (a : Reg) (i : Imm14) : Statement (.ldbu d a i) :=
  fun _ => shape (encI 0x13 d a i 0) [] 0x13 0 (encI_fMaj ..) (encI_fLen ..) rfl rfl

theorem ldbuExt (d : Reg) (a : Reg) (e : Ext) : Statement (.ldbuExt d a e) :=
  fun _ => shape (encI 0x13 d a 0 e.lenField) e.words 0x13 _ (encI_fMaj ..) (encI_fLen ..) (by cases e <;> rfl) e.words_length

theorem ldh (d : Reg) (a : Reg) (i : Imm14) : Statement (.ldh d a i) :=
  fun _ => shape (encI 0x14 d a i 0) [] 0x14 0 (encI_fMaj ..) (encI_fLen ..) rfl rfl

theorem ldhExt (d : Reg) (a : Reg) (e : Ext) : Statement (.ldhExt d a e) :=
  fun _ => shape (encI 0x14 d a 0 e.lenField) e.words 0x14 _ (encI_fMaj ..) (encI_fLen ..) (by cases e <;> rfl) e.words_length

theorem ldhu (d : Reg) (a : Reg) (i : Imm14) : Statement (.ldhu d a i) :=
  fun _ => shape (encI 0x15 d a i 0) [] 0x15 0 (encI_fMaj ..) (encI_fLen ..) rfl rfl

theorem ldhuExt (d : Reg) (a : Reg) (e : Ext) : Statement (.ldhuExt d a e) :=
  fun _ => shape (encI 0x15 d a 0 e.lenField) e.words 0x15 _ (encI_fMaj ..) (encI_fLen ..) (by cases e <;> rfl) e.words_length

theorem ldw (d : Reg) (a : Reg) (i : Imm14) : Statement (.ldw d a i) :=
  fun _ => shape (encI 0x16 d a i 0) [] 0x16 0 (encI_fMaj ..) (encI_fLen ..) rfl rfl

theorem ldwExt (d : Reg) (a : Reg) (e : Ext) : Statement (.ldwExt d a e) :=
  fun _ => shape (encI 0x16 d a 0 e.lenField) e.words 0x16 _ (encI_fMaj ..) (encI_fLen ..) (by cases e <;> rfl) e.words_length

theorem ldwu (d : Reg) (a : Reg) (i : Imm14) : Statement (.ldwu d a i) :=
  fun _ => shape (encI 0x17 d a i 0) [] 0x17 0 (encI_fMaj ..) (encI_fLen ..) rfl rfl

theorem ldwuExt (d : Reg) (a : Reg) (e : Ext) : Statement (.ldwuExt d a e) :=
  fun _ => shape (encI 0x17 d a 0 e.lenField) e.words 0x17 _ (encI_fMaj ..) (encI_fLen ..) (by cases e <;> rfl) e.words_length

theorem ldd (d : Reg) (a : Reg) (i : Imm14) : Statement (.ldd d a i) :=
  fun _ => shape (encI 0x18 d a i 0) [] 0x18 0 (encI_fMaj ..) (encI_fLen ..) rfl rfl

theorem lddExt (d : Reg) (a : Reg) (e : Ext) : Statement (.lddExt d a e) :=
  fun _ => shape (encI 0x18 d a 0 e.lenField) e.words 0x18 _ (encI_fMaj ..) (encI_fLen ..) (by cases e <;> rfl) e.words_length

theorem ldq (d : Reg) (a : Reg) (o : BitVec 13) (s : Bool) : Statement (.ldq d a o s) :=
  fun _ => shape (encQ 0x19 d a o s 0) [] 0x19 0 (encQ_fMaj ..) (encQ_fLen ..) rfl rfl

theorem ldqExt (d : Reg) (a : Reg) (s : Bool) (e : Ext) : Statement (.ldqExt d a s e) :=
  fun _ => shape (encQ 0x19 d a 0 s e.lenField) e.words 0x19 _ (encQ_fMaj ..) (encQ_fLen ..) (by cases e <;> rfl) e.words_length

theorem stb (d : Reg) (a : Reg) (i : Imm14) : Statement (.stb d a i) :=
  fun _ => shape (encI 0x1a d a i 0) [] 0x1a 0 (encI_fMaj ..) (encI_fLen ..) rfl rfl

theorem stbExt (d : Reg) (a : Reg) (e : Ext) : Statement (.stbExt d a e) :=
  fun _ => shape (encI 0x1a d a 0 e.lenField) e.words 0x1a _ (encI_fMaj ..) (encI_fLen ..) (by cases e <;> rfl) e.words_length

theorem sth (d : Reg) (a : Reg) (i : Imm14) : Statement (.sth d a i) :=
  fun _ => shape (encI 0x1b d a i 0) [] 0x1b 0 (encI_fMaj ..) (encI_fLen ..) rfl rfl

theorem sthExt (d : Reg) (a : Reg) (e : Ext) : Statement (.sthExt d a e) :=
  fun _ => shape (encI 0x1b d a 0 e.lenField) e.words 0x1b _ (encI_fMaj ..) (encI_fLen ..) (by cases e <;> rfl) e.words_length

theorem stw (d : Reg) (a : Reg) (i : Imm14) : Statement (.stw d a i) :=
  fun _ => shape (encI 0x1c d a i 0) [] 0x1c 0 (encI_fMaj ..) (encI_fLen ..) rfl rfl

theorem stwExt (d : Reg) (a : Reg) (e : Ext) : Statement (.stwExt d a e) :=
  fun _ => shape (encI 0x1c d a 0 e.lenField) e.words 0x1c _ (encI_fMaj ..) (encI_fLen ..) (by cases e <;> rfl) e.words_length

theorem std (d : Reg) (a : Reg) (i : Imm14) : Statement (.std d a i) :=
  fun _ => shape (encI 0x1d d a i 0) [] 0x1d 0 (encI_fMaj ..) (encI_fLen ..) rfl rfl

theorem stdExt (d : Reg) (a : Reg) (e : Ext) : Statement (.stdExt d a e) :=
  fun _ => shape (encI 0x1d d a 0 e.lenField) e.words 0x1d _ (encI_fMaj ..) (encI_fLen ..) (by cases e <;> rfl) e.words_length

theorem stq (d : Reg) (a : Reg) (o : BitVec 13) (s : Bool) : Statement (.stq d a o s) :=
  fun _ => shape (encQ 0x1e d a o s 0) [] 0x1e 0 (encQ_fMaj ..) (encQ_fLen ..) rfl rfl

theorem stqExt (d : Reg) (a : Reg) (s : Bool) (e : Ext) : Statement (.stqExt d a s e) :=
  fun _ => shape (encQ 0x1e d a 0 s e.lenField) e.words 0x1e _ (encQ_fMaj ..) (encQ_fLen ..) (by cases e <;> rfl) e.words_length

theorem tld (d : Reg) (o : Reg) (h : BitVec 8) (s : AccSize) : Statement (.tld d o h s) :=
  fun _ => shape (encT 0x1f d o h s 0) [] 0x1f 0 (encT_fMaj ..) (encT_fLen ..) rfl rfl

theorem tldExt (d : Reg) (o : Reg) (h : BitVec 8) (s : AccSize) (e : BitVec 32) : Statement (.tldExt d o h s e) :=
  fun _ => shape (encT 0x1f d o h s 1) [e] 0x1f 1 (encT_fMaj ..) (encT_fLen ..) rfl rfl

theorem tst (d : Reg) (o : Reg) (h : BitVec 8) (s : AccSize) : Statement (.tst d o h s) :=
  fun _ => shape (encT 0x20 d o h s 0) [] 0x20 0 (encT_fMaj ..) (encT_fLen ..) rfl rfl

theorem tstExt (d : Reg) (o : Reg) (h : BitVec 8) (s : AccSize) (e : BitVec 32) : Statement (.tstExt d o h s e) :=
  fun _ => shape (encT 0x20 d o h s 1) [e] 0x20 1 (encT_fMaj ..) (encT_fLen ..) rfl rfl

theorem amoAdd (d : Reg) (a : Reg) (b : Reg) (r : Bool) (w : Bool) (o : AmoOrder) : Statement (.amoAdd d a b r w o) :=
  fun _ => shape (encAmo 0 d a b r w o) [] 0x21 0 (encAmo_fMaj ..) (encAmo_fLen ..) rfl rfl

theorem amoAnd (d : Reg) (a : Reg) (b : Reg) (r : Bool) (w : Bool) (o : AmoOrder) : Statement (.amoAnd d a b r w o) :=
  fun _ => shape (encAmo 1 d a b r w o) [] 0x21 0 (encAmo_fMaj ..) (encAmo_fLen ..) rfl rfl

theorem amoOr (d : Reg) (a : Reg) (b : Reg) (r : Bool) (w : Bool) (o : AmoOrder) : Statement (.amoOr d a b r w o) :=
  fun _ => shape (encAmo 2 d a b r w o) [] 0x21 0 (encAmo_fMaj ..) (encAmo_fLen ..) rfl rfl

theorem amoXor (d : Reg) (a : Reg) (b : Reg) (r : Bool) (w : Bool) (o : AmoOrder) : Statement (.amoXor d a b r w o) :=
  fun _ => shape (encAmo 3 d a b r w o) [] 0x21 0 (encAmo_fMaj ..) (encAmo_fLen ..) rfl rfl

theorem amoMin (d : Reg) (a : Reg) (b : Reg) (r : Bool) (w : Bool) (o : AmoOrder) : Statement (.amoMin d a b r w o) :=
  fun _ => shape (encAmo 4 d a b r w o) [] 0x21 0 (encAmo_fMaj ..) (encAmo_fLen ..) rfl rfl

theorem amoMax (d : Reg) (a : Reg) (b : Reg) (r : Bool) (w : Bool) (o : AmoOrder) : Statement (.amoMax d a b r w o) :=
  fun _ => shape (encAmo 5 d a b r w o) [] 0x21 0 (encAmo_fMaj ..) (encAmo_fLen ..) rfl rfl

theorem amoMinu (d : Reg) (a : Reg) (b : Reg) (r : Bool) (w : Bool) (o : AmoOrder) :
    Statement (.amoMinu d a b r w o) :=
  fun _ => shape (encAmo 6 d a b r w o) [] 0x21 0 (encAmo_fMaj ..) (encAmo_fLen ..) rfl rfl

theorem amoMaxu (d : Reg) (a : Reg) (b : Reg) (r : Bool) (w : Bool) (o : AmoOrder) :
    Statement (.amoMaxu d a b r w o) :=
  fun _ => shape (encAmo 7 d a b r w o) [] 0x21 0 (encAmo_fMaj ..) (encAmo_fLen ..) rfl rfl

theorem amoSwap (d : Reg) (a : Reg) (b : Reg) (r : Bool) (w : Bool) (o : AmoOrder) :
    Statement (.amoSwap d a b r w o) :=
  fun _ => shape (encAmo 8 d a b r w o) [] 0x21 0 (encAmo_fMaj ..) (encAmo_fLen ..) rfl rfl

theorem amoCas (d : Reg) (a : Reg) (b : Reg) (w : Bool) (o : AmoOrder) : Statement (.amoCas d a b w o) :=
  fun _ => shape (encAmo 9 d a b true w o) [] 0x21 0 (encAmo_fMaj ..) (encAmo_fLen ..) rfl rfl

theorem amoFadd (a : Reg) (b : Reg) (w : Bool) (o : AmoOrder) : Statement (.amoFadd a b w o) :=
  fun _ => shape (encAmo 10 0 a b false w o) [] 0x21 0 (encAmo_fMaj ..) (encAmo_fLen ..) rfl rfl

theorem fence (s : Scope) (k : FenceKind) : Statement (.fence s k) :=
  fun _ => shape (encI 0x22 0 0 (s.code ++ k.code ++ 0#8) 0) [] 0x22 0 (encI_fMaj ..) (encI_fLen ..) rfl rfl

theorem csrr (d : Reg) (n : BitVec 11) : Statement (.csrr d n) :=
  fun _ => shape (encI 0x23 d 0 (0#3 ++ n) 0) [] 0x23 0 (encI_fMaj ..) (encI_fLen ..) rfl rfl

theorem csrw (d : Reg) (a : Reg) (n : BitVec 11) : Statement (.csrw d a n) :=
  fun _ => shape (encI 0x24 d a (0#3 ++ n) 0) [] 0x24 0 (encI_fMaj ..) (encI_fLen ..) rfl rfl

theorem csrs (d : Reg) (a : Reg) (n : BitVec 11) : Statement (.csrs d a n) :=
  fun _ => shape (encI 0x25 d a (0#3 ++ n) 0) [] 0x25 0 (encI_fMaj ..) (encI_fLen ..) rfl rfl

theorem csrc (d : Reg) (a : Reg) (n : BitVec 11) : Statement (.csrc d a n) :=
  fun _ => shape (encI 0x26 d a (0#3 ++ n) 0) [] 0x26 0 (encI_fMaj ..) (encI_fLen ..) rfl rfl

theorem trap (a : Reg) : Statement (.trap a) :=
  fun _ => shape (encR 0x27 0 a 0 0 0 0) [] 0x27 0 (encR_fMaj ..) (encR_fLen ..) rfl rfl

theorem trapImm (e : BitVec 32) : Statement (.trapImm e) :=
  fun _ => shape (encR 0x27 0 0 0 0 0 1) [e] 0x27 1 (encR_fMaj ..) (encR_fLen ..) rfl rfl

theorem eret : Statement .eret :=
  fun _ => shape (encR 0x27 0 0 0 1 0 0) [] 0x27 0 (encR_fMaj ..) (encR_fLen ..) rfl rfl

theorem waitLoc (d : Reg) (a : Reg) (b : Reg) : Statement (.waitLoc d a b) :=
  fun _ => shape (encR 0x27 d a b 2 0 0) [] 0x27 0 (encR_fMaj ..) (encR_fLen ..) rfl rfl

theorem brk : Statement .brk :=
  fun _ => shape (encR 0x27 0 0 0 3 0 0) [] 0x27 0 (encR_fMaj ..) (encR_fLen ..) rfl rfl

theorem exitThread : Statement .exitThread :=
  fun _ => shape (encR 0x27 0 0 0 4 0 0) [] 0x27 0 (encR_fMaj ..) (encR_fLen ..) rfl rfl

theorem nop : Statement .nop :=
  fun _ => shape (encR 0x27 0 0 0 5 0 0) [] 0x27 0 (encR_fMaj ..) (encR_fLen ..) rfl rfl

theorem icinv (d : Reg) (a : Reg) (b : Reg) (s : IcScope) : Statement (.icinv d a b s) :=
  fun _ => shape (encR 0x27 d a b 6 (0#2 ++ s.code) 0) [] 0x27 0 (encR_fMaj ..) (encR_fLen ..) rfl rfl

theorem tlbinv (d : Reg) (a : Reg) (b : Reg) : Statement (.tlbinv d a b) :=
  fun _ => shape (encR 0x28 d a b 0 0 0) [] 0x28 0 (encR_fMaj ..) (encR_fLen ..) rfl rfl

theorem tlbinva (d : Reg) (a : Reg) : Statement (.tlbinva d a) :=
  fun _ => shape (encR 0x28 d a 0 1 0 0) [] 0x28 0 (encR_fMaj ..) (encR_fLen ..) rfl rfl

theorem tlbsync (d : Reg) (a : Reg) : Statement (.tlbsync d a) :=
  fun _ => shape (encR 0x28 d a 0 2 0 0) [] 0x28 0 (encR_fMaj ..) (encR_fLen ..) rfl rfl

theorem join (d : Reg) (a : Reg) : Statement (.join d a) :=
  fun _ => shape (encR 0x29 d a 0 0 0 0) [] 0x29 0 (encR_fMaj ..) (encR_fLen ..) rfl rfl

theorem leave (d : Reg) (a : Reg) : Statement (.leave d a) :=
  fun _ => shape (encR 0x29 d a 0 1 0 0) [] 0x29 0 (encR_fMaj ..) (encR_fLen ..) rfl rfl

theorem sbar (d : Reg) (a : Reg) : Statement (.sbar d a) :=
  fun _ => shape (encR 0x29 d a 0 2 0 0) [] 0x29 0 (encR_fMaj ..) (encR_fLen ..) rfl rfl

theorem sbind (d : Reg) (a : Reg) (b : Reg) : Statement (.sbind d a b) :=
  fun _ => shape (encR 0x2a d a b 0 0 0) [] 0x2a 0 (encR_fMaj ..) (encR_fLen ..) rfl rfl

theorem sclose (d : Reg) (a : Reg) (m : Bool) : Statement (.sclose d a m) :=
  fun _ => shape (encR 0x2a d a 0 1 (0#3 ++ BitVec.ofBool m) 0) [] 0x2a 0 (encR_fMaj ..) (encR_fLen ..) rfl rfl

theorem smark (d : Reg) (a : Reg) : Statement (.smark d a) :=
  fun _ => shape (encR 0x2a d a 0 2 0 0) [] 0x2a 0 (encR_fMaj ..) (encR_fLen ..) rfl rfl

theorem swait (d : Reg) (a : Reg) (b : Reg) : Statement (.swait d a b) :=
  fun _ => shape (encR 0x2a d a b 3 0 0) [] 0x2a 0 (encR_fMaj ..) (encR_fLen ..) rfl rfl

theorem cbar : Statement .cbar :=
  fun _ => shape (encR 0x2a 0 0 0 4 0 0) [] 0x2a 0 (encR_fMaj ..) (encR_fLen ..) rfl rfl

theorem scfg (d : Reg) (a : Reg) (b : Reg) : Statement (.scfg d a b) :=
  fun _ => shape (encR 0x2a d a b 5 0 0) [] 0x2a 0 (encR_fMaj ..) (encR_fLen ..) rfl rfl

theorem talloc (d : Reg) (a : Reg) (b : Reg) : Statement (.talloc d a b) :=
  fun _ => shape (encR 0x2b d a b 0 0 0) [] 0x2b 0 (encR_fMaj ..) (encR_fLen ..) rfl rfl

theorem tfree (d : Reg) (a : Reg) : Statement (.tfree d a) :=
  fun _ => shape (encR 0x2b d a 0 1 0 0) [] 0x2b 0 (encR_fMaj ..) (encR_fLen ..) rfl rfl

theorem tfill (d : Reg) (a : Reg) (b : Reg) : Statement (.tfill d a b) :=
  fun _ => shape (encR 0x2b d a b 2 0 0) [] 0x2b 0 (encR_fMaj ..) (encR_fLen ..) rfl rfl

theorem tdrain (d : Reg) (a : Reg) (b : Reg) : Statement (.tdrain d a b) :=
  fun _ => shape (encR 0x2b d a b 3 0 0) [] 0x2b 0 (encR_fMaj ..) (encR_fLen ..) rfl rfl

theorem tstat (d : Reg) (a : Reg) : Statement (.tstat d a) :=
  fun _ => shape (encR 0x2b d a 0 4 0 0) [] 0x2b 0 (encR_fMaj ..) (encR_fLen ..) rfl rfl

theorem twait (d : Reg) (a : Reg) (b : Reg) : Statement (.twait d a b) :=
  fun _ => shape (encR 0x2b d a b 5 0 0) [] 0x2b 0 (encR_fMaj ..) (encR_fLen ..) rfl rfl

theorem mload (d : Reg) (a : Reg) (b : Reg) : Statement (.mload d a b) :=
  fun _ => shape (encR 0x2c d a b 0 0 0) [] 0x2c 0 (encR_fMaj ..) (encR_fLen ..) rfl rfl

theorem mbind (d : Reg) (a : Reg) : Statement (.mbind d a) :=
  fun _ => shape (encR 0x2c d a 0 1 0 0) [] 0x2c 0 (encR_fMaj ..) (encR_fLen ..) rfl rfl

theorem mzero (d : Reg) (a : Reg) : Statement (.mzero d a) :=
  fun _ => shape (encR 0x2c d a 0 2 0 0) [] 0x2c 0 (encR_fMaj ..) (encR_fLen ..) rfl rfl

theorem mread (d : Reg) (a : Reg) (b : Reg) (c : Bool) (m : Bool) : Statement (.mread d a b c m) :=
  fun _ => shape (encR 0x2c d a b 3 (0#2 ++ BitVec.ofBool c ++ BitVec.ofBool m) 0) [] 0x2c 0 (encR_fMaj ..) (encR_fLen ..) rfl rfl

theorem mnorm (d : Reg) (a : Reg) : Statement (.mnorm d a) :=
  fun _ => shape (encR 0x2c d a 0 4 0 0) [] 0x2c 0 (encR_fMaj ..) (encR_fLen ..) rfl rfl

theorem mhead (d : Reg) (a : Reg) : Statement (.mhead d a) :=
  fun _ => shape (encR 0x2c d a 0 5 0 0) [] 0x2c 0 (encR_fMaj ..) (encR_fLen ..) rfl rfl

theorem ddecl (d : Reg) (a : Reg) : Statement (.ddecl d a) :=
  fun _ => shape (encR 0x2d d a 0 0 0 0) [] 0x2d 0 (encR_fMaj ..) (encR_fLen ..) rfl rfl

theorem drd (d : Reg) (a : Reg) (b : Reg) (m : Bool) : Statement (.drd d a b m) :=
  fun _ => shape (encR 0x2d d a b 1 (0#3 ++ BitVec.ofBool m) 0) [] 0x2d 0 (encR_fMaj ..) (encR_fLen ..) rfl rfl

theorem dsync (d : Reg) (a : Reg) (b : Reg) : Statement (.dsync d a b) :=
  fun _ => shape (encR 0x2d d a b 2 0 0) [] 0x2d 0 (encR_fMaj ..) (encR_fLen ..) rfl rfl

theorem dreb (d : Reg) (a : Reg) : Statement (.dreb d a) :=
  fun _ => shape (encR 0x2d d a 0 3 0 0) [] 0x2d 0 (encR_fMaj ..) (encR_fLen ..) rfl rfl

theorem ddrop (d : Reg) (a : Reg) : Statement (.ddrop d a) :=
  fun _ => shape (encR 0x2d d a 0 4 0 0) [] 0x2d 0 (encR_fMaj ..) (encR_fLen ..) rfl rfl

theorem dstat (d : Reg) (a : Reg) : Statement (.dstat d a) :=
  fun _ => shape (encR 0x2d d a 0 5 0 0) [] 0x2d 0 (encR_fMaj ..) (encR_fLen ..) rfl rfl

theorem rinit (d : Reg) (a : Reg) (b : Reg) : Statement (.rinit d a b) :=
  fun _ => shape (encR 0x2e d a b 0 0 0) [] 0x2e 0 (encR_fMaj ..) (encR_fLen ..) rfl rfl

theorem rawait (d : Reg) (a : Reg) (b : Reg) : Statement (.rawait d a b) :=
  fun _ => shape (encR 0x2e d a b 1 0 0) [] 0x2e 0 (encR_fMaj ..) (encR_fLen ..) rfl rfl

theorem rrel (d : Reg) (a : Reg) : Statement (.rrel d a) :=
  fun _ => shape (encR 0x2e d a 0 2 0 0) [] 0x2e 0 (encR_fMaj ..) (encR_fLen ..) rfl rfl

theorem rpeek (d : Reg) (a : Reg) : Statement (.rpeek d a) :=
  fun _ => shape (encR 0x2e d a 0 3 0 0) [] 0x2e 0 (encR_fMaj ..) (encR_fLen ..) rfl rfl

theorem ginit (d : Reg) (a : Reg) (b : Reg) : Statement (.ginit d a b) :=
  fun _ => shape (encR 0x2f d a b 0 0 0) [] 0x2f 0 (encR_fMaj ..) (encR_fLen ..) rfl rfl

theorem garr (d : Reg) (a : Reg) : Statement (.garr d a) :=
  fun _ => shape (encR 0x2f d a 0 1 0 0) [] 0x2f 0 (encR_fMaj ..) (encR_fLen ..) rfl rfl

theorem gexp (d : Reg) (a : Reg) (b : Reg) (m : Bool) : Statement (.gexp d a b m) :=
  fun _ => shape (encR 0x2f d a b 2 (0#3 ++ BitVec.ofBool m) 0) [] 0x2f 0 (encR_fMaj ..) (encR_fLen ..) rfl rfl

theorem gwait (d : Reg) (a : Reg) (b : Reg) : Statement (.gwait d a b) :=
  fun _ => shape (encR 0x2f d a b 3 0 0) [] 0x2f 0 (encR_fMaj ..) (encR_fLen ..) rfl rfl

theorem ckick (d : Reg) (a : Reg) (b : Reg) : Statement (.ckick d a b) :=
  fun _ => shape (encR 0x30 d a b 0 0 0) [] 0x30 0 (encR_fMaj ..) (encR_fLen ..) rfl rfl

theorem cstat (d : Reg) (a : Reg) : Statement (.cstat d a) :=
  fun _ => shape (encR 0x30 d a 0 1 0 0) [] 0x30 0 (encR_fMaj ..) (encR_fLen ..) rfl rfl

theorem cstop (d : Reg) (a : Reg) : Statement (.cstop d a) :=
  fun _ => shape (encR 0x30 d a 0 2 0 0) [] 0x30 0 (encR_fMaj ..) (encR_fLen ..) rfl rfl

theorem lpatch (d : Reg) (a : Reg) (b : Reg) : Statement (.lpatch d a b) :=
  fun _ => shape (encR 0x31 d a b 0 0 0) [] 0x31 0 (encR_fMaj ..) (encR_fLen ..) rfl rfl

theorem larm (d : Reg) (a : Reg) (b : Reg) : Statement (.larm d a b) :=
  fun _ => shape (encR 0x31 d a b 1 0 0) [] 0x31 0 (encR_fMaj ..) (encR_fLen ..) rfl rfl

theorem lstat (d : Reg) (a : Reg) : Statement (.lstat d a) :=
  fun _ => shape (encR 0x31 d a 0 2 0 0) [] 0x31 0 (encR_fMaj ..) (encR_fLen ..) rfl rfl

theorem nbdot (d : Reg) (a : Reg) (b : Reg) : Statement (.nbdot d a b) :=
  fun _ => shape (encR 0x32 d a b 0 0 0) [] 0x32 0 (encR_fMaj ..) (encR_fLen ..) rfl rfl

theorem nbwait (d : Reg) (a : Reg) (b : Reg) : Statement (.nbwait d a b) :=
  fun _ => shape (encR 0x32 d a b 1 0 0) [] 0x32 0 (encR_fMaj ..) (encR_fLen ..) rfl rfl

theorem kscan (d : Reg) (a : Reg) : Statement (.kscan d a) :=
  fun _ => shape (encR 0x33 d a 0 0 0 0) [] 0x33 0 (encR_fMaj ..) (encR_fLen ..) rfl rfl

theorem jrnl (d : Reg) (a : Reg) : Statement (.jrnl d a) :=
  fun _ => shape (encR 0x33 d a 0 1 0 0) [] 0x33 0 (encR_fMaj ..) (encR_fLen ..) rfl rfl

theorem disp (d : Reg) (a : Reg) : Statement (.disp d a) :=
  fun _ => shape (encR 0x33 d a 0 2 0 0) [] 0x33 0 (encR_fMaj ..) (encR_fLen ..) rfl rfl

theorem chold (d : Reg) (a : Reg) : Statement (.chold d a) :=
  fun _ => shape (encR 0x33 d a 0 3 0 0) [] 0x33 0 (encR_fMaj ..) (encR_fLen ..) rfl rfl

theorem crel (d : Reg) (a : Reg) : Statement (.crel d a) :=
  fun _ => shape (encR 0x33 d a 0 4 0 0) [] 0x33 0 (encR_fMaj ..) (encR_fLen ..) rfl rfl

theorem hbeat (d : Reg) : Statement (.hbeat d) :=
  fun _ => shape (encR 0x33 d 0 0 5 0 0) [] 0x33 0 (encR_fMaj ..) (encR_fLen ..) rfl rfl

theorem scrub (d : Reg) (a : Reg) : Statement (.scrub d a) :=
  fun _ => shape (encR 0x33 d a 0 6 0 0) [] 0x33 0 (encR_fMaj ..) (encR_fLen ..) rfl rfl

theorem illegal (w : BitVec 32) : Statement (.illegal w) :=
  fun h => nomatch (show false = true from h)

theorem fetchfault (faddr : BitVec 64) (info : BitVec 64) : Statement (.fetchfault faddr info) :=
  fun h => nomatch (show false = true from h)

theorem pickingCycle (plot : Nat) (plane : Nat) (cell : Nat) : Statement (.pickingCycle plot plane cell) :=
  fun h => nomatch (show false = true from h)

theorem ruleBeat (plot : Nat) (plane : Nat) (cell : Nat) : Statement (.ruleBeat plot plane cell) :=
  fun h => nomatch (show false = true from h)

theorem ruleResultLand (plot : Nat) (plane : Nat) (cell : Nat) : Statement (.ruleResultLand plot plane cell) :=
  fun h => nomatch (show false = true from h)

theorem markerMove (plot : Nat) (plane : Nat) (cell : Nat) (q : Nat) : Statement (.markerMove plot plane cell q) :=
  fun h => nomatch (show false = true from h)

theorem predMarkerRemove (plot : Nat) (plane : Nat) (cell : Nat) : Statement (.predMarkerRemove plot plane cell) :=
  fun h => nomatch (show false = true from h)

theorem tokenDelivery (plot : Nat) (plane : Nat) (ep : Nat) : Statement (.tokenDelivery plot plane ep) :=
  fun h => nomatch (show false = true from h)

theorem orderingArcDelivery (plot : Nat) (plane : Nat) (ep : Nat) : Statement (.orderingArcDelivery plot plane ep) :=
  fun h => nomatch (show false = true from h)

theorem configurationLoadEnd (plot : Nat) (plane : Nat) : Statement (.configurationLoadEnd plot plane) :=
  fun h => nomatch (show false = true from h)

theorem streamBegin (plot : Nat) (port : Nat) : Statement (.streamBegin plot port) :=
  fun h => nomatch (show false = true from h)

theorem portReadBeat (plot : Nat) (port : Nat) : Statement (.portReadBeat plot port) :=
  fun h => nomatch (show false = true from h)

theorem portWriteBeat (plot : Nat) (port : Nat) : Statement (.portWriteBeat plot port) :=
  fun h => nomatch (show false = true from h)

theorem rowAcknowledgement (plot : Nat) (port : Nat) : Statement (.rowAcknowledgement plot port) :=
  fun h => nomatch (show false = true from h)

theorem streamEnd (plot : Nat) (port : Nat) : Statement (.streamEnd plot port) :=
  fun h => nomatch (show false = true from h)

theorem streamFatal (plot : Nat) (port : Nat) : Statement (.streamFatal plot port) :=
  fun h => nomatch (show false = true from h)

theorem scloseApply (tid : Nat) : Statement (.scloseApply tid) :=
  fun h => nomatch (show false = true from h)

theorem smarkInject (tid : Nat) : Statement (.smarkInject tid) :=
  fun h => nomatch (show false = true from h)

theorem eotMarkerConsume (plot : Nat) (port : Nat) : Statement (.eotMarkerConsume plot port) :=
  fun h => nomatch (show false = true from h)

theorem rrelStart (tid : Nat) : Statement (.rrelStart tid) :=
  fun h => nomatch (show false = true from h)

theorem garrStart (tid : Nat) : Statement (.garrStart tid) :=
  fun h => nomatch (show false = true from h)

theorem ckickStart (tid : Nat) : Statement (.ckickStart tid) :=
  fun h => nomatch (show false = true from h)

theorem channelRecordStart (chan : Nat) : Statement (.channelRecordStart chan) :=
  fun h => nomatch (show false = true from h)

theorem channelRecordComplete (chan : Nat) : Statement (.channelRecordComplete chan) :=
  fun h => nomatch (show false = true from h)

theorem cstopDone (chan : Nat) : Statement (.cstopDone chan) :=
  fun h => nomatch (show false = true from h)

theorem tfillEnd (plot : Nat) (h : Nat) : Statement (.tfillEnd plot h) :=
  fun h => nomatch (show false = true from h)

theorem tdrainEnd (plot : Nat) (h : Nat) : Statement (.tdrainEnd plot h) :=
  fun h => nomatch (show false = true from h)

theorem granuleZero (plot : Nat) : Statement (.granuleZero plot) :=
  fun h => nomatch (show false = true from h)

theorem sliceLoadEnd (plot : Nat) (lat : Nat) (slot : Nat) : Statement (.sliceLoadEnd plot lat slot) :=
  fun h => nomatch (show false = true from h)

theorem bindingStart (plot : Nat) (lat : Nat) : Statement (.bindingStart plot lat) :=
  fun h => nomatch (show false = true from h)

theorem weightReload (plot : Nat) (lat : Nat) : Statement (.weightReload plot lat) :=
  fun h => nomatch (show false = true from h)

theorem rowFire (plot : Nat) (lat : Nat) : Statement (.rowFire plot lat) :=
  fun h => nomatch (show false = true from h)

theorem assistResume (plot : Nat) : Statement (.assistResume plot) :=
  fun h => nomatch (show false = true from h)

theorem mzeroClear (plot : Nat) (id : Nat) : Statement (.mzeroClear plot id) :=
  fun h => nomatch (show false = true from h)

theorem mreadReadout (plot : Nat) (id : Nat) : Statement (.mreadReadout plot id) :=
  fun h => nomatch (show false = true from h)

theorem mnormApply (plot : Nat) (id : Nat) : Statement (.mnormApply plot id) :=
  fun h => nomatch (show false = true from h)

theorem invalidationArrive (id : Nat) (p : Holder) : Statement (.invalidationArrive id p) :=
  fun h => nomatch (show false = true from h)

theorem nbdotStart (tid : Nat) : Statement (.nbdotStart tid) :=
  fun h => nomatch (show false = true from h)

theorem nbdotComplete (mbox : Nat) : Statement (.nbdotComplete mbox) :=
  fun h => nomatch (show false = true from h)

theorem derivedUpdateApply (region : Nat) (granule : Nat) : Statement (.derivedUpdateApply region granule) :=
  fun h => nomatch (show false = true from h)

theorem derivedBuild (region : Nat) (row : Nat) (part : Nat) : Statement (.derivedBuild region row part) :=
  fun h => nomatch (show false = true from h)

theorem rowRescan (region : Nat) (row : Nat) (part : Nat) : Statement (.rowRescan region row part) :=
  fun h => nomatch (show false = true from h)

theorem derivedResultWrite (region : Nat) (row : Nat) : Statement (.derivedResultWrite region row) :=
  fun h => nomatch (show false = true from h)

theorem commandStart (tid : Nat) (signal : Bool) : Statement (.commandStart tid signal) :=
  fun h => nomatch (show false = true from h)

theorem cmdqStall (tid : Nat) : Statement (.cmdqStall tid) :=
  fun h => nomatch (show false = true from h)

theorem dcacheLineExpiry (plot : Nat) (line : Nat) : Statement (.dcacheLineExpiry plot line) :=
  fun h => nomatch (show false = true from h)

theorem threadEnd (tid : Nat) : Statement (.threadEnd tid) :=
  fun h => nomatch (show false = true from h)

theorem completionPost (slot : Nat) : Statement (.completionPost slot) :=
  fun h => nomatch (show false = true from h)

theorem queueEntryTake (q : Nat) : Statement (.queueEntryTake q) :=
  fun h => nomatch (show false = true from h)

theorem watchdogExpiry (slot : Nat) : Statement (.watchdogExpiry slot) :=
  fun h => nomatch (show false = true from h)

theorem balancerSample (slot : Nat) : Statement (.balancerSample slot) :=
  fun h => nomatch (show false = true from h)

theorem heartbeatTimeout (core : Nat) : Statement (.heartbeatTimeout core) :=
  fun h => nomatch (show false = true from h)

theorem winPeek (core : Nat) : Statement (.winPeek core) :=
  fun h => nomatch (show false = true from h)

theorem winStop (core : Nat) : Statement (.winStop core) :=
  fun h => nomatch (show false = true from h)

theorem winCut (core : Nat) : Statement (.winCut core) :=
  fun h => nomatch (show false = true from h)

theorem winDrain (core : Nat) : Statement (.winDrain core) :=
  fun h => nomatch (show false = true from h)

theorem winReset (core : Nat) : Statement (.winReset core) :=
  fun h => nomatch (show false = true from h)

theorem winPost (core : Nat) : Statement (.winPost core) :=
  fun h => nomatch (show false = true from h)

theorem windowCommandFinish (core : Nat) : Statement (.windowCommandFinish core) :=
  fun h => nomatch (show false = true from h)

theorem frameEntryBoundary (die : Nat) : Statement (.frameEntryBoundary die) :=
  fun h => nomatch (show false = true from h)

theorem cellCutAlign (plot : Nat) (plane : Nat) (cell : Nat) : Statement (.cellCutAlign plot plane cell) :=
  fun h => nomatch (show false = true from h)

theorem latticeCut (plot : Nat) (lat : Nat) : Statement (.latticeCut plot lat) :=
  fun h => nomatch (show false = true from h)

theorem cutComplete (region : Nat) : Statement (.cutComplete region) :=
  fun h => nomatch (show false = true from h)

theorem cutAbandon (region : Nat) : Statement (.cutAbandon region) :=
  fun h => nomatch (show false = true from h)

theorem periodicCut (slot : Nat) : Statement (.periodicCut slot) :=
  fun h => nomatch (show false = true from h)

theorem rollback (region : Nat) : Statement (.rollback region) :=
  fun h => nomatch (show false = true from h)

theorem doubleReset (tid : Nat) : Statement (.doubleReset tid) :=
  fun h => nomatch (show false = true from h)

theorem scrubRequestStart : Statement .scrubRequestStart :=
  fun h => nomatch (show false = true from h)

theorem scrubClearComplete : Statement .scrubClearComplete :=
  fun h => nomatch (show false = true from h)

theorem tokenWrite : Statement .tokenWrite :=
  fun h => nomatch (show false = true from h)

theorem mailboxCommandDone (fn : Nat) : Statement (.mailboxCommandDone fn) :=
  fun h => nomatch (show false = true from h)

theorem functionLevelReset (vf : Nat) : Statement (.functionLevelReset vf) :=
  fun h => nomatch (show false = true from h)

theorem plotRetirement (plot : Nat) : Statement (.plotRetirement plot) :=
  fun h => nomatch (show false = true from h)

theorem plotPairing (plot : Nat) : Statement (.plotPairing plot) :=
  fun h => nomatch (show false = true from h)

theorem columnRetirement (plot : Nat) (lat : Nat) (col : Nat) : Statement (.columnRetirement plot lat col) :=
  fun h => nomatch (show false = true from h)

theorem wayRetirement (slice : Nat) (way : Nat) : Statement (.wayRetirement slice way) :=
  fun h => nomatch (show false = true from h)

theorem hbmRowRepair (row : Nat) : Statement (.hbmRowRepair row) :=
  fun h => nomatch (show false = true from h)

theorem laneReplacement (port : Nat) (lane : Nat) : Statement (.laneReplacement port lane) :=
  fun h => nomatch (show false = true from h)

theorem remoteAccessTimeout (id : Nat) : Statement (.remoteAccessTimeout id) :=
  fun h => nomatch (show false = true from h)

theorem accessPerformed (id : Nat) : Statement (.accessPerformed id) :=
  fun h => nomatch (show false = true from h)

theorem preemption (slot : Nat) : Statement (.preemption slot) :=
  fun h => nomatch (show false = true from h)

theorem cellNop (r : RuleAt) : Statement (.cellNop r) :=
  fun h => nomatch (show false = true from h)

theorem cellMov (r : RuleAt) : Statement (.cellMov r) :=
  fun h => nomatch (show false = true from h)

theorem cellSel (r : RuleAt) : Statement (.cellSel r) :=
  fun h => nomatch (show false = true from h)

theorem cellAdd (r : RuleAt) : Statement (.cellAdd r) :=
  fun h => nomatch (show false = true from h)

theorem cellSub (r : RuleAt) : Statement (.cellSub r) :=
  fun h => nomatch (show false = true from h)

theorem cellMul (r : RuleAt) : Statement (.cellMul r) :=
  fun h => nomatch (show false = true from h)

theorem cellAnd (r : RuleAt) : Statement (.cellAnd r) :=
  fun h => nomatch (show false = true from h)

theorem cellOr (r : RuleAt) : Statement (.cellOr r) :=
  fun h => nomatch (show false = true from h)

theorem cellXor (r : RuleAt) : Statement (.cellXor r) :=
  fun h => nomatch (show false = true from h)

theorem cellShl (r : RuleAt) : Statement (.cellShl r) :=
  fun h => nomatch (show false = true from h)

theorem cellShr (r : RuleAt) : Statement (.cellShr r) :=
  fun h => nomatch (show false = true from h)

theorem cellSar (r : RuleAt) : Statement (.cellSar r) :=
  fun h => nomatch (show false = true from h)

theorem cellMin (r : RuleAt) : Statement (.cellMin r) :=
  fun h => nomatch (show false = true from h)

theorem cellMax (r : RuleAt) : Statement (.cellMax r) :=
  fun h => nomatch (show false = true from h)

theorem cellAbs (r : RuleAt) : Statement (.cellAbs r) :=
  fun h => nomatch (show false = true from h)

theorem cellNeg (r : RuleAt) : Statement (.cellNeg r) :=
  fun h => nomatch (show false = true from h)

theorem cellCmpeq (r : RuleAt) : Statement (.cellCmpeq r) :=
  fun h => nomatch (show false = true from h)

theorem cellCmplt (r : RuleAt) : Statement (.cellCmplt r) :=
  fun h => nomatch (show false = true from h)

theorem cellCmple (r : RuleAt) : Statement (.cellCmple r) :=
  fun h => nomatch (show false = true from h)

theorem cellFadd (r : RuleAt) : Statement (.cellFadd r) :=
  fun h => nomatch (show false = true from h)

theorem cellFsub (r : RuleAt) : Statement (.cellFsub r) :=
  fun h => nomatch (show false = true from h)

theorem cellFmul (r : RuleAt) : Statement (.cellFmul r) :=
  fun h => nomatch (show false = true from h)

theorem cellFma (r : RuleAt) : Statement (.cellFma r) :=
  fun h => nomatch (show false = true from h)

theorem cellFmin (r : RuleAt) : Statement (.cellFmin r) :=
  fun h => nomatch (show false = true from h)

theorem cellFmax (r : RuleAt) : Statement (.cellFmax r) :=
  fun h => nomatch (show false = true from h)

theorem cellFcmpeq (r : RuleAt) : Statement (.cellFcmpeq r) :=
  fun h => nomatch (show false = true from h)

theorem cellFcmplt (r : RuleAt) : Statement (.cellFcmplt r) :=
  fun h => nomatch (show false = true from h)

theorem cellFabs (r : RuleAt) : Statement (.cellFabs r) :=
  fun h => nomatch (show false = true from h)

theorem cellFneg (r : RuleAt) : Statement (.cellFneg r) :=
  fun h => nomatch (show false = true from h)

theorem cellCvt (r : RuleAt) : Statement (.cellCvt r) :=
  fun h => nomatch (show false = true from h)

theorem cellQbfp (r : RuleAt) : Statement (.cellQbfp r) :=
  fun h => nomatch (show false = true from h)

theorem cellDqbfp (r : RuleAt) : Statement (.cellDqbfp r) :=
  fun h => nomatch (show false = true from h)

theorem cellExp2 (r : RuleAt) : Statement (.cellExp2 r) :=
  fun h => nomatch (show false = true from h)

theorem cellLog2 (r : RuleAt) : Statement (.cellLog2 r) :=
  fun h => nomatch (show false = true from h)

theorem cellRcp (r : RuleAt) : Statement (.cellRcp r) :=
  fun h => nomatch (show false = true from h)

theorem cellRsqrt (r : RuleAt) : Statement (.cellRsqrt r) :=
  fun h => nomatch (show false = true from h)

theorem cellSqrt (r : RuleAt) : Statement (.cellSqrt r) :=
  fun h => nomatch (show false = true from h)

theorem cellTanh (r : RuleAt) : Statement (.cellTanh r) :=
  fun h => nomatch (show false = true from h)

theorem cellSigm (r : RuleAt) : Statement (.cellSigm r) :=
  fun h => nomatch (show false = true from h)

theorem cellGact (r : RuleAt) : Statement (.cellGact r) :=
  fun h => nomatch (show false = true from h)

theorem cellRsum (r : RuleAt) : Statement (.cellRsum r) :=
  fun h => nomatch (show false = true from h)

theorem cellRmax (r : RuleAt) : Statement (.cellRmax r) :=
  fun h => nomatch (show false = true from h)

theorem cellPset (r : RuleAt) : Statement (.cellPset r) :=
  fun h => nomatch (show false = true from h)

theorem cellPand (r : RuleAt) : Statement (.cellPand r) :=
  fun h => nomatch (show false = true from h)

theorem cellPor (r : RuleAt) : Statement (.cellPor r) :=
  fun h => nomatch (show false = true from h)

theorem cellPnot (r : RuleAt) : Statement (.cellPnot r) :=
  fun h => nomatch (show false = true from h)

theorem cellSteer (r : RuleAt) : Statement (.cellSteer r) :=
  fun h => nomatch (show false = true from h)

theorem cellMerge (r : RuleAt) : Statement (.cellMerge r) :=
  fun h => nomatch (show false = true from h)

theorem cellPsend (r : RuleAt) : Statement (.cellPsend r) :=
  fun h => nomatch (show false = true from h)

theorem cellPrecv (r : RuleAt) : Statement (.cellPrecv r) :=
  fun h => nomatch (show false = true from h)

theorem cellTagset (r : RuleAt) : Statement (.cellTagset r) :=
  fun h => nomatch (show false = true from h)

theorem cellDrop (r : RuleAt) : Statement (.cellDrop r) :=
  fun h => nomatch (show false = true from h)

theorem rulePromotion (plot : Nat) (plane : Nat) (cell : Nat) (slot : Nat) :
    Statement (.rulePromotion plot plane cell slot) :=
  fun h => nomatch (show false = true from h)

theorem cellFault (plot : Nat) (plane : Nat) (cell : Nat) : Statement (.cellFault plot plane cell) :=
  fun h => nomatch (show false = true from h)

theorem assistresWrite (plot : Nat) (v : BitVec 64) : Statement (.assistresWrite plot v) :=
  fun h => nomatch (show false = true from h)

theorem pageWalk (p : Holder) (va : BitVec 64) (k : AccKind) : Statement (.pageWalk p va k) :=
  fun h => nomatch (show false = true from h)

theorem prqrespWrite (tid : Nat) (v : BitVec 64) : Statement (.prqrespWrite tid v) :=
  fun h => nomatch (show false = true from h)

theorem hbmRefreshDue (mbox : Nat) : Statement (.hbmRefreshDue mbox) :=
  fun h => nomatch (show false = true from h)

theorem waitWake (tid : Nat) : Statement (.waitWake tid) :=
  fun h => nomatch (show false = true from h)

theorem waitLimitExpiry (tid : Nat) : Statement (.waitLimitExpiry tid) :=
  fun h => nomatch (show false = true from h)

theorem swaitReturn (tid : Nat) : Statement (.swaitReturn tid) :=
  fun h => nomatch (show false = true from h)

theorem twaitReturn (tid : Nat) : Statement (.twaitReturn tid) :=
  fun h => nomatch (show false = true from h)

theorem rawaitReturn (tid : Nat) : Statement (.rawaitReturn tid) :=
  fun h => nomatch (show false = true from h)

theorem gwaitReturn (tid : Nat) : Statement (.gwaitReturn tid) :=
  fun h => nomatch (show false = true from h)

theorem sbarReturn (tid : Nat) : Statement (.sbarReturn tid) :=
  fun h => nomatch (show false = true from h)

theorem tlbsyncReturn (tid : Nat) : Statement (.tlbsyncReturn tid) :=
  fun h => nomatch (show false = true from h)

theorem dsyncReturn (tid : Nat) : Statement (.dsyncReturn tid) :=
  fun h => nomatch (show false = true from h)

theorem drdReturn (tid : Nat) : Statement (.drdReturn tid) :=
  fun h => nomatch (show false = true from h)

theorem nbwaitReturn (tid : Nat) : Statement (.nbwaitReturn tid) :=
  fun h => nomatch (show false = true from h)

theorem cbarReturn (tid : Nat) : Statement (.cbarReturn tid) :=
  fun h => nomatch (show false = true from h)

theorem icinvReturn (tid : Nat) : Statement (.icinvReturn tid) :=
  fun h => nomatch (show false = true from h)

theorem instructionMemoryError (core : Nat) (addr : Nat) : Statement (.instructionMemoryError core addr) :=
  fun h => nomatch (show false = true from h)

theorem dbgctlHalt (tenant : Nat) (v : BitVec 64) : Statement (.dbgctlHalt tenant v) :=
  fun h => nomatch (show false = true from h)

theorem dbgctlRun (tenant : Nat) (v : BitVec 64) : Statement (.dbgctlRun tenant v) :=
  fun h => nomatch (show false = true from h)

theorem fqtakeWrite (tenant : Nat) (v : BitVec 64) : Statement (.fqtakeWrite tenant v) :=
  fun h => nomatch (show false = true from h)

theorem kick (vf : Nat) (n : Nat) : Statement (.kick vf n) :=
  fun h => nomatch (show false = true from h)

theorem qdescWrite (vf : Nat) (n : Nat) (w0 : BitVec 64) (w8 : BitVec 32) (w12 : BitVec 32) :
    Statement (.qdescWrite vf n w0 w8 w12) :=
  fun h => nomatch (show false = true from h)

theorem rdescWrite (vf : Nat) (n : Nat) (w0 : BitVec 64) (w8 : BitVec 32) (w12 : BitVec 32) :
    Statement (.rdescWrite vf n w0 w8 w12) :=
  fun h => nomatch (show false = true from h)

theorem registerWrite (target : RegTarget) (v : BitVec 64) : Statement (.registerWrite target v) :=
  fun h => nomatch (show false = true from h)

theorem setwin (vf : Nat) (pbase : BitVec 64) (plimit : BitVec 64) : Statement (.setwin vf pbase plimit) :=
  fun h => nomatch (show false = true from h)

theorem setkey (vf : Nat) (dk : BitVec 256) (tk : BitVec 256) : Statement (.setkey vf dk tk) :=
  fun h => nomatch (show false = true from h)

theorem setquota (vf : Nat) (sets : Nat) (regions : Nat) (pins : Nat) (lmax : List Nat) :
    Statement (.setquota vf sets regions pins lmax) :=
  fun h => nomatch (show false = true from h)

theorem setrange (vf : Nat) (first : Nat) (count : Nat) : Statement (.setrange vf first count) :=
  fun h => nomatch (show false = true from h)

theorem place (outvf : Nat) (invf : Nat) (ds : List (BitVec 64)) : Statement (.place outvf invf ds) :=
  fun h => nomatch (show false = true from h)

theorem setperm (granule : Nat) (v : BitVec 64) : Statement (.setperm granule v) :=
  fun h => nomatch (show false = true from h)

theorem setweight (vf : Nat) (weight : Nat) : Statement (.setweight vf weight) :=
  fun h => nomatch (show false = true from h)

theorem attest (fn : Nat) (vf : Nat) (nonce : BitVec 256) : Statement (.attest fn vf nonce) :=
  fun h => nomatch (show false = true from h)

theorem getkey : Statement .getkey :=
  fun h => nomatch (show false = true from h)

theorem repairlog (first : Nat) : Statement (.repairlog first) :=
  fun h => nomatch (show false = true from h)

theorem dbgreg (tid : Nat) (reg : Nat) (write : Bool) (v : BitVec 64) : Statement (.dbgreg tid reg write v) :=
  fun h => nomatch (show false = true from h)

theorem fwstage (addr : BitVec 64) (len : Nat) : Statement (.fwstage addr len) :=
  fun h => nomatch (show false = true from h)

theorem pwrcap (watts : Nat) : Statement (.pwrcap watts) :=
  fun h => nomatch (show false = true from h)

theorem share (granule : Nat) (on : Bool) : Statement (.share granule on) :=
  fun h => nomatch (show false = true from h)

theorem packageReset : Statement .packageReset :=
  fun h => nomatch (show false = true from h)

theorem wearSample (u : WearUnit) (low : Bool) : Statement (.wearSample u low) :=
  fun h => nomatch (show false = true from h)

theorem correctedError (u : WearUnit) : Statement (.correctedError u) :=
  fun h => nomatch (show false = true from h)

theorem solrusFlitReceive (f : Flit) : Statement (.solrusFlitReceive f) :=
  fun h => nomatch (show false = true from h)

theorem hostSharedAccess (addr : BitVec 64) (data : Option (BitVec 64)) : Statement (.hostSharedAccess addr data) :=
  fun h => nomatch (show false = true from h)

theorem mctpRequest (q : MctpReq) : Statement (.mctpRequest q) :=
  fun h => nomatch (show false = true from h)

theorem preemptionResume (slot : Nat) : Statement (.preemptionResume slot) :=
  fun h => nomatch (show false = true from h)

theorem uncorrectableError (u : ErrUnit) : Statement (.uncorrectableError u) :=
  fun h => nomatch (show false = true from h)

theorem cycleWithheld (plot : Nat) : Statement (.cycleWithheld plot) :=
  fun h => nomatch (show false = true from h)

end Sys2Proof.Laws.EncodeLength
end

