-- ==== Sys2Proof/Tests/Slice0.lean ====
section
/-! SUPPORT. Tests of the model against the manual's own words and numbers, and for each claim with hypotheses a state and
operands that meet them. -/

open Sys2Proof Sys2Proof.Machine Sys2Proof.Claim

namespace Sys2Proof.Tests

/-! Small states. -/

/-- A running thread of tenant 0 with a carve-out at 0x100000. -/
def ctx0 : Ctx :=
  { st := .running, pc := 0x1000, tenant := some 0, asid := 1, privbase := 0x100000, carve := 4096, nthr := 1 }

/-- A cached translation of the first page of ASID 1 of tenant 0 to system address 0x8000. -/
def page0 : Xlat := { holder := .core 0, tenant := 0, asid := 1, page := 0, size := 4096, spa := 0x8000, w := true, x := true, u := true }

/-- Thread 0 issues, on plot 0 of tenant 0, for launch 0. -/
def thr : State :=
  { State.reset with
    cur := .thread 0, threads := [(0, ctx0)], plots := [(0, { owner := some 0 })],
    tenants := [(0, { plimit := 0x10000, recCount := 16 })], slots := [(0, { st := .running, threads := [0] })], xlats := [page0] }

/-- The same thread with some register values. -/
def thrG (rs : List (Reg × Word)) : State := { thr with threads := [(0, rs.foldl (fun c e => c.put e.1 e.2) ctx0)] }

/-- Lodge core 0 issues with some register values. -/
def lodgeG (rs : List (Reg × Word)) : State :=
  rs.foldl (fun s e => s.setG e.1 e.2) State.reset

/-! Words that the manual writes out (02_words Tables 2.11-2.14 and the tables of each chapter). -/

theorem test_decode_alu :
    decodeTableWord 32 0x04A63800 = some (.aluAdd 5 6 7) ∧ decodeTableWord 32 0x04642C00 = some (.aluMulhu 3 4 5) ∧
    decodeTableWord 32 0x04640540 = some (.clz 3 4) := by decide

theorem test_decode_imm :
    decodeTableWord 32 0x08A6FFF4 = some (.addi 5 6 0x3FFD) ∧
    decodeTableWord 64 0x000186A008A60001 = some (.addiExt 5 6 (.one 100000)) ∧
    decodeTableWord 96 0x000000012345678908A00002 = some (.addiExt 5 0 (.two 0x23456789 1)) ∧
    decodeTableWord 32 0x1864801C = some (.srai 3 4 7) ∧ decodeTableWord 32 0x1464FFFC = some (.xori 3 4 0x3FFF) := by decide

theorem test_decode_branch :
    decodeTableWord 32 0x24A0FFF4 = some (.bne 5 0 0x3FFD) ∧ decodeTableWord 32 0x34640028 = some (.bgeu 3 4 10) ∧
    decodeTableWord 32 0x3BFFFFF0 = some (.jmp 0xFFFFFC) ∧ decodeTableWord 32 0x3C000040 = some (.jal 16) ∧
    decodeTableWord 32 0x40010000 = some (.jalr 0 1 0) := by decide

theorem test_decode_clause :
    decodeTableWord 32 0x44070008 = some (.rpt 7 2) ∧ decodeTableWord 64 0x0000000A44000009 = some (.rptImm 2 10) ∧
    decodeTableWord 32 0x44250044 = some (.when .nz 5 1) ∧ decodeTableWord 32 0x440A0040 = some (.when .z 10 0) := by decide

theorem test_decode_load :
    decodeTableWord 32 0x59020060 = some (.ldw 8 2 24) ∧ decodeTableWord 64 0x0000000860650001 = some (.lddExt 3 5 (.one 8)) ∧
    decodeTableWord 32 0x48640004 = some (.ldb 3 4 1) ∧ decodeTableWord 32 0x5464FFF8 = some (.ldhu 3 4 0x3FFE) ∧
    decodeTableWord 32 0x65060008 = some (.ldq 8 6 1 false) := by decide

theorem test_decode_store :
    decodeTableWord 32 0x7525FFE0 = some (.std 9 5 0x3FF8) ∧ decodeTableWord 32 0x79450014 = some (.stq 10 5 2 true) ∧
    decodeTableWord 32 0x70A60030 = some (.stw 5 6 12) := by decide

theorem test_decode_tileAccess :
    decodeTableWord 32 0x7CC91180 = some (.tld 6 9 17 .w) ∧ decodeTableWord 64 0x0000000880E903C1 = some (.tstExt 7 9 3 .d 8) ∧
    decodeTableWord 64 0x000002007DC00141 = some (.tldExt 14 0 1 .h 0x200) := by decide

theorem test_decode_amo :
    decodeTableWord 32 0x84863834 = some (.amoAdd 4 6 7 true true .acq) ∧
    decodeTableWord 32 0x84863A6C = some (.amoCas 4 6 7 false .acqrel) ∧
    decodeTableWord 32 0x84063A90 = some (.amoFadd 6 7 true .rlx) ∧
    decodeTableWord 32 0x84063880 = some (.amoOr 0 6 7 false false .rlx) := by decide

theorem test_decode_fence :
    decodeTableWord 32 0x88004800 = some (.fence .pkg .rel) ∧ decodeTableWord 32 0x88002400 = some (.fence .die .acq) ∧
    decodeTableWord 32 0x88008000 = some (.fence .sys .full) ∧ decodeTableWord 32 0x88001000 = some (.fence .plot .drv) ∧
    decodeTableWord 32 0x88005400 = some (.fence .pkg .cmd) := by decide

theorem test_decode_csr :
    decodeTableWord 32 0x8CA0000C = some (.csrr 5 3) ∧ decodeTableWord 32 0x90060040 = some (.csrw 0 6 0x10) ∧
    decodeTableWord 32 0x900F0850 = some (.csrw 0 15 0x214) := by decide

theorem test_decode_sys :
    decodeTableWord 32 0x9CA63880 = some (.waitLoc 5 6 7) ∧ decodeTableWord 32 0x9C000100 = some .exitThread ∧
    decodeTableWord 32 0x9C000140 = some .nop ∧ decodeTableWord 32 0x9DD05880 = some (.waitLoc 14 16 11) := by decide

theorem test_decode_tlb :
    decodeTableWord 32 0xA1095000 = some (.tlbinv 8 9 10) ∧ decodeTableWord 32 0xA1090040 = some (.tlbinva 8 9) ∧
    decodeTableWord 32 0xA1090080 = some (.tlbsync 8 9) := by decide

theorem test_decode_set :
    decodeTableWord 32 0xA5090000 = some (.join 8 9) ∧ decodeTableWord 32 0xA5090040 = some (.leave 8 9) ∧
    decodeTableWord 32 0xA5090080 = some (.sbar 8 9) := by decide

theorem test_decode_stream :
    decodeTableWord 32 0xA9095000 = some (.sbind 8 9 10) ∧ decodeTableWord 32 0xA9090044 = some (.sclose 8 9 true) ∧
    decodeTableWord 32 0xA9090080 = some (.smark 8 9) ∧ decodeTableWord 32 0xA90950C0 = some (.swait 8 9 10) ∧
    decodeTableWord 32 0xA8000100 = some .cbar ∧ decodeTableWord 32 0xA9095140 = some (.scfg 8 9 10) := by decide

theorem test_decode_tile :
    decodeTableWord 32 0xAD095000 = some (.talloc 8 9 10) ∧ decodeTableWord 32 0xAD090040 = some (.tfree 8 9) ∧
    decodeTableWord 32 0xAD095080 = some (.tfill 8 9 10) ∧ decodeTableWord 32 0xAD0950C0 = some (.tdrain 8 9 10) ∧
    decodeTableWord 32 0xAD090100 = some (.tstat 8 9) ∧ decodeTableWord 32 0xAD095140 = some (.twait 8 9 10) := by decide

theorem test_decode_matrix :
    decodeTableWord 32 0xB1095000 = some (.mload 8 9 10) ∧ decodeTableWord 32 0xB1090040 = some (.mbind 8 9) ∧
    decodeTableWord 32 0xB1090080 = some (.mzero 8 9) ∧ decodeTableWord 32 0xB10950CC = some (.mread 8 9 10 true true) ∧
    decodeTableWord 32 0xB1090100 = some (.mnorm 8 9) ∧ decodeTableWord 32 0xB1090140 = some (.mhead 8 9) := by decide

theorem test_decode_derived :
    decodeTableWord 32 0xB50A0000 = some (.ddecl 8 10) ∧ decodeTableWord 32 0xB50A5844 = some (.drd 8 10 11 true) ∧
    decodeTableWord 32 0xB50A5880 = some (.dsync 8 10 11) ∧ decodeTableWord 32 0xB50A00C0 = some (.dreb 8 10) ∧
    decodeTableWord 32 0xB50A0100 = some (.ddrop 8 10) ∧ decodeTableWord 32 0xB50A0140 = some (.dstat 8 10) := by decide

theorem test_decode_ring :
    decodeTableWord 32 0xB9095000 = some (.rinit 8 9 10) ∧ decodeTableWord 32 0xB9095040 = some (.rawait 8 9 10) ∧
    decodeTableWord 32 0xB9090080 = some (.rrel 8 9) ∧ decodeTableWord 32 0xB90900C0 = some (.rpeek 8 9) := by decide

theorem test_decode_gate :
    decodeTableWord 32 0xBD095000 = some (.ginit 8 9 10) ∧ decodeTableWord 32 0xBD090040 = some (.garr 8 9) ∧
    decodeTableWord 32 0xBD095084 = some (.gexp 8 9 10 true) ∧ decodeTableWord 32 0xBD0950C0 = some (.gwait 8 9 10) := by decide

theorem test_decode_copy :
    decodeTableWord 32 0xC1095000 = some (.ckick 8 9 10) ∧ decodeTableWord 32 0xC1090040 = some (.cstat 8 9) ∧
    decodeTableWord 32 0xC1090080 = some (.cstop 8 9) := by decide

theorem test_decode_launch :
    decodeTableWord 32 0xC5095000 = some (.lpatch 8 9 10) ∧ decodeTableWord 32 0xC5095040 = some (.larm 8 9 10) ∧
    decodeTableWord 32 0xC5090080 = some (.lstat 8 9) := by decide

theorem test_decode_near :
    decodeTableWord 32 0xC9095000 = some (.nbdot 8 9 10) ∧ decodeTableWord 32 0xC9095040 = some (.nbwait 8 9 10) := by decide

theorem test_decode_lodge :
    decodeTableWord 32 0xCD090000 = some (.kscan 8 9) ∧ decodeTableWord 32 0xCD090040 = some (.jrnl 8 9) ∧
    decodeTableWord 32 0xCD090080 = some (.disp 8 9) := by decide

/-- Words without a meaning: MAJ 0, MAJ 0x34, LEN 3, a modifier of ADD, NOP with a register field, an odd pair (R18, R21, R24). -/
theorem test_decode_refused :
    decodeTableWord 32 0 = none ∧ decodeTableWord 32 0xD0000000 = none ∧ decodeTableWord 32 0x04A63803 = none ∧
    decodeTableWord 32 0x04A63804 = none ∧ decodeTableWord 32 0x9C200140 = none ∧ decodeTableWord 32 0x65260008 = none := by decide

/-- Rule words of the manual (Table 2.12): the rule of the FMA example and its fields. -/
theorem test_rule_words :
    ruleIllegal 0xA4103340 0x463C1C58 = false ∧ (decOpWord 0x463C1C58).map (fun o => (o.op, o.dst, o.sa, o.sb, o.fmt)) =
      some (.fma, 3, 24, 7, 3) := by decide

/-! Ill-formed terms. -/

theorem test_wf_pairs :
    (Instr.ldq 1 2 0 true).wf = false ∧ (Instr.stqExt 3 2 true (.one 0)).wf = false ∧ (Instr.ddecl 1 2).wf = false ∧
    (Instr.drd 5 2 3 false).wf = false ∧ (Instr.scrub 7 2).wf = false := by decide

theorem test_wf_amo : (Instr.amoAdd 4 6 7 false true .rlx).wf = false ∧ (Instr.amoSwap 1 6 7 false false .acq).wf = false := by decide

theorem test_wf_fabric :
    (Instr.cellAdd ⟨640, 0, 0, 0⟩).wf = false ∧ (Instr.cellFma ⟨0, 0, 0, 32⟩).wf = false ∧ (Instr.pickingCycle 0 4 0).wf = false ∧
    (Instr.ruleBeat 0 0 16).wf = false ∧ (Instr.rulePromotion 0 0 0 32).wf = false ∧ (Instr.markerMove 0 0 0 8).wf = false ∧
    (Instr.tokenDelivery 0 0 176).wf = false ∧ (Instr.configurationLoadEnd 640 0).wf = false ∧ (Instr.streamBegin 0 16).wf = false := by decide

theorem test_wf_units :
    (Instr.scloseApply 5120).wf = false ∧ (Instr.channelRecordStart 256).wf = false ∧ (Instr.tfillEnd 0 256).wf = false ∧
    (Instr.granuleZero 640).wf = false ∧ (Instr.sliceLoadEnd 0 4 0).wf = false ∧ (Instr.bindingStart 0 4).wf = false ∧
    (Instr.mzeroClear 640 0).wf = false := by decide

theorem test_wf_system :
    (Instr.prqrespWrite 5120 0).wf = false ∧ (Instr.nbdotComplete 256).wf = false ∧ (Instr.derivedUpdateApply 4096 0).wf = false ∧
    (Instr.dcacheLineExpiry 640 0).wf = false ∧ (Instr.completionPost 16384).wf = false ∧ (Instr.queueEntryTake 4096).wf = false ∧
    (Instr.heartbeatTimeout 4).wf = false := by decide

theorem test_wf_host :
    (Instr.kick 64 0).wf = false ∧ (Instr.qdescWrite 0 64 0 0 0).wf = false ∧ (Instr.setwin 64 0 0).wf = false ∧
    (Instr.columnRetirement 0 0 128).wf = false ∧ (Instr.wayRetirement 128 0).wf = false ∧ (Instr.attest 65 0 0).wf = false ∧
    (Instr.laneReplacement 16 0).wf = false := by decide

/-! States and operands that meet the claims' hypotheses, one theorem per claim. -/

/-- A condition of WHEN that holds of 0, and one that does not; one of the least number and of 1. -/
theorem witness_ClauseHeader :
    CondHolds .z (thr.g 1) ∧ ¬ CondHolds .nz (thr.g 1) ∧ CondHolds .ltz ((thrG [(1, 0x8000000000000000)]).g 1) ∧ CondHolds .gez ((thrG [(1, 1)]).g 1) := by
  unfold CondHolds
  decide

/-- Operations of both tables. -/
theorem witness_IntegerResult : aluTable.length = 17 ∧ immTable.length = 5 := by decide

/-- Aligned and misaligned targets of JALR, in both lengths. -/
theorem witness_ControlFlow :
    (thr.g 0 + BitVec.ofInt 64 (0x3FFC : Imm14).toInt).toNat % 4 = 0 ∧ (thr.g 0 + BitVec.ofInt 64 (8 : BitVec 32).toInt).toNat % 4 = 0 ∧
    (thr.g 0 + BitVec.ofInt 64 (1 : Imm14).toInt).toNat % 4 ≠ 0 ∧ (thr.g 0 + BitVec.ofInt 64 (2 : BitVec 32).toInt).toNat % 4 ≠ 0 := by decide

/-- A load in the carve-out, one under a translation, one of lodge SRAM, of a window register, and of memory. -/
theorem witness_LoadResult :
    LoadFinds thr 0x100008 8 false [0, 0, 0, 0, 0, 0, 0, 0] ∧ LoadFinds thr 0x10 1 false [0] ∧ LoadFinds State.reset 0x1FFFFF 1 false [0] ∧
    LoadFinds State.reset (BitVec.ofNat 64 (2 ^ 61 * 7 + 8)) 8 false [0, 0, 0, 0, 0, 0, 0, 0] ∧
    LoadFinds State.reset 0x200000 1 false [0] ∧ LoadFinds { thr with cur := .assist 0 } 0 2 false [0, 0] := by
  refine ⟨.inl ⟨0, 8, by decide, by decide, by decide, by decide⟩,
    .inr (.inl ⟨0, 0x10, 0x8010, ⟨by decide, by decide, by decide, by decide⟩, by decide, by decide, by decide⟩),
    .inr (.inr (.inl ⟨0, by decide, by decide, by decide, by decide⟩)),
    .inr (.inr (.inr (.inl ⟨0, by decide, by decide, by decide⟩))),
    .inr (.inr (.inr (.inr ⟨⟨0, .inl ⟨by decide, by decide, by decide⟩⟩, by decide, by decide, by decide, by decide⟩))),
    .inr (.inr (.inr (.inr ⟨⟨0, .inr (by decide)⟩, by decide, by decide, by decide, by decide⟩)))⟩

/-- Stores at their four places. -/
theorem witness_StoreEffect :
    StoreGoes thr 0x100FFF ∧ StoreGoes thr 0x18 ∧ StoreGoes State.reset 0x80000 ∧ StoreGoes State.reset 0x200000 ∧
    StoreGoes { thr with cur := .assist 0 } 0 :=
  ⟨.inl ⟨0, 0xFFF, by decide, by decide, by decide⟩, .inr (.inl ⟨0, 0x18, 0x8018, by decide, by decide, by decide, by decide⟩),
   .inr (.inr (.inl ⟨0, by decide, by decide⟩)), .inr (.inr (.inr ⟨0, .inl ⟨by decide, by decide⟩, by decide⟩)),
   .inr (.inr (.inr ⟨0, .inr (by decide), by decide⟩))⟩

/-- A pair in the carve-out's last 16 bytes, and one under a translation. -/
theorem witness_PairAccess :
    (LoadFinds thr 0x100FF0 16 true (List.replicate 16 0) ∧ (0x100FF0 : Word).toNat % 16 = 0) ∧
    (thr.ctx.target 0x100FF0 = .carve 0xFF0 ∧ 0xFF0 + 16 ≤ thr.ctx.carve ∧ thr.ctx.privbase.toNat + 0xFF0 + 16 ≤ 2 ^ 56) ∧
    (∀ j, j < 16 → thr.ctx.target (0x20 + BitVec.ofNat 64 j) = .virt (0x20 + BitVec.ofNat 64 j)) ∧ thr.fatals = [] ∧
    (0x20 : Word).toNat % 16 = 0 ∧
    thr.waitsFor (.thread 0) 0 .write = false ∧ ∀ j, j < 16 → thr.xlats.find? (fun x => x.covers (.core (0 / 8)) 0 (thr.ctx.tenant.getD 64) thr.ctx.asid
      (thr.ctx.priv == .u) (0x20 + j) .write) = some page0 :=
  ⟨⟨.inl ⟨0, 0xFF0, by decide, by decide, by decide, by decide⟩, by decide⟩, ⟨by decide, by decide, by decide⟩, by decide, by decide,
   by decide, by decide, by decide⟩

/-- A misaligned target of JALR, an unassigned register, privilege U, a misaligned address of each size, and tile states that refuse an access: no thread, FREE, EMPTY, a misaligned offset, one
past the end. -/
theorem witness_InstructionTraps :
    (thr.g 0 + BitVec.ofInt 64 (1 : Imm14).toInt).toNat % 4 ≠ 0 ∧ unassigned 0x7FF = true ∧ thr.ctx.priv = .u ∧ thr.ctx.priv ≠ .l ∧
    (thrG [(1, 1)]).g 1 = 1 ∧ (1 : Word).toNat % 2 ≠ 0 ∧ (1 : Word).toNat % 16 ≠ 0 ∧ State.reset.isThread = false ∧ thr.isThread = true ∧
    (thr.tile 0 255).st = .free ∧
    (({ thr with tiles := [(0, { st := .empty })] } : State).tile 0 0).st = .empty ∧
    (let s : State := { thr with tiles := [(0, { st := .ready, rows := 1, cols := 4 })] }
     (s.tile s.curPlot (0 : BitVec 8).toNat).st = .ready ∧ (1 : Word).toNat % bytesOf .h ≠ 0 ∧ (2 : Word).toNat % bytesOf .w ≠ 0 ∧
     (8 : Word).toNat % bytesOf .d = 0 ∧ tileBytes (s.tile s.curPlot 0) < (8 : Word).toNat + bytesOf .d) := by decide

/-- A tile of eight bytes and an access of all of it, and of its last byte. -/
theorem witness_TileAccess :
    let s : State := { thr with tiles := [(0, { st := .ready, rows := 1, cols := 32 })] }
    s.isThread = true ∧ (s.tile s.curPlot (0 : BitVec 8).toNat).st = .ready ∧ (s.g 0).toNat % bytesOf .d = 0 ∧
    (s.g 0).toNat + bytesOf .d ≤ tileBytes (s.tile s.curPlot 0) ∧ (7 : Word).toNat + bytesOf .b ≤ tileBytes (s.tile s.curPlot 0) := by decide

/-- A launch whose record carries the reproducible flag. -/
def repro : State := { thr with slots := [(0, { st := .running, record := [0, 0, 0, 0, 2, 0, 0, 0], threads := [0] })] }

/-- Atomic accesses at their four places, and those of a reproducible launch. -/
theorem witness_AtomicResult :
    AtomicGoes thr 0x100008 8 .acqrel ∧ AtomicGoes thr 0x8 8 .rlx ∧ AtomicGoes State.reset 0x80000 4 .rel ∧
    AtomicGoes State.reset 0x200000 8 .rlx ∧ ¬ inRepro thr ∧ inRepro repro ∧ ((thrG [(1, 8)]).g 1).toNat % 8 = 0 := by
  refine ⟨⟨by decide, .inl ⟨0, 8, by decide, by decide, by decide⟩⟩,
    ⟨by decide, .inr (.inl ⟨0, 8, 0x8008, ⟨by decide, by decide, by decide, by decide⟩, by decide, by decide⟩)⟩,
    ⟨by decide, .inr (.inr (.inl ⟨0, by decide, by decide, by decide, by decide⟩))⟩,
    ⟨by decide, .inr (.inr (.inr ⟨0, .inl ⟨by decide, by decide⟩, by decide, by decide, by decide⟩))⟩,
    fun ⟨_, _, h⟩ => absurd h (by decide), ⟨0, by decide, by decide⟩, by decide⟩

/-- A float add of a thread, and one of a reproducible launch with room in its buffer. -/
theorem witness_FloatAdd :
    AtomicGoes thr 0x100004 4 .rlx ∧ ¬ inRepro thr ∧ inRepro repro ∧ repro.ctx.fadd.length < 1024 ∧ (repro.g 0).toNat % 8 = 0 ∧
    (repro.g 0).toNat < 2 ^ 56 ∧ Reaches repro 0 (repro.g 0) .write 0 0x8000 :=
  ⟨⟨by decide, .inl ⟨0, 4, by decide, by decide, by decide⟩⟩, fun ⟨_, _, h⟩ => absurd h (by decide), ⟨0, by decide, by decide⟩,
   by decide, by decide, by decide, by decide, by decide, by decide, by decide⟩

/-- Thread 0 at privilege S with some register values. -/
def sup (rs : List (Reg × Word)) : State := { thr with threads := [(0, rs.foldl (fun c e => c.put e.1 e.2) { ctx0 with priv := .s })] }

/-- A store to memory of the next package, by some party. -/
def farStore (a : Holder) : Pend := { id := 3, party := a, tenant := 0, asid := 1, va := 0, spa := 2 ^ 46, bytes := [1] }

/-- A thread fences, also of kind derived with no update of it queued; a store of its own, and one that its load has returned, that
another package is still to acknowledge. -/
theorem witness_FenceEffect :
    (thr.cur = .thread 0 ∧ (releaseThread thr 0).regions.all (fun r => r.2.queue.all fun u => u.party != .thread 0) = true ∧
     ¬ ∃ p ∈ thr.pend, Earlier thr 0 p ∧ thr.isLocal p.spa = false) ∧
    (∃ p ∈ ({ thr with pend := [farStore (.thread 0)] } : State).pend, Earlier thr 0 p ∧ thr.isLocal p.spa = false) ∧
    (let s : State := { thr with pend := [farStore (.thread 1)], seen := [(0, 3)] }
     ∃ p ∈ s.pend, Earlier s 0 p ∧ s.isLocal p.spa = false) :=
  ⟨⟨rfl, by decide, fun ⟨_, h, _⟩ => by cases h⟩, ⟨_, .head _, .inl rfl, by decide⟩, ⟨_, .head _, .inr (.head _), by decide⟩⟩

/-- ERET's three kinds of return, and a position beyond its clause. -/
theorem witness_ReturnFromTrap :
    let at_ (clause hdr : Word) : Ctx := { ctx0 with priv := .s, epc := 0x2000, clause := clause, clhdr := hdr, clrem := 2, cl := { kind := .rpt } }
    (at_ 0 0).cl.kind ≠ .none ∧
    (at_ 0 0).priv ≠ .u ∧ (at_ 0 0).epc.toNat % 4 = 0 ∧ (at_ 0 0).clause.toNat % 4 = 0 ∧
    ((at_ 1 0).clause.toNat % 4 = 1 ∧ (at_ 1 0).clause.toNat / 2 ^ 56 % 32 < (at_ 1 0).clhdr.toNat / 4 % 16 + 1) ∧
    ((at_ (2 ^ 56 + 1) 0).clause.toNat / 2 ^ 56 % 32 = (at_ (2 ^ 56 + 1) 0).clhdr.toNat / 4 % 16 + 1 ∧ 1 < (at_ (2 ^ 56 + 1) 0).clrem.toNat) ∧
    ¬ ((at_ (2 * 2 ^ 56 + 1) 0).clause.toNat / 2 ^ 56 % 32 ≤ (at_ (2 * 2 ^ 56 + 1) 0).clhdr.toNat / 4 % 16 + 1) := by decide

/-- WAIT finds what it waits on, with its limit passed and not; EXIT on a thread and off one. -/
theorem witness_ThreadControl :
    LoadFinds thr 0x100008 8 true [0, 0, 0, 0, 0, 0, 0, 0] ∧ BitVec.ofNat 64 (leNat [0, 0, 0, 0, 0, 0, 0, 0]) = thr.g 0 ∧
    BitVec.ofNat 64 (leNat [0, 0, 0, 0, 0, 0, 0, 0]) ≠ (thrG [(3, 1)]).g 3 ∧ LimitOver (.waitLoc 0 1 0) thr (thr.g 0) ∧
    ¬ LimitOver (.waitLoc 0 1 2) (thrG [(2, 5)]) ((thrG [(2, 5)]).g 2) ∧ thr.isThread = true ∧ State.reset.isThread = false :=
  ⟨.inl ⟨0, 8, by decide, by decide, by decide, by decide⟩, by decide, by decide, by unfold LimitOver; decide, by unfold LimitOver; decide,
   by decide, by decide⟩

/-- Registers read at U and written at S, of each table; a lodge core's and an assist context's; an unassigned number, a write of a
read-only one, and an access below its privilege. -/
theorem witness_SystemRegisters :
    ((plotRegs.map fun r => r.n).contains 0x1AF = true ∧ (unitRegs.map fun r => r.n).contains 0x505 = true ∧ (sup []).ctx.priv ≠ .l ∧
     (lodgeRegs.map fun r => (r.n, r.rd, r.wr)).contains (0x3C5, 2, some 2) = true ∧ State.reset.cur = .lodge 0 ∧ State.reset.ctx.priv.code = 2 ∧
     (assistRegs.map fun r => (r.n, r.rd, r.wr)).contains (0x1B6, 2, some 2) = true ∧
     (let s : State := { thr with cur := .assist 0, plots := [(0, { owner := some 0, assist := { priv := .l } })] }
      s.cur = .assist 0 ∧ s.ctx.priv.code = 2)) ∧
    thr.cur = .thread 0 ∧ thr.ctx.tenant = some 0 ∧ thr.ctx.priv = .u ∧ (sup []).ctx.priv = .s ∧ unassigned 0x7FF = true ∧
    (threadRegs.map fun r => (r.n, r.rd, r.wr)).contains (0x000, 0, none) = true ∧
    (threadRegs.map fun r => (r.n, r.rd, r.wr)).contains (0x402, 1, some 1) = true ∧
    (tenantRegs.map fun r => (r.n, r.rd, r.wr)).contains (0x210, 1, some 1) = true ∧
    ((csrForms 1 2 0x402 thr).map fun f => f.2.isSome) = [false, true, true, true] := by decide

/-- A thread that posts: one page, an ASID, the whole tenant, and the refused arguments. -/
theorem witness_Invalidation :
    (let s := sup [(1, 0x1000), (2, 0x10001)]
     s.cur = .thread 0 ∧ s.ctx.priv ≠ .u ∧ (s.g 1).toNat % 4096 = 0 ∧ (s.g 1).toNat + 4096 * ((s.g 2).toNat / 65536) ≤ 2 ^ 56 ∧
     0 < (s.g 2).toNat / 65536) ∧
    (let x : Inval := { id := 0, tid := 0, tenant := 0, asid := none, va := 0, len := 0, todo := [], bound := [5] }
     let r (st : RemoteSt) : Remote := { id := 5, party := .thread 0, spa := 2 ^ 46, n := 8, since := 0, st := st }
     let done (s : State) : Bool := s.invals.all fun x => x.todo.isEmpty && x.bound.all fun b =>
       (s.pend.all fun p => p.id != b) && s.remotes.all fun r => r.id != b || r.st != .sent
     done { sup [] with invals := [x], remotes := [r .answered] } = true ∧ done { sup [] with invals := [x], remotes := [r .sent] } = false ∧
     done { sup [] with invals := [{ x with todo := [.walkers 0] }] } = false) ∧
    ((sup [(1, 65535)]).g 1).toNat < 65536 ∧ ((sup [(1, 65536)]).g 1).toNat = 65536 ∧ 2 ^ 17 ≤ ((sup [(1, 0x20000)]).g 1).toNat ∧
    ((sup [(1, 1)]).g 1).toNat % 4096 ≠ 0 ∧ Fresh (.tlbsync 1 2) (sup []) ∧
    Claim.Waiting (.tlbsync 1 2) { thr with threads := [(0, { ctx0 with priv := .s, wait := some { instr := .tlbsync 1 2, start := 0, mark := 1 } })] } 1 ∧
    LimitOver (.tlbsync 1 0) (sup []) ((sup []).g 0) ∧ ¬ LimitOver (.tlbsync 1 2) (sup [(2, 1)]) ((sup [(2, 1)]).g 2) := by
  refine ⟨by decide, by decide, by decide, by decide, by decide, by decide, (fun w h => by cases h), ⟨_, rfl, rfl, rfl⟩, ?_, ?_⟩ <;> unfold LimitOver <;> decide

/-- A store to a tracked line, and 1,024 updates queued in its derived unit. -/
def waitsUnit : Pend := { id := 1, party := .thread 0, tenant := 0, asid := 1, va := 0, spa := 0x8000, bytes := [1] }
def fullUnit : State :=
  let u : DUpd := { row := 0, part := 0, elts := [(0, 0, 0)], pend := 0, party := .thread 0, gran := 8, held := none, lnch := none }
  let r : Region :=
    { tenant := 0, base := 0x8000, cols := 8, rows := 1, pitch := 0, result := 0, rpitch := 0, kind := 0, bfmt := 5, rfmt := 0, nbins := 0,
      hlo := 0, hwidth := 0, bmap := [(8, 8)], rmap := [], queue := List.replicate 1024 u }
  { thr with pend := [waitsUnit], regions := [(0, r)] }

/-- An invalidation with a holder to reach, a page-request entry, an issued store at its turn, and one that must wait. -/
theorem witness_MemoryEvents :
    (let i : Inval := { id := 1, tid := 0, tenant := 0, asid := none, va := 0, len := 0, todo := [.core 0], bound := [] }
     let s : State := { thr with invals := [i] }
     s.invals.find? (fun x => x.id = 1) = some i ∧ Holder.core 0 ∈ i.todo) ∧
    Tbl.get? ({ thr with prqs := [(4095, { tenant := 0, asid := 1, page := 0, kind := .read, level := 3, reqs := [.thread 0] })] } : State).prqs
      ((0x1FFF : Word).toNat % 4096) = some { tenant := 0, asid := 1, page := 0, kind := .read, level := 3, reqs := [.thread 0] } ∧ thr.prqWait = [] ∧
    (thr.thread 0).tenant = some 0 ∧
    (let p : Pend := { id := 1, party := .thread 0, tenant := 0, asid := 1, va := 0, spa := 0x8000, bytes := [1] }
     let q : Pend := { id := 2, party := .thread 0, tenant := 0, asid := 1, va := 0, spa := 0x8000, bytes := [2] }
     let s : State := { thr with pend := [p, q] }
     s.pend = [] ++ p :: [q] ∧ s.isLocal p.spa = true ∧ p.id < q.id ∧ s.derivedFull p = false ∧ s.pend.find? (fun x => x.id = q.id) = some q ∧ p.ordered q = true) ∧
    fullUnit.derivedFull waitsUnit = true ∧ fullUnit.pend.find? (fun x => x.id = waitsUnit.id) = some waitsUnit := by decide +kernel

/-- Tables of tenant 1, ASID 0: a walk of VA 0 and a leaf `e` at its end. -/
def walked (e : Nat) : State :=
  let m := Mem.write (Mem.write (Mem.write (Mem.write (Mem.write [] 0 (leBytes 8 0x100001)) 0x100000 (leBytes 8 0x2001)) 0x2000 (leBytes 8 0x3001))
    0x3000 (leBytes 8 0x4001)) 0x4000 (leBytes 8 e)
  { State.reset with cur := .thread 0, threads := [(0, { ctx0 with tenant := some 1, asid := 0 })], tenants := [(1, { plimit := 0x200000 })], mem := m }

/-- A die whose walkers cache no table serves none. -/
theorem no_tabs (s : State) (h : s.tabs = []) (die v asid va : Nat) : s.tabFor die v asid va = none := by
  simp [State.tabFor, h]

/-- A leaf that allows all, one that forbids, one beyond the window, and one that is not present. -/
theorem witness_WalkResult :
    (let s := walked 0x501F
     let x := s.tenant 1
     let word (a : Nat) := leNat (s.plotView 0 (x.pbase + a) 8)
     (s.thread 0).tenant = some 1 ∧ s.fatals = [] ∧ s.xlats.find? (fun y => y.covers (.core (0 / 8)) 0 1 0 true 0 .read) = none ∧
     s.waitsFor (.thread 0) 0 .read = false ∧ s.tabFor (dieOf 0) 1 0 0 = none ∧ x.asidtab < x.plimit ∧ s.isLocal x.pbase = true ∧ s.isBad x.pbase 8 = false ∧ word 0 = 1 + 0x100000 ∧ word 0x100000 = 1 + 0x2000 ∧ word 0x2000 = 1 + 0x3000 ∧
     word 0x3000 = 1 + 0x4000 ∧ word 0x4000 = 0x501F ∧ 0x501F % 2 = 1 ∧ 0x501F / 2 % 2 = 1 ∧ 0x501F / 32 % 128 = 0 ∧ 0x501F / 16 % 2 = 1 ∧
     0x501F / 4096 * 4096 + 4095 < x.plimit ∧ mapsMemory (x.pbase + 0x5000 + 4095) = true) ∧
    (0x5003 / 4 % 2 = 0 ∧ 0x5003 / 8 % 2 = 0 ∧ 0x5003 / 16 % 2 = 0) ∧ (walked 0).tenant 1 = (walked 0x501F).tenant 1 ∧
    ((walked 0).tenant 1).plimit ≤ 0x20001F / 4096 * 4096 :=
  ⟨⟨by decide, by decide, by decide, by decide, no_tabs _ rfl _ _ _ _, by decide⟩, by decide, by decide, by decide⟩

/-- A set of tenant 0 with some members. -/
def grp (x : MSet) : State := { thrG [(1, 7)] with sets := [x] }

/-- JOIN: a new key, a member, another's set, the bounds of key, count and quota. SBAR: not the last, the last, and waiting. -/
theorem witness_SetBarriers :
    (let x : MSet := { tenant := 0, key := 7, cur := 2, mem := [{ tid := 0, current := true, arrived := false }, { tid := 1, current := true, arrived := false }] }
     TheSet (grp x) ((grp x).g 1) x ∧ (∃ m ∈ x.mem, m.tid = 0) ∧ x.arr + 1 < x.cur ∧ Fresh (.sbar 2 1) (grp x)) ∧
    (let x : MSet := { tenant := 0, key := 7, cur := 1, mem := [{ tid := 1, current := true, arrived := false }] }
     TheSet (grp x) ((grp x).g 1) x ∧ (∀ m ∈ x.mem, m.tid ≠ 0) ∧ (grp x).ctx.setcnt ≠ 8 ∧ 0 < x.cur) ∧
    (let x : MSet := { tenant := 0, key := 7, cur := 1, mem := [{ tid := 0, current := true, arrived := false }] }
     TheSet (grp x) ((grp x).g 1) x ∧ x.mem.find? (fun y => y.tid = 0) = some { tid := 0, current := true, arrived := false } ∧ x.arr + 1 = x.cur ∧
     x.left = 0 ∧ x.nxt = 0 ∧ x.nxtarr = 0 ∧ ∀ j ∈ 0 :: x.arrivers, j < 8192 ∧ ((grp x).thread j).fadd = []) ∧
    2 ^ 32 ≤ ((thrG [(1, 0x100000000)]).g 1).toNat ∧ (∀ y ∈ thr.sets, ¬ (y.tenant = 0 ∧ y.key = 7)) ∧
    (thr.sets.filter fun y => y.tenant == 0).length < (thr.tenant 0).setq ∧
    ({ ctx0 with setcnt := 8 } : Ctx).setcnt = 8 ∧ ({ setq := 0 } : Tenant).setq ≤ (thr.sets.filter fun y => y.tenant == 0).length ∧
    Claim.Waiting (.sbar 2 1) { thr with threads := [(0, { ctx0 with st := .waiting, wait := some { instr := .sbar 2 1, start := 0, mark := 3 } })] } 3 := by
  refine ⟨⟨⟨by decide, by decide, by decide, by decide⟩, ⟨{ tid := 0, current := true, arrived := false }, by decide, rfl⟩, by decide, (fun w h => by cases h)⟩,
    ⟨⟨by decide, by decide, by decide, by decide⟩, by decide, by decide, by decide⟩,
    ⟨⟨by decide, by decide, by decide, by decide⟩, by decide, by decide, by decide, by decide, by decide, by decide⟩,
    by decide, by decide, by decide, by decide, by decide, ⟨_, rfl, rfl, rfl⟩⟩

/-- Thread 0 with a plane 0 of its tenant that claims ports 0 and 1, register values, and bytes in its carve-out. -/
def onPlane (x : Plane) (rs : List (Reg × Word)) (carved : List Byte) : State :=
  { thr with threads := [(0, rs.foldl (fun c e => c.put e.1 e.2) { ctx0 with carveMem := Mem.write [] 0 carved })], planes := [(0, x)] }

/-- The plane CONFIGURED. -/
def conf : Plane := { st := .configured, portmask := 3 }

/-- One command of thread 0. -/
def cmdOf (k : CmdKind) : Cmd := { id := 0, tid := 0, asid := 1, tenant := 0, lnch := 0, k := k }

/-- A plot 0 of tenant 0 with no free entry of the data class. -/
def full : Plot := { owner := some 0, cmds := List.replicate 24 (cmdOf (.ckick 0 0)) }

/-- SCLOSE with no room: first attempt, before the limit, past it. SWAIT on each state of a port; CBAR with and without a command. -/
theorem witness_CommandWaits :
    (let s (c : Ctx) : State := { thr with threads := [(0, c)], planes := [(0, conf)], plots := [(0, full)] }
     let c := ctx0.put 1 2
     ((s c).g 1).toNat < 2 ^ 18 ∧ (∀ y ∈ [c, { c with stall := some 0 }], Holds (s y) 0 0 ∧ ¬ HasRoom (s y) false) ∧ 2 &&& conf.portmask = 2 ∧
     c.stall = none ∧ c.st = .running ∧ ({ c with st := .stopped, stall := some 0 } : Ctx).st = .stopped ∧ 0 < ((s c).tenant 0).qstallmax ∧ (s c).cycle - 0 < ((s c).tenant 0).qstallmax ∧
     ((s c).tenant 0).qstallmax ≤ ({ s c with cycle := 1048576 } : State).cycle - 0) ∧
    (∀ st ∈ [PortSt.faulted, .idle, .bound, .closed],
      ({ thr with ports := [(0, { st := st })] } : State).port 0 ((thr.g 1).toNat % 16) = { st := st }) ∧ (thr.g 1).toNat < 64 ∧ Holds thr 0 0 ∧
    64 ≤ ((thrG [(1, 64)]).g 1).toNat ∧ ¬ Holds State.reset 0 0 ∧
    (thr.portPlane 0 0).isNone = true ∧
    (let s : State := { onPlane {} [] [] with planes := [(1, { st := .configured, portmask := 1, scrubbing := true })] }
     s.portPlane 0 0 = some 1 ∧ ¬ Holds s 0 1) ∧
    (¬ ∃ c ∈ (thr.plot 0).cmds ++ (thr.plot 0).inflight ++ (thr.plot 0).mops, c.tid = 0) ∧
    (∃ c ∈ full.cmds ++ full.inflight ++ full.mops, c.tid = 0) ∧
    LimitOver (.swait 1 2 0) thr (thr.g 0) ∧ ¬ LimitOver (.swait 1 2 3) (thrG [(3, 4)]) ((thrG [(3, 4)]).g 3) := by
  decide

/-- A stream descriptor: a read of one row of eight bytes. -/
def desc8 : List Byte := leBytes 12 0 ++ leBytes 4 8 ++ leBytes 4 1 ++ leBytes 4 1 ++ leBytes 40 0

/-- An image header that claims port 0, with an age limit of 256. -/
def hdr1 : List Byte := leBytes 4 1 ++ leBytes 4 256 ++ leBytes 2 1 ++ leBytes 54 0

/-- Legal operands of SCLOSE, SMARK with its largest and smallest number, SBIND and SCFG. -/
theorem witness_StreamAccepted :
    (let s := onPlane conf [(1, 3)] []
     s.cur = .thread 0 ∧ (s.g 1).toNat < 2 ^ 18 ∧ Holds s 0 0 ∧ 3 &&& (s.plane 0 0).portmask = 3 ∧ HasRoom s false) ∧
    (let s := onPlane conf [(1, 0x7FFF00000003)] []
     let w := (s.g 1).toNat
     w % 2 ^ 32 < 2 ^ 18 ∧ w / 2 ^ 32 < 0x8000 ∧ Holds s 0 (w / 65536 % 4) ∧ (w % 65536) &&& (s.plane 0 0).portmask = w % 65536 ∧
     (s.cutsOf (s.regionKey 0 0)).active = false ∧ HasRoom s true ∧
     ∀ n, n < 16 → bitAt (w % 65536) n = true → (s.port 0 n).holds = true →
       (s.port 0 n).d.write = false ∧ (s.port 0 n).marker = none ∧ smarkQueued s 0 n = false) ∧
    (let s := onPlane conf [(1, 0x100000), (2, 0x10001)] desc8
     let sel := (s.g 2).toNat
     sel % 65536 < 64 ∧ sel < 2 ^ 32 ∧ Holds s 0 (sel / 16 % 4) ∧ bitAt (s.plane 0 0).portmask (sel % 16) = true ∧ (s.plane 0 0).st = .configured ∧
     (s.g 1).toNat % 8 = 0 ∧ loadWords s (s.g 1) 8 [] = (.ok desc8, s) ∧ sdescOk desc8 = true ∧ (s.port 0 1).st = .idle ∧ HasRoom s false) ∧
    (let s := onPlane conf [(1, 0x100000)] hdr1
     (s.g 2).toNat < 4 ∧ Holds s 0 0 ∧ (s.g 1).toNat % 64 = 0 ∧ dataLoad s (s.g 1) 64 false = (.ok hdr1, s) ∧ hdrOk s 0 0 hdr1 = true ∧
     (s.plane 0 0).st ≠ .loading ∧ portsBusy s 0 0 = false ∧ claimsClash s 0 0 hdr1 = false ∧ HasRoom s false) := by
  refine ⟨by decide, by decide, ⟨by decide, by decide, by decide, by decide, by decide, by decide, rfl, by decide, by decide, by decide⟩,
    ⟨by decide, by decide, by decide, rfl, by decide, by decide, by decide, by decide, by decide⟩⟩

/-- Thread 0 with one tile of handle 0. -/
def withTile (t : Tile) (rs : List (Reg × Word)) : State := { thrG rs with tiles := [(0, t)] }

/-- TALLOC: level 0 with room, without, level 1 within quota, beyond it, and with the die full. The commands' operands, each
state of a tile, and waits. -/
theorem witness_TileInstructions :
    (let s := thrG [(1, 255), (2, 0x200070000)]
     let t : Tile := { st := .empty, level := 0, esz := 2, rows := 1, cols := 8 }
     (s.g 1).toNat < 256 ∧ (s.g 2).toNat < 2 ^ 38 ∧ (s.g 2).toNat / 2 ^ 32 % 8 = 2 ∧ t.cols * (2 * 2 ^ t.esz) % 64 = 0 ∧
     (s.tile 0 255).st = .free ∧ tileBytes t ≤ 0x600000 ∧ (tileBytes t + 4095) / 4096 ≤ (s.plot 0).gfree ∧
     ({ gfree := 0, gzero := 1 } : Plot).gfree < (tileBytes t + 4095) / 4096) ∧
    (let s := thrG [(1, 0), (2, 0xA00070000)]
     let t : Tile := { st := .empty, level := 1, esz := 2, rows := 1, cols := 8 }
     let g := (tileBytes t + 4095) / 4096
     (s.g 2).toNat / 2 ^ 35 % 4 = 1 ∧ tileBytes t ≤ 0x4000000 ∧ s.pinned 0 (some 0) + g ≤ (s.tenant 0).pinq * 256 ∧
     s.pinned 0 none + g ≤ 32768 ∧
     (({ s with tenants := [(0, { pinq := 0 })] } : State).tenant 0).pinq * 256 < s.pinned 0 (some 0) + g ∧
     (let u : State := { s with tiles := [(0, { st := .ready, level := 1, esz := 2, rows := 2097152, cols := 64 })] }
      32768 < u.pinned 0 none + g)) ∧
    (∀ st ∈ [TileSt.empty, .ready, .filling, .draining], (withTile { st := st, esz := 2, rows := 1, cols := 8 } []).referenced 0 0 = false) ∧
    ({ withTile { st := .filling } [] with plots := [(0, { owner := some 0, cmds := [cmdOf (.tfill 0 0)] })] } : State).referenced 0 0 = true ∧
    (let s := withTile { st := .ready, esz := 2, rows := 1, cols := 8 } [(2, 0xFFFFFFFFFFFFF8)]
     (s.g 1).toNat < 256 ∧ (s.g 2).toNat % 8 = 0 ∧ (s.g 2).toNat < 2 ^ 56 ∧ HasRoom s false) ∧
    LimitOver (.twait 3 1 0) (withTile { st := .empty } []) 0 ∧ ¬ LimitOver (.twait 3 1 2) (withTile { st := .filling } [(2, 1)]) 1 := by
  refine ⟨?_, ?_, ?_, ?_, ?_, ?_, ?_⟩ <;> decide

/-- Thread 0 with ring 0 of plane 0. -/
def withRing (g : Ring) (rs : List (Reg × Word)) : State := { onPlane conf rs [] with rings := [(0, g)] }

/-- Rings: RINIT with and without END, a slot filled and not, a release left and not. Gates: not held, not initialised, each kind
of GEXP in and out of range, PHASE equal and not. Channels: idle, running, without and with a store of theirs. -/
theorem witness_RingsGatesCopies :
    (let s := onPlane conf [(1, 0x21FE00), (2, 3)] []
     let w := (s.g 1).toNat
     w < 2 ^ 25 ∧ bitAt w 7 = false ∧ (s.g 2).toNat < 2 ^ 16 ∧ Holds s 0 (w / 16 % 4) ∧ (s.plane 0 0).st = .configured ∧ bitAt w 6 = false ∧
     (s.ring 0 0).active = false ∧ w / 256 % 256 + (w / 2 ^ 16 % 32 + 1) ≤ 256 ∧
     ((List.range 16).filter fun i => bitAt 3 i).length ≤ w / 2 ^ 21 % 16 + 1 ∧ 3 &&& (s.plane 0 0).portmask = 3) ∧
    (let s : State := { thr with tiles := [(254, { st := .empty }), (255, { st := .empty })] }
     ∀ j, j < 2 → (s.tile 0 (254 + j)).st = .empty ∧ s.referenced 0 (254 + j) = false) ∧
    (let s := withRing { active := true, ns := 2, filled := 1 } [(1, 0x40), (2, 0x10)]
     bitAt (s.g 1).toNat 6 = true ∧ bitAt (s.g 1).toNat 7 = false ∧ s.ringHeld 0 0 0 = true ∧ ringBusy s 0 0 = false ∧ 0 < (s.ring 0 0).filled ∧
     (s.g 2).toNat / 16 < (s.ring 0 0).ns ∧ (s.ring 0 0).filled ≤ (s.g 2).toNat / 16 ∧ s.rrelsOf 0 0 < (s.ring 0 0).filled ∧ HasRoom s true) ∧
    (withRing { active := true } []).ring 0 0 = { active := true } ∧ (withRing { active := true } []).rrelsOf 0 0 = 0 ∧
    (let s (x : Gate) := { thrG [(1, 31), (2, 1)] with gates := [(31, x)] }
     ((s {}).g 1).toNat < 2 ^ 15 ∧ (s {}).plotOwner 0 = some 0 ∧ ((s {}).plot 0).resident = true ∧ 0 < ((s {}).g 2).toNat ∧ ((s {}).g 2).toNat < 2 ^ 16 ∧
     ((s {}).gate 0 31).arrinit = 0 ∧ ((s { arrinit := 1, arr := 65535 }).gate 0 31).arrinit ≠ 0 ∧ HasRoom (s {}) true ∧
     ¬ (65535 + 1 ≤ 65535) ∧ ¬ (8388607 + ((s {}).g 2).toNat ≤ (8388607 : Int)) ∧ (8388606 : Int) + ((s {}).g 2).toNat ≤ 8388607 ∧
     ((s { phase := 1 }).gate 0 31).phase.toNat = ((s {}).g 2).toNat ∧ ((s {}).gate 0 31).phase.toNat ≠ ((s {}).g 2).toNat ∧
     ((s {}).gate 0 31).due = false) ∧
    (let i : Instr := .gwait 3 1 2
     Claim.Waiting i { thr with threads := [(0, { ctx0 with st := .waiting, wait := some { instr := i, start := 0, mark := 1 } })] } 1 ∧
     ¬ Claim.Waiting i thr 1 ∧ Fresh (.cstop 3 1) thr ∧
     Claim.Waiting (.cstop 3 1) { thr with threads := [(0, { ctx0 with st := .waiting, wait := some { instr := .cstop 3 1, start := 0, mark := 0 } })] } 0 ∧
     ({ owner := some 0 } : Chan).stopping = false ∧ ({ owner := some 0 } : Chan).st = 0) ∧
    ((thrG [(1, 0x20)]).plotOwner (((thrG [(1, 0x20)]).g 1).toNat / 32) ≠ some 0) ∧
    (let s (x : Chan) : State := { thrG [(1, 255), (2, 0xFFFFFFFFFFFFC0)] with chans := [(255, x)] }
     let mine (x : Chan) := x.scrubbing = false ∧ x.owner = some 0
     (s {}).ctx.tenant = some 0 ∧ ((s {}).g 1).toNat < 256 ∧ ((s {}).g 2).toNat % 64 = 0 ∧ ((s {}).g 2).toNat < 2 ^ 56 ∧
     mine ((s { owner := some 0 }).chan 255) ∧ mine ((s { owner := some 0, st := 1 }).chan 255) ∧
     (s { owner := some 0 }).kickQueued 255 = false ∧ (∀ p ∈ (s {}).pend, p.party ≠ .chan 255)) ∧
    (∃ p ∈ ({ thr with pend := [{ id := 0, party := .chan 255, tenant := 0, asid := 1, va := 0, spa := 0, bytes := [] }] } : State).pend,
      p.party = .chan 255) := by
  refine ⟨by decide, by decide, by decide, by decide, by decide, by decide,
    ⟨⟨_, rfl, rfl, rfl⟩, (fun ⟨_, h, _⟩ => by cases h), (fun w h => by cases h), ⟨_, rfl, rfl, rfl⟩, rfl, rfl⟩, by decide, by decide, by decide⟩

/-- Thread 0's plot with a cell 0 of plane 0. -/
def withCell (pl : Plane) (x : Cell) : State := { thr with planes := [(0, pl)], cells := [(0, x)] }

/-- A cell with one rule, without a condition, of one beat: its operation word is `w`. -/
def ruleCell (w : Nat) : Cell := { rules := [(0, (0x80000000, BitVec.ofNat 32 w))] }

/-- An operation word from its code, DST, SA, SB and FMT (R32). -/
def opw (c d a b f : Nat) : Nat := c * 2 ^ 25 + d * 2 ^ 20 + a * 2 ^ 15 + b * 2 ^ 10 + f * 8

/-- The rule of an operation fires, and is of that operation and format. -/
def ruleFires (pl : Plane) (c : CellOp) (d a b f : Nat) : Bool :=
  let w := opw (((List.range 128).find? fun n => cellOpOf? n == some c).getD 0) d a b f
  match decOpWord (BitVec.ofNat 32 w) with
  | some o => decide (Fires (withCell pl (ruleCell w)) ⟨0, 0, 0, 0⟩ (decTrigger 0x80000000) o) && o.op == c && o.dst == d && o.sa == a && o.sb == b && o.fmt == f
  | none => false

/-- Every operation with two operands fires in a legal format, and the compares in both widths. -/
theorem witness_CellResult :
    (∀ c ∈ [CellOp.add, .sub, .mul, .and, .or, .xor, .shl, .shr, .sar, .min, .max, .abs, .neg], ruleFires conf c 23 0 1 0 = true) ∧
    (∀ c ∈ [CellOp.fadd, .fsub, .fmul, .fma, .fmin, .fmax, .fabs, .fneg, .exp2, .log2, .rcp, .rsqrt, .sqrt, .tanh, .sigm, .gact],
      ruleFires conf c 3 1 2 2 = true ∧ ruleFires conf c 3 1 2 7 = true) ∧
    (∀ c ∈ [CellOp.cmpeq, .cmplt, .cmple], ruleFires conf c 3 1 2 1 = true) ∧ (∀ c ∈ [CellOp.fcmpeq, .fcmplt], ruleFires conf c 0 1 2 2 = true) := by
  decide

/-- Every other operation fires: with registers, with a predicate token of either value, with a data token. -/
theorem witness_CellOtherResult :
    (∀ c ∈ [CellOp.nop, .mov, .sel, .pset, .pand, .por, .pnot], ruleFires conf c 1 1 2 0 = true) ∧
    (∀ c ∈ [CellOp.cvt, .qbfp, .dqbfp, .rsum, .rmax], ruleFires conf c 1 1 2 2 = true) ∧
    (∀ c ∈ [CellOp.psend, .tagset], ruleFires conf c 31 1 7 0 = true) ∧
    (∀ b ∈ [true, false], let pl : Plane := { conf with ep := [(160, [{ k := .pred b }])] }
      pinTok pl 0 = some b ∧ ruleFires pl .precv 3 1 2 0 = true ∧ ruleFires pl .merge 3 1 2 0 = true ∧ ruleFires pl .steer 31 1 2 0 = true ∧
      outRoom pl {} 0 7 = true ∧ outRoom pl {} 0 6 = true) ∧
    (let pl : Plane := { conf with ep := [(7, [{ k := .data 5 0 }])] }
     tokAt pl 0 7 0 = some { k := .data 5 0 } ∧ ruleFires pl .drop 0 31 0 0 = true) ∧
    (∀ f ∈ [2, 3, 7], ((quantBlock f 0 0 [0x3FF0000000000000]).1.getLast?).isSome) := by
  decide

/-- A cell with nothing to fire, in a later beat, with each kind of result due, with markers to pass on, with a rule at its age
limit, and with a fault. -/
theorem witness_CellEvents :
    (let s := withCell conf {}
     cellActs s 0 0 0 = true ∧ (s.cell 0 0 0).run = none ∧ (s.cell 0 0 0).land_ = [] ∧ pickOf (s.plane 0 0) s.cycle 0 (s.cell 0 0 0) = .idle ∧
     (conf.headTok 160).map (fun h => h.k) ≠ some .eot) ∧
    (let x := { ruleCell (opw 1 2 1 0 0) with run := some { slot := 0 } }
     let s := withCell conf x
     cellActs s 0 0 0 = true ∧ ((s.cell 0 0 0).ruleAt 0).map (fun r => (r.1.nm1, r.2.op, r.2.sa, r.2.dst)) = some (0, .mov, 1, 2) ∧ (x.reg 1).st = .full ∧
     (({ slot := 0 } : Running).beat, ({ slot := 0 } : Running).outq, ({ slot := 0 } : Running).spent, ({ slot := 0 } : Running).due) = (0, [], false, 0)) ∧
    (∀ d ∈ [ResDst.reg 23, .pred 3, .out 7 0], ((withCell conf { land_ := [{ at_ := 0, dst := d, v := 1 }] }).cell 0 0 0).land_ =
      [{ at_ := 0, dst := d, v := 1 }]) ∧
    (let pl : Plane := { conf with routes := List.replicate 8 0 ++ [0], ep := [(0, [{ k := .eot }]), (160, [{ k := .eot }])] }
     let s := withCell pl {}
     (pl.headTok 0).map (fun h => h.k) = some .eot ∧ s.planeRuns 0 0 = true ∧ outRoom pl {} 0 0 = true ∧ pl.fed 0 ≠ [] ∧
     (pl.headTok 160).map (fun h => h.k) = some .eot ∧ cellActs s 0 0 0 = true ∧ pickOf pl 0 0 {} = .idle) ∧
    (let pl : Plane := { conf with agelim := 1 }
     let w : BitVec 32 := BitVec.ofNat 32 (opw 1 2 1 0 0)
     let x : Cell := { rules := [(0, (0x80000000, w)), (31, (0x80000000, w))] }
     (decOpWord w).any (fun o => decide (Fires (withCell pl x) ⟨0, 0, 0, 0⟩ (decTrigger 0x80000000) o) && o.op == .mov && o.sa == 1 && o.dst == 2) = true ∧
     31 ∈ x.slots ∧ x.readySlot pl 0 0 31 = .yes ∧ 31 ∉ x.promoted ∧ (pl.opts 0).1 ≤ min (Tbl.getD x.ages 31 0 + 1) 4095) ∧
    (let x : Cell := { ruleCell (opw 1 2 1 0 0) with regs := (Vector.replicate 24 {}).set 1 { st := .dead } }
     let s := withCell { conf with deadtrap := true } x
     cellActs s 0 0 0 = true ∧ x.run = none ∧ pickOf (s.plane 0 0) 0 0 x = .fault 3 0) := by decide

/-- A body of zeros has no illegal rule. -/
theorem illegalSlot_zero : illegalSlot (List.replicate 0x1160 0) = none := by
  have hf : ∀ m n, leNat ((List.replicate m (0 : Byte)).take n) = 0 := by
    intro m n
    rw [List.take_replicate]
    generalize min n m = j
    induction j with
    | zero => rfl
    | succ j ih => rw [List.replicate_succ, leNat, ih]; rfl
  have hw : ∀ c i, ruleWords (List.replicate 0x1160 0) c i = (0, 0) := by
    intro c i
    simp only [ruleWords, fieldAt, List.drop_replicate, hf]
    rfl
  have hr : ruleIllegal 0 0 = false := by decide
  unfold illegalSlot
  rw [List.find?_eq_none]
  intro e _
  simp only [hw, hr]
  decide

/-- Memory with nothing listed reads as zeros. -/
theorem read_nil (a n : Nat) : Mem.read [] a n = List.replicate n 0 := by
  induction n generalizing a with
  | zero => rfl
  | succ n ih => rw [Mem.read, ih, List.replicate_succ]; rfl

/-- A plane whose load has started, with its image at 0. -/
def loading (m : List Host.Cell) : State :=
  { thr with planes := [(0, { st := .loading, asid := 1 })], xlats := [{ page0 with size := 0x200000, spa := 0x200000, len := 0x200000 }], mem := m }

/-- The image of that plane reads as zeros. -/
theorem loads_zero :
    unitRead (loading []) (.core 0) ((loading []).planeTenant 0 0) ((loading []).plane 0 0).asid (segsOf (((loading []).plane 0 0).image + 64) 0x1160) =
      ((.ok 0, 0, List.replicate 0x1160 0), endReach (loading []) (.core 0)) := by
  have hv : ∀ a n, viewOf (loading []) (.core 0) a n = List.replicate n 0 := by
    intro a n
    show State.plotView (loading []) 0 a n = _
    unfold State.plotView
    rw [show (loading []).mem = [] from rfl, read_nil]
    rfl
  have hs : segsOf (((loading []).plane 0 0).image + 64) 0x1160 = [(64, 4032), (4096, 416)] := by decide
  have h1 : translate (loading []) (.core 0) 0 0 1 true 64 .read = (.ok 0x200040, loading []) := by rfl
  have h2 : translate (loading []) (.core 0) 0 0 1 true 4096 .read = (.ok 0x201000, loading []) := by rfl
  have r1 : reach (loading []) (.core 0) 0x200040 4032 = (.here, loading []) := by rfl
  have r2 : reach (loading []) (.core 0) 0x201000 416 = (.here, loading []) := by rfl
  have b1 : (loading []).isBad 0x200040 4032 = false := by decide
  have b2 : (loading []).isBad 0x201000 416 = false := by decide
  have e : (loading []).planeTenant 0 0 = 0 := by decide
  have a1 : ((loading []).plane 0 0).asid = 1 := by decide
  unfold unitRead
  simp only [hs, e, a1, unitLoad, h1, h2, r1, r2, b1, b2, hv, List.nil_append, List.replicate_append_replicate]
  rfl

/-- A plane whose endpoint 0 has a route, with a token at cell 0's output 0 for endpoints 0 and 1. -/
def arcPlane (w : BitVec 16) : Plane :=
  { conf with routes := [w], src := [(0, [{ k := .data 1 0, todo := [0, 1], hor := [3] }])] }

/-- Tokens that move on ordinary arcs, ordering arcs with and without an access to wait for, and images legal and not. -/
theorem witness_FabricEvents :
    ((arcPlane 0).feed 0 = some 0 ∧ (arcPlane 0).feed 1 = none ∧ (arcPlane 8).feed 0 = some 0) ∧
    (((arcPlane 0).route 0).ord = false ∧ ((arcPlane 8).route 0).ord = true ∧ ((arcPlane 0).epBuf 0).length < epDepth 0 ∧
     (arcPlane 0).cutDue 0 = false ∧ (arcPlane 8).cutDue 0 = false) ∧
    takeTok 0 ((arcPlane 0).srcBuf 0) = some ({ k := .data 1 0, todo := [0, 1], hor := [3] }, [{ k := .data 1 0, todo := [1], hor := [3] }]) ∧
    (∀ i ∈ [3], ∀ q ∈ thr.pend, q.id ≠ i) ∧
    (∃ i ∈ [3], ∃ q ∈ ({ thr with pend := [{ id := 3, party := .port 0 0, tenant := 0, asid := 1, va := 0, spa := 0, bytes := [1] }] } : State).pend, q.id = i) ∧
    ((arcPlane 0).epBuf 0 = [] ∧ (thr.plot 0).resident = true ∧ ({ resident := false } : Plot).resident = false) ∧
    ((loading []).plane 0 0).st = .loading ∧ (loading []).loadStarted 0 0 = true ∧
    (∀ l, l < 4 → bitAt ((loading []).plane 0 0).latmask l = true → ((loading []).lat 0 l).ending = false) ∧
    unitRead (loading []) (.core 0) ((loading []).planeTenant 0 0) ((loading []).plane 0 0).asid (segsOf (((loading []).plane 0 0).image + 64) 0x1160) =
      ((.ok 0, 0, List.replicate 0x1160 0), endReach (loading []) (.core 0)) ∧ illegalSlot (List.replicate 0x1160 0) = none :=
  ⟨by decide, by decide, rfl, by decide, by decide, by decide, by decide, by decide, by decide, loads_zero, illegalSlot_zero⟩

/-- Thread 0's plot with commands accepted. -/
def withCmds (ks : List CmdKind) : State := { thr with plots := [(0, { owner := some 0, cmds := ks.map cmdOf })] }

/-- The oldest command of each kind that CommandStart names, with a cut that has its number and one that has not. -/
theorem witness_CommandStart :
    (∀ k ∈ [CmdKind.scfg 0 0 [], .tfill 1 8, .tdrain 1 8, .mbind 0, .mzero 1, .mnorm 0, .sclose 1 0 false, .sclose 1 0 true],
      Oldest (withCmds [.garr 0, k]) 0 false (cmdOf k)) ∧
    (∀ k ∈ [CmdKind.gexp 0, .smark 1 0 7], Oldest (withCmds [.ckick 0 0, k]) 0 true (cmdOf k)) ∧
    (let c : Cmd := { cmdOf (.tfill 1 8) with tid := 8192 }
     Oldest { thr with plots := [(0, { owner := some 0, cmds := [c, cmdOf (.mbind 0)] })] } 0 false c) ∧
    (let s : State := { withCmds [.smark 1 0 7] with cuts := [((withCmds []).regionKey 0 0, { num := 7, active := true })] }
     (s.cutsOf (s.regionKey 0 0)).active = true ∧ (s.cutsOf (s.regionKey 0 0)).num = 7) := by
  decide

/-- Thread 0's plot with one port bound to a stream under way. -/
def withPort (x : Port) : State :=
  { thr with planes := [(0, conf)], ports := [(0, { x with st := .bound, begun := true, asid := 1 })], tiles := [(0, { st := .ready, esz := 5, rows := 1, cols := 1 })],
             xlats := [{ page0 with holder := .port 0 0 }] }

/-- A descriptor: control bits, base. -/
def descOf (ctrl base : Nat) : List Byte := leBytes 8 base ++ leBytes 4 ctrl ++ leBytes 4 8 ++ leBytes 4 1 ++ leBytes 4 1 ++ leBytes 40 0

/-- Read beats from memory and from a tile, and a write beat; each end of a stream's life; a ring producer's marker. -/
theorem witness_StreamProgress :
    (∀ x ∈ [({ desc := descOf 0 0 } : Port), { desc := descOf 2 0 }, { desc := descOf 1 0 }], AtWork (withPort x) 0 0) ∧
    (let d := sdesc (descOf 0 0)
     d.write = false ∧ d.fmtw = 0 ∧ 0 < d.beats ∧ conf.connected 136 = false ∧ conf.headTok 136 = none ∧ 0 < conf.srcRoom 128 ∧ d.tile = false) ∧
    (let s := withPort { desc := descOf 0 0 }
     ∃ s1, unitLoad s (.port 0 0) 0 (s.planeTenant 0 0) (s.port 0 0).asid [((s.port 0 0).d.va 0, 8)] [] = ((.ok 0, 0, List.replicate 8 0), s1)) ∧
    ((sdesc (descOf 2 0)).tile = true ∧ tileRead (withPort {}) 0 0 ((sdesc (descOf 2 0)).tileAt 0) 8 = .ok (List.replicate 8 0)) ∧
    (let d := sdesc (descOf 1 0)
     d.write = true ∧ d.tile = false ∧ ({ conf with ep := [(136, [{ k := .data 5 0 }])] } : Plane).headTok 136 = some { k := .data 5 0 }) ∧
    (let s := withPort { desc := descOf 1 0 }
     ∃ s1, unitStore (s.setPort 0 0 (s.port 0 0)) (.port 0 0) (s.planeTenant 0 0) (s.port 0 0).asid (some (s.port 0 0).lnch) ((s.port 0 0).d.va 0)
       (leBytes 8 5) = ((.ok 0x8000, s.nextId), s1)) ∧
    (let s : State := { thr with planes := [(0, conf)], ports := [(0, { st := .bound, after := [(1, 9)] })] }
     (s.port 0 0).begun = false ∧ (∀ e ∈ (s.port 0 0).after, ((s.port 0 e.1).st = .idle ∨ (s.port 0 e.1).serial ≠ e.2) ∧ ∀ q ∈ s.pend, q.party ≠ .port 0 e.1) ∧
     (s.cutsOf (s.regionKey 0 0)).active = false) ∧
    ((0 + 1) * (sdesc (descOf 1 0)).rowBeats ≤ 1 ∧ (sdesc (descOf 1 0)).beats = 1 ∧ (sdesc (descOf 0 0)).beats = 1 ∧
     (withPort { desc := descOf 1 0, pos := 1 }).ringOfPort 0 0 = none ∧ thr.isRollback (some 0) = false) ∧
    (let s := withPort { desc := descOf 1 0, pos := 1 }
     s.planeRuns 0 0 = true ∧ (s.port 0 0).ackq = [] ∧ (s.port 0 0).st = .bound ∧ (s.port 0 0).begun = true ∧ (s.port 0 0).pos = (s.port 0 0).d.beats ∧
     (s.port 0 0).marker = none ∧ (s.port 0 0).ended = false ∧ ∀ e ∈ (s.port 0 0).stores, e.1 ≠ (s.port 0 0).acked) ∧
    (((withPort { fatal := some 8 }).port 0 0).fatal = some 8 ∧ ((withPort { fatal := some 8 }).plot 0).resident = true ∧
     ({ resident := false } : Plot).resident = false) ∧
    (let s : State := { withPort { desc := descOf 3 0, pos := 1, acked := 1 } with
       rings := [(0, { active := true, pmask := 1 })], planes := [(0, { conf with ep := [(136, [{ k := .eot }])] })], tiles := [(0, { st := .empty })] }
     AtWork s 0 0 ∧ s.ringOfPort 0 0 = some 0 ∧ (s.ring 0 0).indexOf (.port 0) = (s.ring 0 0).w ∧
     ((s.plane 0 0).headTok 136).map (fun e => e.k) = some .eot ∧ (s.ring 0 0).filled < (s.ring 0 0).ns ∧ (s.tile 0 0).st = .empty ∧ (s.ring 0 0).plane < 4 ∧
     s.isRollback (s.plane 0 0).lnch = false ∧ (s.port 0 0).acked = (s.port 0 0).pos / (s.port 0 0).d.rowBeats ∧
     Producer.port 0 ∉ (s.ring 0 0).marks ∧ (s.ring 0 0).fan ≤ (s.ring 0 0).marks.length + 1 ∧ ¬ (({} : Ring).marks.length + 1 < ({ fan := 1 } : Ring).fan) ∧
     ({} : Ring).marks.length + 1 < ({ fan := 2 } : Ring).fan) := by
  refine ⟨by decide, by decide, ⟨_, rfl⟩, ⟨by decide, rfl⟩, by decide, ⟨_, rfl⟩, by decide, by decide, by decide, by decide, by decide⟩

/-- A channel record: NEXT, control word, source, destination, for one row of 8 bytes. -/
def record (next ctl src dst : Nat) : List Byte := leBytes 8 next ++ leBytes 4 ctl ++ leBytes 4 8 ++ leBytes 8 src ++ leBytes 8 dst ++ leBytes 4 1 ++ leBytes 28 0

/-- Channel 0 of tenant 0 at work, with the record its address names in memory. -/
def copying (x : Chan) (b : List Byte) : State :=
  { thr with xlats := [{ page0 with holder := .chan 0 }, { page0 with holder := .chan 0, role := 1 }], mem := Mem.write [] 0x8000 b,
             chans := [(0, { x with owner := some 0, st := 1, asid := 1 })] }

/-- What `unitRead` answers, and the state after it. -/
def readAt (s : State) : (XRes × Word × List Byte) × State := unitRead s (.chan 0) 0 1 (segsOf (s.chan 0).cur 64)

/-- The state a store ends in. -/
def okState : Except CopyRes State → State
  | .ok s => s
  | .error _ => State.reset

theorem store_ok {r : Except CopyRes State} (h : (match r with | .ok _ => true | _ => false) = true) : r = .ok (okState r) := by
  cases r <;> first | rfl | cases h

/-- A CKICK accepted for channel 0. -/
def kicked (hd : Word) : State := { withCmds [.ckick 0 hd] with chans := [(0, { owner := some 0 })] }

/-- A GARR accepted for gate 31, with some arrivals left, or with none and bytes expected. -/
def arriving (n : Nat) : State := { withCmds [.garr 31] with gates := [(31, { arrinit := 2, arr := n, txn := if n = 0 then 1 else 0 })] }

/-- RREL with a slot filled; GARR at zero, one and two arrivals; CKICK with a record and with none; a stopping channel; records
without OWN, not valid, and valid; a record copied to its end. -/
theorem witness_SignalsAndCopies :
    (let s : State := { withCmds [.rrel 0] with rings := [(0, { active := true, filled := 1 })] }
     Oldest s 0 true (cmdOf (.rrel 0)) ∧ (s.ring 0 0).active = true ∧ 0 < (s.ring 0 0).filled) ∧
    (∀ n ∈ [0, 1, 2], Oldest (arriving n) 0 true (cmdOf (.garr 31)) ∧ ((arriving n).plot 0).resident = true ∧ ((arriving n).gate 0 31).arrinit ≠ 0 ∧
     ((arriving n).gate 0 31).arr = n ∧ (0 < n → ((arriving n).gate 0 31).txn = 0) ∧ ((arriving n).gate 0 31).deferBy = [] ∧ ((arriving n).gate 0 31).due = false ∧
     (∀ i ∈ 0 :: ((arriving n).gate 0 31).arrivers, i < 8192 ∧ ((arriving n).thread i).fadd = []) ∧ (arriving n).isRollback (some 0) = false) ∧
    (Oldest (kicked 0) 0 false (cmdOf (.ckick 0 0)) ∧ Oldest (kicked 64) 0 false (cmdOf (.ckick 0 64)) ∧ (kicked 0).chan 0 = { owner := some 0 } ∧
     (kicked 64).chan 0 = { owner := some 0 }) ∧
    ({ thr with chans := [(0, { stopping := true })] } : State).chan 0 = { stopping := true } ∧ (thr.chan 0).stopping = false ∧
    (∀ b ∈ [record 0 0 0x40 0x80, record 0 1 0x40 0x81, record 64 1 0x40 0x80], let s := copying {} b
     (s.chan 0).st = 1 ∧ (s.chan 0).stopping = false ∧ s.chanHalted 0 = false ∧ (s.chan 0).recRun = false ∧ (s.chan 0).waitSlot = false ∧
     (readAt s).1 = (.ok 0, 0, b)) ∧
    ((recOf (record 0 0 0x40 0x80)).own = false ∧ recValid (readAt (copying {} (record 0 1 0x40 0x81))).2 0 0 (record 0 1 (2 ^ 56) 0x81) = false ∧
     recValid (readAt (copying {} (record 64 1 0x40 0x80))).2 0 0 (record 64 1 0x40 0x80) = true ∧ (recOf (record 64 1 0x40 0x80)).dkind = 0) ∧
    (let b := record 0 1 0x40 0x80
     let s := copying { recRun := true, record := b } b
     recResident s (recOf b) = true ∧ (s.chan 0).pos < (recOf b).pieces) ∧
    (∀ n ∈ [0, 64], let b := record n 1 0x40 0x80
     let r := recOf b
     let s := copying { recRun := true, record := b, pos := r.pieces } b
     let st := storePieces (drainParty { s with free := s.free + 1 } (.chan 0)) 0 0 [(8, leBytes 4 (fieldAt b 8 4 - 1))]
     let s2 := okState st
     let s' := (drainParty s2 (.chan 0)).setChan 0 { (drainParty s2 (.chan 0)).chan 0 with held := true, stalled := false }
     (s.chan 0).recRun = true ∧ (s.chan 0).held = false ∧ r.dkind = 0 ∧ recResident s r = true ∧ r.mark = false ∧ r.gdone = false ∧ r.pieces ≤ (s.chan 0).pos ∧ st = .ok s2 ∧
     (unitRead s' (.chan 0) 0 1 [(0, 8)]).1 = (.ok 0, 0, leBytes 8 n) ∧ s2.chan 0 = s.chan 0 ∧
     (unitRead s' (.chan 0) 0 1 [(0, 8)]).2.chan 0 = { s.chan 0 with held := true, stalled := false }) := by
  refine ⟨by decide, by decide, by decide +kernel, by decide, by decide, by decide +kernel, by decide +kernel, by decide, fun n h => ⟨?_, ?_, ?_, ?_, ?_, ?_, ?_, store_ok ?_, ?_, ?_, ?_⟩⟩
  all_goals (revert n; decide +kernel)


/-- A fill or a drain of tile 0 under way, the tile of 8 bytes, with some translations. -/
def filling (k : CmdKind) (xs : List Xlat) : State :=
  { thr with plots := [(0, { owner := some 0, gzero := 1, inflight := [cmdOf k] })], xlats := xs,
             tiles := [(0, { st := if k = .tdrain 0 8 then .draining else .filling, esz := 5, rows := 1, cols := 1 })] }

/-- A fill that reads its tile, one that meets a fatal outcome, a drain, and a plot with and without a granule to zero. -/
theorem witness_TileEvents :
    (let s := filling (.tfill 0 8) [{ page0 with holder := .fill 0 0 }]
     s.fillCmd 0 0 false = some (cmdOf (.tfill 0 8), 8) ∧ (s.tile 0 0).st = .filling ∧
     (unitRead s (.fill 0 0) 0 1 (segsOf 8 (tileBytes (s.tile 0 0)))).1 = (.ok 0, 0, List.replicate 8 0)) ∧
    (let s := { filling (.tfill 0 8) [] with fatals := [(.fill 0 0, 0, .read, 3)] }
     s.fillCmd 0 0 false = some (cmdOf (.tfill 0 8), 8) ∧ (s.tile 0 0).st = .filling ∧ ∃ r l w bs, (unitRead s (.fill 0 0) 0 1 (segsOf 8 (tileBytes (s.tile 0 0)))).1 = (.fatal r l, w, bs)) ∧
    (let s := filling (.tdrain 0 8) [{ page0 with holder := .fill 0 0 }]
     let s1 := (pagesWait s (.fill 0 0) 0 1 .write (segsOf 8 (tileBytes (s.tile 0 0)))).2
     s.fillCmd 0 0 true = some (cmdOf (.tdrain 0 8), 8) ∧ (s.tile 0 0).st = .draining ∧ (pagesWait s (.fill 0 0) 0 1 .write (segsOf 8 (tileBytes (s.tile 0 0)))).1 = false ∧
     (drainBeats s1 (.fill 0 0) 0 1 (some 0) 8 (beatsOf (Mem.read (s.tile 0 0).bytes 0 (tileBytes (s.tile 0 0))) (tileBytes (s.tile 0 0) / 8))).1 = (.ok 0, 0)) ∧
    0 < ((filling (.tfill 0 8) []).plot 0).gzero ∧ (thr.plot 0).gzero = 0 ∧ (thr.plot 0).gzero1 = 0 ∧
    (({ gzero1 := 1 } : Plot).gzero = 0 ∧ 0 < ({ gzero1 := 1 } : Plot).gzero1) := by
  refine ⟨by decide, ⟨by decide, by decide, .notPresent, 3, 8, [], by decide⟩, by decide, by decide, by decide⟩

/-- Lattice 0 claimed by plane 0, with ports and operand A connected, a tile that holds a slice of format 5, and register values. -/
def withLat (x : Machine.Lat) (rs : List (Reg × Word)) : State :=
  { onPlane { conf with latmask := 1, routes := List.replicate 128 0xFC00 ++ [0] } rs [] with
    lats := [(0, x)], tiles := [(0, { st := .ready, esz := 5, rows := 32, cols := 8, bytes := Mem.write [] 0 (leBytes 2 5 ++ leBytes 2 1 ++ leBytes 4 512) })] }

/-- Legal operands of the six instructions, and one of MHEAD that is not. -/
theorem witness_MatrixAccepted :
    (let s := withLat {} [(1, 0x1F4), (2, 0)]
     let sel := (s.g 1).toNat
     let hd := Mem.read (s.tile 0 0).bytes 0 16
     HasRoom s false ∧ sel < 2 ^ 9 ∧ bitAt sel 3 = false ∧ bitAt sel 2 = true ∧ s.latClaimed 0 (sel % 4) 0 = true ∧ (s.lat 0 0).faulted = false ∧
     (s.g 2).toNat < 2 ^ 40 ∧ (s.tile 0 0).st = .ready ∧ 0 + 16 + fieldAt hd 4 4 ≤ tileBytes (s.tile 0 0) ∧ sliceHdrOk hd = true ∧
     ((s.lat 0 0).slot (sel / 16)).st ≠ .loading ∧ (s.lat 0 0).named (sel / 16) = false ∧
     (16 + fieldAt hd 4 4 + 63) / 64 ≤ (s.lat 0 0).free + ((s.lat 0 0).slot (sel / 16)).lines) ∧
    (let s := withLat { slots := [(0, { st := .valid, bfmt := 5, kb := latK 5 })] } [(1, 0x280)]
     HasRoom s false ∧ (s.g 1).toNat < 2 ^ 28 ∧ (s.g 1).toNat / 2 ^ 7 % 16 ≤ 8 ∧ mbindOk s 0 (s.g 1) = true ∧ (s.lat 0 0).binds.length < 4) ∧
    (let s := withLat {} [(1, 0xF)]
     (s.g 1).toNat < 2 ^ 17 ∧ (s.g 1).toNat % 65536 ≠ 0 ∧ ∀ n, n < 16 → bitAt (s.g 1).toNat n = true → s.latClaimed 0 (n / 4) 0 = true) ∧
    (let s := withLat {} [(1, 0x80000), (2, 0)]
     let sel := (s.g 1).toNat
     sel < 2 ^ 21 ∧ sel / 2 ^ 16 % 8 ≠ 7 ∧ sel / 16 % 64 + sel / 2 ^ 10 % 64 < 64 ∧ s.latClaimed 0 (sel % 16 / 4) 0 = true ∧ bitAt sel 19 = true ∧ s.g 2 = 0) ∧
    (let s := withLat {} [(1, 0x2703F0)]
     let sel := (s.g 1).toNat
     sel < 2 ^ 22 ∧ sel / 2 ^ 16 ≤ 39 ∧ sel / 16 % 64 + sel / 2 ^ 10 % 64 < 64 ∧ s.latClaimed 0 (sel / 4 % 4) 0 = true) ∧
    (((withLat {} [(1, 0x3F3)]).g 1).toNat < 2 ^ 10 ∧ ((withLat {} []).acc 0 3).wide = false) ∧ 2 ^ 10 ≤ ((withLat {} [(1, 0x400)]).g 1).toNat := by
  refine ⟨?_, ?_, ?_, ?_, ?_, ?_, ?_⟩ <;> decide

/-- Thread 0 waits in an instruction. -/
def waiting (i : Instr) (rs : List (Reg × Word)) : State :=
  { thr with threads := [(0, rs.foldl (fun c e => c.put e.1 e.2) { ctx0 with st := .waiting, wait := some { instr := i, start := 0, mark := 9 } })] }

/-- A waiting thread may try its instruction again, whichever it is; a running one waits in none; limits passed and not; ICINV
of a legal range, an empty one, and one that leaves the address space. -/
theorem witness_ReturnsAndCode :
    (∀ i, MayRetry (waiting i []) 0 i) ∧ ReturnOf .cbarReturn .cbar ∧ HasLimit (.swait 1 2 3) 3 ∧ (∀ j, ¬ MayRetry thr 0 j) ∧
    (((waiting (.swait 1 2 3) []).thread 0).get 3).toNat ≤ (waiting (.swait 1 2 3) []).cycle - 0 ∧
    (waiting (.swait 1 2 3) [(3, 1)]).cycle - 0 < (((waiting (.swait 1 2 3) [(3, 1)]).thread 0).get 3).toNat ∧
    (let s := thrG [(1, 0xFFFFFF00000000), (2, 0x100000000)]
     0 < (s.g 2).toNat ∧ (s.g 2).toNat ≤ 2 ^ 32 ∧ (s.g 1).toNat < 2 ^ 56 ∧ (s.g 1).toNat + (s.g 2).toNat ≤ 2 ^ 56) ∧
    (let i : Instr := .icinv 3 1 2 .dom
     let s : State := { waiting i [(2, 64)] with pend := [farStore (.thread 0)] }
     Claim.Waiting i s 9 ∧ (∃ q ∈ s.pend, Earlier s 0 q ∧ s.isLocal q.spa = false) ∧ ∀ q ∈ thr.pend, Earlier thr 0 q → thr.isLocal q.spa = true) ∧
    ¬ (0 < (thr.g 2).toNat) ∧ ¬ (((thrG [(1, 0xFFFFFF00000001), (2, 0x100000000)]).g 1).toNat + 0x100000000 ≤ 2 ^ 56) ∧
    Fresh (.icinv 3 1 2 .pkg) thr ∧ Claim.Waiting (.icinv 3 1 2 .pkg) (waiting (.icinv 3 1 2 .pkg) []) 9 := by
  refine ⟨fun i => ⟨rfl, rfl, _, rfl, rfl⟩, ?_, .inl ⟨1, 2, .inr (.inl rfl)⟩, ?_, by decide, by decide, by decide,
    ⟨⟨_, rfl, rfl, rfl⟩, ⟨_, .head _, .inl rfl, by decide⟩, (fun _ h => by cases h)⟩, by decide, by decide, (fun w h => by cases h), ⟨_, rfl, rfl, rfl⟩⟩
  · unfold ReturnOf
    simp
  · rintro j ⟨_, _, w, h, _⟩
    cases h

/-- Each return event's condition, in a state in which thread 0 waits. -/
theorem witness_WaitReturns :
    (let s := waiting (.waitLoc 3 1 2) [(1, 0x100000), (3, 1)]
     ((s.thread 0).get 1).toNat % 8 = 0 ∧ LoadFinds { s with cur := .thread 0 } ((s.thread 0).get 1) 8 true (List.replicate 8 0) ∧
     BitVec.ofNat 64 (leNat (List.replicate 8 0)) ≠ (s.thread 0).get 3) ∧
    (let s := waiting (.swait 3 1 2) []
     Holds { s with cur := .thread 0 } 0 0 ∧ s.portPlane 0 0 = none ∧ (s.port 0 0).st = .idle) ∧
    (let s := { waiting (.swait 3 1 2) [] with ports := [(0, { st := .bound })] }
     (s.port 0 0).st = .bound ∧ ((s.thread 0).get 2).toNat ≤ s.cycle - 0) ∧
    (let s (st : TileSt) := { waiting (.twait 3 1 2) [] with tiles := [(0, { st := st })] }
     ((s .ready).tile 0 0).st = .ready ∧ ((s .ready).tile 0 0).err = false ∧ ((s .filling).tile 0 0).st = .filling ∧ ((s .filling).tile 0 0).err = false) ∧
    (let s := { onPlane conf [] [] with rings := [(0, { active := true, ns := 1, filled := 1 })] }
     s.ringHeld 0 0 0 = true ∧ 0 < (s.ring 0 0).ns ∧ 0 < (s.ring 0 0).filled) ∧
    (∃ w, ((({ waiting .nop [] with threads := [(0, { ctx0 with st := .waiting, wait := some { instr := .gwait 3 1 2, start := 0, mark := 1 } })] } : State)).thread 0).wait =
      some w ∧ w.instr = .gwait 3 1 2 ∧ w.mark = 1) ∧
    (∃ y, ({ waiting (.sbar 3 1) [] with sets := [{ tenant := 0, key := 0, cur := 1, phase := 10, mem := [] }] } : State).findSet 0 0 = some y ∧ 9 < y.phase) ∧
    (∀ i ∈ (waiting (.tlbsync 3 1) []).invals, i.tid ≠ 0) ∧ (∀ e ∈ (waiting (.dsync 3 1 2) []).regions, e.2.tenant ≠ 0) ∧
    (let s := { waiting (.nbwait 3 1 2) [] with mboxes := [(0, { owner := some 0, st := 2 })] }
     s.mboxHeld 0 0 = true ∧ (s.mbox 0).st = 2) ∧
    (∀ c ∈ ((waiting .cbar []).plot 0).cmds ++ ((waiting .cbar []).plot 0).inflight ++ ((waiting .cbar []).plot 0).mops, c.tid ≠ 0) ∧
    (let s := waiting (.icinv 3 1 2 .pkg) [(2, 64)]
     ((s.thread 0).get 1).toNat < 2 ^ 56 ∧ 0 < ((s.thread 0).get 2).toNat ∧ ((s.thread 0).get 2).toNat ≤ 2 ^ 32) :=
  ⟨⟨by decide, .inl ⟨0, 0, by decide, by decide, by decide, by decide⟩, by decide⟩, by decide, by decide, by decide, by decide, ⟨_, rfl, rfl, rfl⟩,
   ⟨_, rfl, by decide⟩, by decide, by decide, by decide, by decide, by decide⟩

/-- A near-bank descriptor of one FP16 row of 32 elements: weights at 0, vector at 64, result at 128. -/
def ndot : List Byte := leBytes 16 0 ++ leBytes 8 64 ++ leBytes 8 0 ++ leBytes 8 128 ++ leBytes 4 32 ++ leBytes 4 1 ++ leBytes 8 3 ++ leBytes 8 0

/-- Mailbox 0 of tenant 0 with that command, and the permission table's entry of its weights. -/
def dotting (perm : BitVec 64) : State :=
  { thr with mboxes := [(0, { owner := some 0, st := 1, cmd := some (cmdOf (.nbdot 0 ndot)) })],
             xlats := [{ page0 with holder := .near 0 }], perms := [(0, perm)] }

/-- NBDOT that is accepted and one that is denied, its start, a row that is summed and one that is refused, and NBWAIT. -/
theorem witness_NearBank :
    (let s := { onPlane conf [(1, 0x100000)] ndot with mboxes := [(0, { owner := some 0 })] }
     (s.g 2).toNat < 256 ∧ s.mboxHeld 0 0 = true ∧ (s.g 1).toNat % 64 = 0 ∧ (s.g 1).toNat < 2 ^ 56 ∧ ndescOk ndot = true ∧ (s.mbox 0).st ≠ 1 ∧
     HasRoom s false) ∧
    (dataLoad (onPlane conf [(1, 0x100000)] ndot) 0x100000 64 false).1 = .ok ndot ∧ thr.mboxHeld 0 0 = false ∧
    (Oldest (withCmds [.nbdot 0 ndot]) 0 false (cmdOf (.nbdot 0 ndot)) ∧ (({ owner := some 0 } : Mbox).tenant) = 0) ∧
    (let s := dotting 0x140
     let e := ndesc ndot
     let s1 := (pagesWait s (.near 0) 0 1 .write (segsOf (BitVec.ofNat 64 e.raddr) 4)).2
     let s2 := (unitLoad s1 (.near 0) 0 0 1 (segsOf (BitVec.ofNat 64 e.vaddr) (2 * e.len)) []).2
     let s3 := (translate s2 (.near 0) 0 0 1 true 0 .read).2
     (s.mbox 0).owed = [] ∧ bitAt (s.mbox 0).wake.toNat 0 = false ∧ e.rows = 1 ∧ e.fmt = 3 ∧ e.waddr = 0 ∧ 0 / 2048 = (0 + 2 * e.len - 1) / 2048 ∧
     (pagesWait s (.near 0) 0 1 .write (segsOf (BitVec.ofNat 64 e.raddr) 4)).1 = false ∧
     (unitLoad s1 (.near 0) 0 0 1 (segsOf (BitVec.ofNat 64 e.vaddr) (2 * e.len)) []).1 = (.ok 0, 0, List.replicate 64 0) ∧
     (translate s2 (.near 0) 0 0 1 true 0 .read).1 = .ok 0x8000 ∧ isHbm 0x8000 = true ∧ s3.isLocal 0x8000 = true ∧
     s3.permRefuses 0x8000 0 = none ∧ s3.isBad 0x8000 (2 * e.len) = false ∧
     (unitStore s3 (.near 0) 0 1 (some 0) (BitVec.ofNat 64 e.raddr) (leBytes 4 0)).1.1 = .ok 0x8080) ∧
    (let s := dotting 0
     let e := ndesc ndot
     let s1 := (pagesWait s (.near 0) 0 1 .write (segsOf (BitVec.ofNat 64 e.raddr) 4)).2
     let s2 := (unitLoad s1 (.near 0) 0 0 1 (segsOf (BitVec.ofNat 64 e.vaddr) (2 * e.len)) []).2
     let s3 := (translate s2 (.near 0) 0 0 1 true 0 .read).2
     (translate s2 (.near 0) 0 0 1 true 0 .read).1 = .ok 0x8000 ∧ s3.permRefuses 0x8000 0 = some 4 ∧
     (unitStore s3 (.near 0) 0 1 (some 0) (BitVec.ofNat 64 e.raddr) (leBytes 4 0x7FC00000)).1.1 = .ok 0x8080) ∧
    ((dotting 0).permRefuses 0x8000 0 = some 4 ∧ (dotting 0x1C0).permRefuses 0x8000 0 = some 5) ∧
    ((dotting 0).mbox 0).st = 1 ∧ ¬ LimitOver (.nbwait 3 0 1) (thrG [(1, 1)]) ((thrG [(1, 1)]).g 1) ∧ LimitOver (.nbwait 3 0 1) thr (thr.g 1) := by
  refine ⟨by decide, rfl, by decide, by decide, by decide +kernel, by decide +kernel, by decide, by decide, by decide, by decide⟩

/-- A region descriptor: one row of one INT32 element at 0, its sum as FP16 at 0x1000. -/
def rdesc : List Byte := leBytes 8 0 ++ leBytes 4 1 ++ leBytes 4 1 ++ leBytes 8 0 ++ leBytes 8 0x1000 ++ leBytes 8 0 ++ leBytes 8 0x500 ++ leBytes 16 0

/-- The region that it describes, built, with its pages bound. -/
def regn : Region :=
  { tenant := 0, building := false, base := 0, cols := 1, rows := 1, pitch := 0, result := 0x1000, rpitch := 0, kind := 0, bfmt := 5, rfmt := 0,
    nbins := 0, hlo := 0, hwidth := 0, bmap := [(0, 0x200)], rmap := [(1, 0x201)], parts := [(0, { built := true })] }

/-- An update of it that thread 0's store caused. -/
def upd : DUpd := { row := 0, part := 0, elts := [(0, 1, 2)], pend := 1, party := .thread 0, gran := 0x200, held := none, lnch := none }

/-- Thread 0 with region 0, register values, and its pages translated. -/
def withRegion (r : Region) (rs : List (Reg × Word)) : State :=
  { thrG rs with regions := [(0, r)], xlats := [{ page0 with size := 0x200000, spa := 0x200000, len := 0x200000 }], tiles := [(0, { st := .ready, esz := 5, rows := 1, cols := 1 })] }

/-- DDECL: misaligned, an illegal kind, accepted, beyond the quota. DRD in its forms, DSYNC by party, DREB, DDROP and DSTAT. -/
theorem witness_DerivedOps :
    ((thrG [(1, 1)]).g 1).toNat % 64 ≠ 0 ∧
    (let s : State := { onPlane conf [(1, 0x100000)] rdesc with xlats := [{ page0 with size := 0x200000, spa := 0x200000, len := 0x200000 }] }
     let r := regionOf 0 rdesc
     let p3 := bindPages (releaseThread s 0) 0 0 1 true .read (rowPages r.base.toNat r.pitch (r.cols * bfmtBytes r.bfmt) r.rows) []
     let p4 := bindPages p3.2 0 0 1 true .write (rowPages r.result.toNat r.rpitch r.rowBytes r.rows) []
     let x := { r with bmap := [(0, 0x200)], rmap := [(1, 0x201)] }
     (s.g 1).toNat % 64 = 0 ∧ (s.g 1).toNat < 2 ^ 56 ∧ dataLoad s (s.g 1) 64 false = (.ok rdesc, s) ∧ regionOk r (fieldAt rdesc 44 4) = true ∧
     regionOk { r with kind := 7 } 0 = false ∧ p3.1 = .ok [(0, 0x200)] ∧ p4.1 = .ok [(1, 0x201)] ∧ pagesHome p4.2 [(0, 0x200)] = true ∧
     pagesHome p4.2 [(1, 0x201)] = true ∧ resultHitsBase x x = false ∧ p4.2.regions = [] ∧ p4.2.regionsOf 0 < (p4.2.tenant 0).regq ∧
     regionFits p4.2 x = true ∧ Mem.wf p4.2.mem = true ∧ ({ regq := 0 } : Tenant).regq ≤ p4.2.regionsOf 0) ∧
    (∀ r ∈ [regn, { regn with building := true }, { regn with queue := [upd] }], let s := withRegion r []
     (s.g 1).toNat < 2 ^ 28 ∧ s.regionFor (s.g 1) = some r ∧ (releaseThread s 0).regionFor (s.g 1) = some r ∧ 0 + 1 ≤ r.rows ∧ r.kind ≠ 4 ∧ r.kind ≠ 5) ∧
    (regn.seenBy (drainIf (withRegion regn []) fun q => q.ofPlot 0) 0 = regn ∧
     (let s : State := { withRegion regn [] with slots := [(0, { st := .running, threads := [0], record := leBytes 4 1 ++ leBytes 4 2 })] }
      let r : Region := { regn with bfmt := 1, older := [(5, [])] }
      r.seenBy s 0 = { r with parts := [] }) ∧
     (∀ u ∈ [upd, { upd with party := .thread 8, at_ := 5 }, { upd with party := .thread 1, at_ := 9, issued := 5 }],
       u.party = .thread 0 ∨ u.at_ ≤ 5 ∨ (plotOfParty u.party = some 0 ∧ u.issued ≤ 5)) ∧
     (let u : DUpd := { upd with party := .thread 8, at_ := 9, issued := 5 }
      ¬ (u.party = .thread 0 ∨ u.at_ ≤ 5 ∨ (plotOfParty u.party = some 0 ∧ u.issued ≤ 5)))) ∧
    (regn.rowReady 0 = true ∧ ({ regn with queue := [upd] }).rowReady 0 = true ∧ (∃ q ∈ ({ regn with queue := [upd] }).queue, q.row ∈ [0] ∧ q.at_ ≤ began (.drd 4 1 0 false) (withRegion regn [])) ∧
     (drainIf (withRegion regn []) fun q => q.ofPlot 0).regionFor 0 = some regn ∧ ¬ Claim.Waiting (.drd 4 1 0 false) (withRegion regn []) 1 ∧
     (withRegion regn []).regionsScrubbing 0 = false ∧
     Claim.Waiting (.drd 4 1 0 false) { thr with threads := [(0, { ctx0 with st := .waiting, wait := some { instr := .drd 4 1 0 false, start := 0, mark := 1 } })] } 1 ∧
     ¬ ({ regn with building := true }).building = false) ∧
    (let y := (withRegion regn []).tile 0 (0 % 256)
     0 % 8 = 0 ∧ y.st = .ready ∧ 0 + 1 * regn.rowBytes ≤ tileBytes y) ∧
    thr.regionFor 0 = none ∧
    (SyncParty (withRegion regn []) 0 0 (.thread 0) (releaseThread (withRegion regn []) 0) ∧ SyncParty (withRegion regn []) 0 1 (.port 0 0) (withRegion regn []) ∧
     SyncParty { thr with chans := [(0, { owner := some 0 })] } 0 2 (.chan 0) { thr with chans := [(0, { owner := some 0 })] }) ∧
    (let s := withRegion regn []
     ¬ ∃ e ∈ s.regions, e.2.tenant = 0 ∧ ((∃ q ∈ e.2.queue, q.party = Holder.thread 0 ∧ q.at_ ≤ began (.dsync 3 1 0) s) ∨
       ∃ q ∈ e.2.reflects, q.2.1 = Holder.thread 0 ∧ q.2.2 ≤ began (.dsync 3 1 0) s)) ∧
    (∀ r ∈ [{ regn with queue := [upd] }, { regn with reflects := [(0, .thread 0, 0)] }], let s := withRegion r []
     ∃ e ∈ s.regions, e.2.tenant = 0 ∧ ((∃ q ∈ e.2.queue, q.party = Holder.thread 0 ∧ q.at_ ≤ began (.dsync 3 1 0) s) ∨
       ∃ q ∈ e.2.reflects, q.2.1 = Holder.thread 0 ∧ q.2.2 ≤ began (.dsync 3 1 0) s)) ∧
    LimitOver (.dsync 3 1 0) thr (thr.g 0) ∧ Fresh (.dsync 3 1 0) thr ∧ ¬ LimitOver (.dsync 3 1 2) (thrG [(2, 1)]) ((thrG [(2, 1)]).g 2) ∧
    Tbl.get? (releaseThread (withRegion regn []) 0).regions 0 = some regn ∧ 0 < regn.rows := by
  refine ⟨by decide, ⟨by decide, by decide, rfl, by decide, by decide, rfl, rfl, by decide, by decide, by decide, by decide, by decide, by decide, by decide, by decide⟩,
    ?_, ⟨by decide, by decide, by decide, by decide⟩, ⟨by decide, by decide, ⟨upd, by decide, by decide, by decide⟩, by decide, (fun ⟨_, h, _⟩ => by cases h), by decide, ⟨_, rfl, rfl, rfl⟩, by decide⟩,
    by decide, by decide, ⟨.inl ⟨rfl, rfl, rfl⟩, .inr (.inl ⟨by decide, by decide, by decide, rfl, rfl⟩), .inr (.inr ⟨by decide, by decide, rfl, rfl, rfl⟩)⟩,
    by decide, by decide, by decide, (fun w h => by cases h), by decide, by decide, by decide⟩
  decide

/-- An update to apply, a part to build, one to rescan, a result to write, and a row that is not due. -/
theorem witness_DerivedEvents :
    (let r := { regn with queue := [] ++ upd :: [] }
     r.queue = [] ++ upd :: [] ∧ upd.gran = 0x200 ∧ Tbl.get? r.parts (partKey upd.row upd.part) = some { built := true } ∧ r.kind = 0 ∧ r.bfmt = 5 ∧
     ({ built := true } : Part).x = 0) ∧
    Tbl.get? (withRegion regn []).regions 0 = some regn ∧
    Tbl.get? ({ regn with parts := [(0, {})] }).parts (partKey 0 0) = some {} ∧ ({} : Part).built = false ∧
    Tbl.get? ({ regn with parts := [(0, { built := true, stale := true })] }).parts (partKey 0 0) = some { built := true, stale := true } ∧
    (let r := { regn with dirty := [0] }
     0 ∈ r.dirty ∧ r.rowReady 0 = true ∧ r.rmap.find? (fun m => m.1 = (r.result.toNat + 0 * r.rpitch) / 4096) = some (1, 0x201) ∧
     (r.result.toNat + 0 * r.rpitch) % 4096 + (r.rowValue 0).length ≤ 4096) ∧ 0 ∉ regn.dirty := by decide

/-- A launch record of one thread on plot 0, with its FLAGS, CONFIG, and patch mask. -/
def lrecord (flags config patch : Nat) : List Byte :=
  leBytes 4 1 ++ leBytes 4 flags ++ leBytes 8 0x1000 ++ leBytes 8 config ++ leBytes 40 0 ++ leBytes 2 1 ++ leBytes 4 0 ++ leBytes 2 1 ++ leBytes 4 5 ++
    leBytes 4 4096 ++ leBytes 4 0 ++ leBytes 4 patch ++ leBytes 8 0 ++ leBytes 80 1 ++ leBytes 8 0x100000 ++ leBytes 72 0

/-- Thread 0 at a privilege, with register values, slot 1, and queue and ring 0 of its tenant. -/
def withSlot (pr : Priv) (x : Slot) (rs : List (Reg × Word)) : State :=
  { thr with threads := [(0, rs.foldl (fun c e => c.put e.1 e.2) { ctx0 with priv := pr })], slots := [(1, x)], queues := [(0, { en := true })],
             crings := [(0, { en := true })], tenants := [(0, { plimit := 0x10000, recCount := 16, lmax := [(0, 1)] })] }

set_option maxRecDepth 4000 in
/-- LPATCH: refused ranges and states, a field with leave and one without, one too wide, and the whole record; LARM of a legal and an
illegal record, at and below LMAX. -/
theorem witness_LaunchInstructions :
    (let s := withSlot .u { record := lrecord 0 0 2 } [(1, 0x4001), (2, 0xFFFFFFFFFFFFFFFF)]
     let w := (s.g 1).toNat
     w < 2 ^ 19 ∧ w % 2 ^ 14 = 1 ∧ w / 2 ^ 14 = 1 ∧ s.inRecRange 0 1 = true ∧ s.inRecRange 0 16 = false ∧ (s.slot 1).st = .idle ∧
     (1, 0x10, 8) ∈ fieldTable ∧ bitAt (fieldAt (recBytes (s.slot 1).record) 0x54 4) 1 = true ∧ (s.g 2).toNat < 2 ^ (8 * 8) ∧
     bitAt (fieldAt (recBytes (s.slot 1).record) 0x54 4) 2 = false ∧ s.ctx.priv = .u) ∧
    (8, 0x42, 1) ∈ fieldTable ∧ 2 ^ (8 * 1) ≤ ((thrG [(2, 256)]).g 2).toNat ∧
    (withSlot .u { st := .running } []).slot 1 = { st := .running } ∧
    (let s := withSlot .s {} [(1, 0x7C001), (2, 0x100000)]
     (s.g 1).toNat / 2 ^ 14 = 31 ∧ s.ctx.priv ≠ .u ∧ (s.g 2).toNat % 64 = 0 ∧ (s.g 2).toNat < 2 ^ 56 ∧
     loadWords s (s.g 2) 32 [] = (.ok (List.replicate 256 0), s)) ∧
    (let s := withSlot .u { record := lrecord 0 0 0 } [(1, 1)]
     (s.g 1).toNat < 2 ^ 14 ∧ (s.g 2).toNat < 64 ∧ (s.queue 0).en = true ∧ checkRecord s (.thread 0) 0 (s.slot 1).record = (.ok [], s) ∧
     checkRecord s (.thread 0) 0 (lrecord 16 0 0) = (.bad, s) ∧ fieldAt (s.slot 1).record 0x44 1 = 0 ∧ s.classUse 0 0 < s.lmaxOf 0 0 ∧
     ({ s with tenants := [] } : State).lmaxOf 0 0 ≤ s.classUse 0 0) := by
  refine ⟨by decide +kernel, by decide, by decide, by decide, ⟨by decide, by decide, by decide, by decide, rfl⟩,
    ⟨by decide, by decide, by decide, rfl, rfl, by decide +kernel, by decide +kernel, by decide +kernel⟩⟩

/-- Lodge core 0 with slot 1 queued first in queue 0 of tenant 0, its record, and plot 0. -/
def launching (flags : Nat) (o : Option Nat) : State :=
  { State.reset with plots := [(0, { owner := o })], tenants := [(0, { plimit := 0x10000, recCount := 16, lmax := [(0, 1)] })],
                     queues := [(0, { en := true, subs := [1], live := [1] })], crings := [(0, { en := true })],
                     slots := [(1, { st := .queued, record := lrecord flags 0 0 })],
                     lodges := [(0, { ctx := { st := .running, priv := .l, regs := (Vector.replicate 32 0).set 1 1 }, role := .active })] }

/-- DISP of a launch that may start, of one that waits at a barrier, of one whose plot is another's, of a slot that is not the head. -/
theorem witness_Dispatch :
    (let s := launching 0 (some 0)
     let r := lrec (s.slot 1).record
     s.cur = .lodge 0 ∧ s.ctx.priv = .l ∧ (s.g 1).toNat < 2 ^ 32 ∧ (s.g 1).toNat % 2 ^ 14 = 1 ∧ (s.g 1).toNat / 2 ^ 14 % 4 = 0 ∧ s.fatal = false ∧
     (s.slot 1).st = .queued ∧ (s.queue 0).subs.head? = some 1 ∧ r.pipeline = 0 ∧ r.config = 0 ∧ r.threads = 1 ∧ r.plots = [0] ∧
     (s.thread 0).st = .free ∧ (s.cutsOf 1).held = []) ∧
    MayStart (launching 0 (some 0)) 1 0 (lrec (lrecord 0 0 0)) 0 ∧
    confRead (launching 0 (some 0)) 0 (lrec (lrecord 0 0 0)) = (.none, launching 0 (some 0)) ∧
    (bitAt (lrec (lrecord 1 0 0)).flags 0 = true ∧ ({ live := [2, 1] } : HQueue).live.takeWhile (fun j => j ≠ 1) ≠ []) ∧
    (bitAt (lrec (lrecord 0 0 0)).flags 0 = false ∧ bitAt (lrec (lrecord 0 0 0)).flags 2 = false ∧ (launching 0 none).plotOwner 0 ≠ some 0) ∧
    (({} : HQueue).subs.head? ≠ some 1) := by
  refine ⟨by decide +kernel, ?_, rfl, by decide +kernel, by decide +kernel, by decide⟩
  unfold MayStart
  decide +kernel

/-- A pipeline declaration at VA 0x400 of one queue, its counters at 0x800, and one stage. -/
def pipeline (high win : Nat) : List Byte :=
  leBytes 4 1 ++ leBytes 12 0x101 ++ leBytes 8 0 ++ leBytes 8 0x800 ++ leBytes 4 2 ++ leBytes 2 8 ++ leBytes 2 high ++ leBytes 4 0 ++ leBytes 4 win ++
    leBytes 8 0x2000 ++ leBytes 1 0 ++ leBytes 1 0xFF ++ leBytes 22 2

/-- Its launch, running in slot 0 with a thread on plot 0, at the end of TIME's first microsecond; plot 1 is idle. -/
def balancing (high win : Nat) : State :=
  { thr with cycle := 700, plots := [(0, { owner := some 0 }), (1, { owner := some 0 })], mem := Mem.write [] 0x8400 (pipeline high win),
             slots := [(0, { st := .running, threads := [0], decl := pipeline high win, replicas := [(0, 0)],
                             record := leBytes 24 0 ++ leBytes 8 0x400 ++ leBytes 38 0 ++ leBytes 2 1 ++ leBytes 24 0 ++ leBytes 160 1 })] }

/-- A context that is not listed is free. -/
theorem thread_free {s : State} (j : Nat) (h : Tbl.get? s.threads j = none) : (s.thread j).st = .free := by
  simp [State.thread, Tbl.getD, h]

/-- The contexts of plot 1 are free. -/
theorem balancing_free (high win j : Nat) (h : j / 8 = 1) : ((balancing high win).thread j).st = .free := by
  apply thread_free
  have h0 : ¬ (0 = j) := by omega
  show Tbl.get? [(0, ctx0)] j = none
  simp [Tbl.get?, h0]

/-- Thread ends, a completion to post, a queue with one entry and one overfull, a watchdog due and not; a sample that counts, and one
that starts a replica. -/
theorem witness_LaunchProgress :
    (({ thr with threads := [(0, { ctx0 with st := .ending, lnch := 1 })] } : State).thread 0).st = .ending ∧ (thr.thread 0).st ≠ .ending ∧
    (({ thr with threads := [(0, { ctx0 with st := .ending })], crings := [(0, { en := true })] } : State).slot 0).threads = [0] ∧
    (let s : State := { thr with threads := [(0, { ctx0 with st := .ending })], crings := [(0, { en := true })] }
     (s.slot 0).st = .running ∧ (s.slot 0).stopped = false ∧ (s.thread 0).fadd = [] ∧ (s.slot 0).fadds = [] ∧ Apart s 0 ∧
     s.launchCmds 0 = false ∧ (lrec []).cring < 64 ∧ (s.cutsOf 0).held = []) ∧
    Takes { thr with crings := [(0, { en := true })] } 0 (lrec []).cring ∧
    (let c : Completion := { tenant := 0, ring := 0, status := 0, cause := 0, slot := 1, queue := 0, tag := 0, ns := 0, frees := true }
     (withSlot .u { comp := some c } []).slot 1 = { comp := some c } ∧ c.slot = 1 ∧ Takes (withSlot .u { comp := some c } []) 0 0 ∧
     praOk ((withSlot .u {} []).tenant 0) 0 32 = true) ∧
    (let s := { withSlot .u { record := lrecord 0 0 0 } [] with mem := Mem.write (Mem.write [] 0 (leBytes 4 1)) 64 (leBytes 4 0x10001) }
     let e := Mem.read s.mem 64 64
     (∀ j ∈ (s.queue 0).subs.head?, j < 65536) ∧ (s.queue 0).en = true ∧ (s.queue 0).err = false ∧
     praOk (s.tenant 0) (s.queue 0).qbase (64 + 64 * 2 ^ (s.queue 0).qlog) = true ∧ leNat (Mem.read s.mem 0 4) = 1 ∧ leNat (Mem.read s.mem 4 4) = 0 ∧
     fieldAt e 0 1 = 1 ∧ fieldAt e 1 1 = 0 ∧ fieldAt e 2 2 = 1 ∧ fieldAt e 4 4 = 0 ∧ fieldAt e 16 48 = 0 ∧ (s.slot 1).st = .idle ∧
     recordOk s 0 (recBytes (s.slot 1).record) = true ∧ (lrec (recBytes (s.slot 1).record)).pipeline = 0 ∧
     (∀ o ∈ [0, 4, 64], s.isLocal ((s.tenant 0).pbase + (s.queue 0).qbase + o) = true)) ∧
    (let s := withSlot .u {} []
     leNat (Mem.read s.mem 0 4) = leNat (Mem.read s.mem 4 4) ∧ praOk (s.tenant 0) (s.queue 0).qbase (64 + 64 * 2 ^ (s.queue 0).qlog) = true) ∧
    leNat (Mem.read (Mem.write [] 0 (leBytes 4 17)) 0 4) = 17 ∧ ({} : HQueue).en = false ∧
    (({ st := .running, wdLeft := some 0 } : Slot).st = .running ∧ 0 ≤ thr.cycle - 0 ∧ thr.cycle - 0 < 1) ∧
    (∀ a ∈ [(1, 2), (1, 1), (0, 1)], let s := balancing a.1 a.2
     let x := s.slot 0
     let r := lrec x.record
     let y := { x with sampled := 1 }
     let q := queueFill (s.setSlot 0 y) 0 r (pipeline a.1 a.2) 0
     s.cycle * 10 / 7 / 1000 = 1 ∧ x.sampled < 1 ∧
     x.st = .running ∧ r.pipeline ≠ 0 ∧ r.config = 0 ∧ bitAt r.flags 1 = false ∧ x.decl = pipeline a.1 a.2 ∧ q.1 = some 0 ∧ q.2.slot 0 = y ∧
     (x.replicas.filter fun z => decide (z.1 = 0) && x.threads.contains z.2) = [(0, 0)] ∧ (s.thread 0).stageid.toNat / 2 ^ 10 % 2 = 0 ∧ 0 ∉ x.retiring ∧
     r.carve / 4096 ≤ (q.2.plot 1).gfree ∧ q.2.plotsOf 0 = [0, 1] ∧ q.2.threads = s.threads) ∧
    ([0, 1] = ([0, 1] : List Nat).mergeSort ∧ 1 < fieldAt ((pipeline 0 1).drop 48) 0x0A 1) ∧
    ((fieldAt ((pipeline 1 2).drop 16) 0x16 2, fieldAt ((pipeline 1 2).drop 16) 0x18 2, fieldAt ((pipeline 1 2).drop 16) 0x1C 4) = (1, 0, 2) ∧
     (fieldAt ((pipeline 0 1).drop 16) 0x16 2, fieldAt ((pipeline 0 1).drop 16) 0x18 2, fieldAt ((pipeline 0 1).drop 16) 0x1C 4) = (0, 0, 1)) ∧
    fieldAt (pipeline 0 1) 4 1 = 1 ∧ fieldAt (pipeline 0 1) 5 1 = 1 ∧ fieldAt ((pipeline 0 1).drop 48) 8 1 = 0 ∧
    (∀ high win j, j / 8 = 1 → ((balancing high win).thread j).st = .free) := by
  refine ⟨by decide, by decide, by decide, ⟨by decide, by decide, by decide, by decide, (by unfold Apart; decide), by decide, by decide, by decide⟩, ?_, ⟨rfl, rfl, ?_, by decide⟩, by decide +kernel, by decide,
    by decide, by decide, by decide, by decide +kernel, ⟨by simp [List.mergeSort], by decide⟩, by decide, by decide, by decide, by decide, balancing_free⟩ <;> (unfold Takes; decide)

/-- Lodge core 0 with register values. -/
def lodgeR (rs : List (Reg × Word)) : State := rs.foldl (fun s e => s.setG e.1 e.2) State.reset

/-- Operands of the lodge's instructions at both ends of their ranges; CREL with nothing held, with one record held, and in the fatal
state. -/
theorem witness_LodgeInstructions :
    State.reset.cur = .lodge 0 ∧ State.reset.ctx.priv = .l ∧ ((lodgeR [(1, 63)]).g 1).toNat = 63 ∧ ((lodgeR [(1, 256)]).g 1).toNat = 256 ∧
    ((lodgeR [(1, 64)]).g 1).toNat = 64 ∧ ((lodgeR [(1, 512)]).g 1).toNat = 512 ∧
    (let w := ((lodgeR [(1, 0x1FFFC0)]).g 1).toNat
     w % 64 = 0 ∧ w < 0x200000 ∧ 0x80000 ≤ w % 0x100000 ∧ (lodgeR []).sramBad = []) ∧
    ((lodgeR [(1, 0x200000)]).g 1).toNat = 0x200000 ∧ ((lodgeR [(1, 0x80001)]).g 1).toNat % 64 ≠ 0 ∧ ((lodgeR [(1, 0x7FFC0)]).g 1).toNat % 0x100000 < 0x80000 ∧
    ((lodgeR [(1, 4095)]).g 1).toNat = 4095 ∧ ((lodgeR [(1, 4096)]).g 1).toNat = 4096 ∧ ((lodgeR [(1, 8192)]).g 1).toNat = 8192 ∧
    State.reset.fatal = false ∧ (∀ c ∈ State.reset.held, c.tenant * 64 + c.ring ≠ 0) ∧
    (let c : Completion := { tenant := 63, ring := 63, status := 0, cause := 0, slot := 1, queue := 0, tag := 0, ns := 0, frees := true }
     let s : State := { lodgeR [(1, 4095)] with held := [c], crings := [(4095, { en := true, hold := true })], tenants := [(63, { plimit := 64 })] }
     let w := (s.g 1).toNat
     s.held = [c] ∧ 63 * 64 + 63 = w / 64 % 64 * 64 + w % 64 ∧ (Tbl.getD s.crings 4095 {}).en = true ∧ (Tbl.getD s.crings 4095 {}).room = true ∧
     praOk (s.tenant 63) 0 32 = true) ∧ ({ State.reset with fatal := true } : State).fatal = true := by decide

/-- Lodge core 0 with a command of its window for slot 1. -/
def windowed (cmd : Word) (begun : Bool) (x : Slot) : State :=
  { State.reset with lodges := [(0, { role := .active, cmd := cmd, busy := true, begun := begun, recidx := 1 })], slots := [(1, x)],
                     crings := [(0, { en := true })] }

/-- Heartbeats old and not, a core that is not active; each window command with its requirement met and not, done, and idle. -/
theorem witness_LodgeControl :
    (∀ c, c < 4 → State.reset.worn (.lodge c) = none) ∧ (State.reset.lodge 0).role = .active ∧ (State.reset.lodge 2).role ≠ .active ∧ 70000 ≤ ({ State.reset with cycle := 70000 } : State).cycle - (State.reset.lodge 0).beat ∧
    State.reset.cycle - (State.reset.lodge 0).beat < 70000 ∧
    WinAsks (windowed 0 false {}) 0 0 1 ∧
    (WinAsks (windowed 0x1300000001 false { st := .running }) 0 1 1 ∧ 0x1300000001 / 2 ^ 32 % 2 ^ 8 = 0x13 ∧
     chansOf (windowed 0x1300000001 false { st := .running }) 1 = [] ∧
     chansOf { windowed 0x1300000001 true { st := .running, stopped := true } with chans := [(7, { lnch := 1, st := 1 })] } 1 = [7] ∧
     (let l := (windowed 0x1300000001 true { st := .running, stopped := true }).lodge 0
      l.busy = true ∧ l.done = false ∧ l.begun = true ∧ l.cmd.toNat % 2 ^ 8 = 1 ∧ l.recidx = 1)) ∧
    (WinAsks (windowed 2 false { stopped := true }) 0 2 1 ∧ (windowed 2 false { stopped := true }).regionPlanes 1 = [] ∧
     (let s : State := { windowed 2 false { stopped := true } with planes := [(0, { st := .configured, lnch := some 1 })] }
      s.regionPlanes 1 ≠ [] ∧ (s.cutsOf 1).active = false)) ∧
    (let l := (windowed 2 true { stopped := true }).lodge 0
     l.busy = true ∧ l.done = false ∧ l.begun = true ∧ l.cmd.toNat % 2 ^ 8 = 2 ∧ l.recidx = 1 ∧
     (({ windowed 2 true { stopped := true } with cuts := [(1, { lodge := true })] } : State).cutsOf 1).lodge = true) ∧
    ((windowed 5 false { reset_ := true, st := .running }).launchCmds 1 = false ∧ (lrec []).cring < 64) ∧
    (WinAsks (windowed 3 false { cutdone := true }) 0 3 1 ∧ WinAsks (windowed 4 false { drained := true }) 0 4 1 ∧
     WinAsks (windowed 5 false { reset_ := true, st := .running }) 0 5 1 ∧ WinAsks (windowed 6 false {}) 0 6 1) ∧
    Takes (windowed 5 false { reset_ := true, st := .running }) 0 (lrec []).cring ∧ ({ reset_ := true, st := .running } : Slot).fadds = [] ∧
    ({ busy := true, done := true } : Lodge).done = true ∧ ({} : Lodge).busy = false := by
  repeat' apply And.intro
  all_goals decide

/-- A row that is not empty, and a chunk of 128 columns that loses nothing in it. -/
theorem witness_RowAccumulation :
    let t : Acc := { rows := [(3, { empty := false, x := -4, m := List.replicate 128 5, spc := List.replicate 128 0 })] }
    let cs : List Chunk := List.replicate 128 { s := 3, f := -2 }
    (t.row 3).empty = false ∧ cs.length = 128 ∧ ∀ j c, cs[j]? = some c → (t.row 3).x ≤ c.f ∧
      -(2 ^ 39) ≤ (t.row 3).ms.getD j 0 + c.s * 2 ^ (c.f - (t.row 3).x).toNat ∧ (t.row 3).ms.getD j 0 + c.s * 2 ^ (c.f - (t.row 3).x).toNat < 2 ^ 39 := by
  refine ⟨rfl, rfl, fun j c h => ?_⟩
  have hj : j < 128 := by
    rcases Nat.lt_or_ge j 128 with h' | h'
    · exact h'
    · rw [List.getElem?_eq_none (by simpa using h')] at h
      cases h
  have hc : c = { s := 3, f := -2 } := by
    rw [List.getElem?_replicate, if_pos hj] at h
    exact (Option.some.inj h).symm
  subst hc
  revert h
  revert j
  decide +kernel

/-- Lattice 0 of plane 0, with started matrix commands of the plot, accumulator tiles and tokens at operand A. -/
def latState (x : Machine.Lat) (ops : List Cmd) (accs : Tbl Acc) (toks : List Tok) : State :=
  { withLat x [] with
    plots := [(0, { owner := some 0, mops := ops })], accs := accs, latOwner := [],
    planes := [(0, { conf with latmask := 1, routes := List.replicate 128 0xFC00 ++ [0], ep := [(128, toks)] })] }

/-- A binding of format 5 of one row to tile 0, and its command. -/
def bind0 : Binding := { cmd := 7, word := 0x280, left := 1 }
def cmd7 (k : CmdKind) : Cmd := { cmdOf k with id := 7 }

/-- A slice load that gives a well-formed slice and one that does not; a binding that starts, one whose tile is of the other mode, one
that runs from the shadow, one that has a row, a marker between rows and inside one; the accumulator commands; the assist. -/
theorem witness_LatticeProgress :
    (let s := latState {} [] [] []
     s.latPlane 0 0 = some 0 ∧ s.latRuns 0 0 = true ∧ s.withheldNow 0 = false ∧ (s.plane 0 0).connected 132 = false ∧ (s.plane 0 0).epBuf 132 = []) ∧
    (∀ d ∈ [true, false], let w : WSlot := { st := .loading, bfmt := 5, dense := d, kb := 1, blen := 512, tile := true }
     let s := latState { slots := [(0, w)] } [] [] []
     (s.lat 0 0).slot 0 = w ∧ w.cmd = 0 ∧ ({ w with body := Mem.read (s.tile 0 0).bytes 16 512, st := .valid } : WSlot).wellFormed = d) ∧
    (let w : WSlot := { st := .loading, bfmt := 5, kb := 1, blen := 512, tile := true }
     let s := latState { slots := [(0, w)] } [] [] []
     sliceBody s 0 0 0 w = ((.ok (Mem.read (s.tile 0 0).bytes 16 512), .wait, 0), s)) ∧
    (∀ wide ∈ [true, false], let s := latState { binds := [bind0] } [cmd7 (.mbind 0x280)] [(0, { wide := wide })] []
     nextBind s 0 0 = some bind0 ∧ (s.lat 0 0).starting = none ∧ bSplit bind0.word = false ∧ bTiles bind0.word = [0] ∧ isWide (bFmt bind0.word) = false ∧
     s.turnOf 0 7 (bTiles bind0.word) (fun k => match k with | .mbind _ => true | _ => false) = true ∧ (s.acc 0 0).wide = wide) ∧
    (let b := { bind0 with started := true }
     let x : Machine.Lat := { binds := [b], shadow := some {} }
     x.starting = some b ∧ x.running = none ∧ x.work = none) ∧
    (let b := { bind0 with started := true, active := true }
     let s := latState { binds := [b] } [cmd7 (.mbind 0x280)] [] (List.replicate 12 { k := .data 1 0 })
     (s.lat 0 0).running = some b ∧ (s.lat 0 0).work = none ∧ (s.lat 0 0).lastFire = none ∧ isWide (bFmt b.word) = false ∧ bSplit b.word = false ∧
     isBfp (bFmt b.word) = false ∧ TurnOn s 0 7 (bTile b.word) ∧ 12 ≤ (ahead ((s.plane 0 0).epBuf 128)).length ∧ b.left ≤ 1 ∧
     1 < ({ b with left := 2 } : Binding).left) ∧
    (([{ k := .eot }] : List Tok).head?.map (fun t => t.k) = some .eot ∧
     (let ch : List Tok := [{ k := .data 1 0 }, { k := .eot }]
      0 < (ahead ch).length ∧ (ahead ch).length < 12 ∧ (ahead ch).length < ch.length)) ∧
    (let s := latState {} [cmd7 (.mzero 0xF)] [] []
     Started s 0 7 (.mzero 0xF) ∧ ∀ n, n < 16 → bitAt (0xF#64).toNat n = true → s.latRuns 0 (n / 4) = true ∧ TurnOn s 0 7 n) ∧
    (let s (wide : Bool) := latState {} [cmd7 (.mnorm 0x270000)] [(0, { wide := wide })] []
     Started (s true) 0 7 (.mnorm 0x270000) ∧ (s true).latRuns 0 0 = true ∧ TurnOn (s true) 0 7 0 ∧ ((s true).acc 0 0).wide = true ∧ ((s false).acc 0 0).wide = false) ∧
    (let s := latState {} [cmd7 (.mread 0x80000 0 false false)] [] []
     Started s 0 7 (.mread 0x80000 0 false false) ∧ TurnOn s 0 7 0 ∧ (s.acc 0 0).wide = bitAt (0x80000#64).toNat 20 ∧ (s.acc 0 0).wide ≠ bitAt (0x180000#64).toNat 20 ∧
     bitAt (0x80000#64).toNat 19 = true ∧ firstReader s 0 7 0 = true ∧ 0 < (s.plane 0 0).srcRoom 192 ∧ 0 < (s.plane 0 0).srcRoom 193 ∧
     (s.lat 0 0).readPos / 64 < 1 ∧ ({ readPos := 64 } : Machine.Lat).readPos / 64 = 1 ∧ (0x80000#64).toNat / 2 ^ 16 % 8 ≠ 5) ∧
    (let s := latState {} [cmd7 (.mread 0 0 false false)] [] []
     bitAt (0#64).toNat 19 = false ∧ (match tileWrite s 0 0 ((0 / 2 ^ 16 % 2 ^ 32 : Nat) : Int) ((List.range 1).flatMap fun j => (outRow 0 false ((s.acc 0 0).rowVals (0 + j))).1) with
       | .ok _ => true | _ => false) = true) ∧
    (let r : AssistReq := { lat := 0, tile := 0, row := 0, col := 63, acc := 0, a := 0, b := 0 }
     let x (l : List AssistReq) (w : Bool) : State := { thr with plots := [(0, { owner := some 0, apend := l, await := w })] }
     ((x [r] false).plot 0).apend = [r] ∧ r.col < 64 ∧ ((x [r, { r with col := 62 }] true).plot 0).apend = r :: [{ r with col := 62 }] ∧
     (∃ q ∈ [{ r with col := 62 }], q.tile = r.tile) ∧ (∃ q ∈ [{ r with col := 62 }], q.lat = r.lat) ∧ (thr.lat 0 r.lat).running = none ∧
     r.dead = false ∧ ((x [r] false).plot 0).assist.st = .free ∧ (∃ q ∈ [r], q.at_ < ({ x [r] false with cycle := 1 } : State).cycle)) ∧
    (let x : Machine.Lat := { lastFire := some 5, span := 2 }
     ∀ c, x.lastFire = some c → c + x.span ≤ 7) := by
  unfold Started TurnOn
  refine ⟨by decide, by decide +kernel, rfl, ?_, by decide, by decide, by decide, by decide, by decide, by decide, by decide +kernel, by decide, fun c h => by cases h; decide⟩
  decide

/-- Thread 0's plot with plane 0, in whose state a cut may run, and lattice 0. -/
def cutting (pl : Plane) (x : Cell) : State :=
  { thr with planes := [(0, { pl with latmask := 1, portmask := 3, st := .configured })], cells := [(0, x)] }

/-- A plane whose cell 0 has inputs 0 and 1 and feeds both, with a marker or token at each, and one at lattice 0's operand A. -/
def marked (a b : TokKind) : Plane :=
  { routes := [0, 0] ++ List.replicate 126 0xFC00 ++ [0], ep := [(0, [{ k := a }]), (1, [{ k := b }]), (128, [{ k := a }])] }

/-- Equal markers at every input of a cell, different ones, and one at a lattice. -/
theorem witness_CutAlignment :
    (let pl := marked (.cut 5) (.cut 5)
     let s := cutting pl {}
     s.planeRuns 0 0 = true ∧ (s.cell 0 0 0).halted = false ∧ (s.cell 0 0 0).land_ = [] ∧ (s.plane 0 0).cellInputs 0 = [0, 1] ∧
     (∀ ep ∈ [0, 1], ((s.plane 0 0).epBuf ep).head?.map (fun t => t.k) = some (.cut 5) ∧
       (((s.plane 0 0).epBuf ep).filter fun t => t.k == .cut 5).length = 1) ∧ (s.cell 0 0 0).run = none ∧
     (∀ q, q < 8 → (s.plane 0 0).fed q ≠ [] → outRoom (s.plane 0 0) {} 0 q = true) ∧
     s.latPlane 0 0 = some 0 ∧ s.latRuns 0 0 = true ∧ (s.lat 0 0).work = none ∧ (s.plot 0).apend = [] ∧ (s.plane 0 0).connected 128 = true ∧
     (s.plane 0 0).connected 132 = false ∧ ((s.plane 0 0).epBuf 128).head?.map (fun t => t.k) = some (.cut 5) ∧
     (((s.plane 0 0).epBuf 128).filter fun t => t.k == .cut 5).length = 1 ∧ 0 < (s.plane 0 0).srcRoom 192 ∧ 0 < (s.plane 0 0).srcRoom 193) ∧
    (let x := (cutting (marked (.cut 5) (.cut 6)) {}).plane 0 0
     (x.epBuf 0).head?.map (fun t => t.k) = some (.cut 5) ∧ (x.epBuf 1).head?.map (fun t => t.k) = some (.cut 6) ∧ x.cellInputs 0 = [0, 1]) := by decide

/-- Launch 1 of tenant 0, running, with plane 0 in its region and a save buffer of `units` 64 KiB. -/
def launched (units : Nat) (x : Slot) (c : Cuts) (m : List Host.Cell) : State :=
  { thr with tenants := [(0, { plimit := 2 ^ 40, recCount := 16, savecfg := BitVec.ofNat 64 units })], crings := [(0, { en := true })],
             slots := [(1, { x with st := .running, record := leBytes 4 1 ++ leBytes 4 8 })], cuts := [(1, c)], mem := m,
             planes := [(0, { st := .faulted, lnch := some 1, routes := [0xFFFF] })] }

/-- An image has its length. -/
theorem imageBytes_length (slot num kind id : Nat) : (imageBytes slot num 1 kind id).length = 4096 := by
  simp only [imageBytes, List.length_append, leBytes_length, List.length_map, List.length_range]

/-- The pages of an image of a region of one plane without lattices lie between 1 and 65. -/
theorem pages_bound (n : Snap) : 1 ≤ imagePagesOf n 1 0 ∧ imagePagesOf n 1 0 ≤ 65 := by
  unfold imagePagesOf imageLimit
  omega

/-- Any number of pages up to 65 fits the larger buffer; none fits a buffer of no units. -/
theorem fits (n : Nat) (h : n ≤ 65) : imageFits (launched 5 {} { active := true } []) 1 n = true := by
  have : ∀ k, k ≤ 65 → imageFits (launched 5 {} { active := true } []) 1 k = true := by decide
  exact this n h

theorem fits_not (n : Nat) (h : 1 ≤ n) : imageFits (launched 0 {} { active := true } []) 1 n = false := by
  have hb : (saveBuffer (launched 0 {} { active := true } []) 1).2 = 0 := by decide
  simp only [imageFits, hb, Bool.and_eq_false_iff, decide_eq_false_iff_not]
  left
  omega

/-- An image that stands in memory as it was written. -/
theorem image_stands (x : Slot) (c : Cuts) (m : List Host.Cell) (num id : Nat) (pre : Bool) (ts : List (Nat × Ctx)) (hx : x.queue = 0)
    (h : Mem.read m 0x100000 4096 = imageBytes 1 num 1 (if pre then 1 else 0) id) :
    imageRead (launched 5 x c m) 1 { num := num, preempt := pre, image := some (0x100000, 1, id), threads := ts } =
      (.here, launched 5 x c m) := by
  have hp : praOk ({ plimit := 2 ^ 40, recCount := 16, savecfg := BitVec.ofNat 64 5 } : Tenant) 0x100000 (4096 * 1) = true := by decide
  have ht : (launched 5 x c m).tenant ((launched 5 x c m).slot 1).tenant = { plimit := 2 ^ 40, recCount := 16, savecfg := BitVec.ofNat 64 5 } := by
    show (launched 5 x c m).tenant (x.queue / 64) = _
    rw [hx]
    rfl
  have hb : (launched 5 x c m).badMem = [] := rfl
  have hr : reach (launched 5 x c m) (imageParty 1) 0x100000 4096 = (.here, launched 5 x c m) := rfl
  have he : endReach (launched 5 x c m) (imageParty 1) = launched 5 x c m := rfl
  have hd : devRead (launched 5 x c m) (imageParty 1) 0x100000 4096 = (.here, imageBytes 1 num 1 (if pre then 1 else 0) id, launched 5 x c m) := by
    unfold devRead
    rw [hr, ← h]
    rfl
  simp only [imageRead, ht, hb, hp, Nat.zero_add, Nat.mul_one, List.any_nil, hd, he, if_true,
    Bool.not_true, Bool.false_eq_true, or_self, if_false]

/-- Memory that holds that image. -/
def imageMem (num kind id : Nat) : List Host.Cell := Mem.write [] 0x100000 (imageBytes 1 num 1 kind id)

theorem imageMem_reads (num kind id : Nat) : Mem.read (imageMem num kind id) 0x100000 4096 = imageBytes 1 num 1 kind id := by
  have := Mem.read_write_same [] 0x100000 (imageBytes 1 num 1 kind id) (by decide)
  rwa [imageBytes_length] at this

/-- A cut ready without and with an image, that fits or not; a periodic cut due and not; a faulted region with a cut that stands and
with none; neither. -/
theorem witness_CutEvents :
    (let s := { launched 5 {} { active := true } [] with tenants := [(0, { plimit := 2 ^ 40 })] }
     cutReady s 1 = true ∧ writesImage s 1 = false) ∧
    (let s := launched 5 {} { active := true } []
     cutReady s 1 = true ∧ writesImage s 1 = true ∧ imageFits s 1 (s.imageSize 1 (snapWhole s 1)) = true) ∧
    (let s := launched 0 {} { active := true } []
     cutReady s 1 = true ∧ writesImage s 1 = true ∧ imageFits s 1 (s.imageSize 1 (snapWhole s 1)) = false) ∧ cutReady thr 1 = false ∧
    (let s := launched 5 {} {} []
     (s.slot 1).stopped = false ∧ s.isRollback (some 1) = true ∧ (s.cutsOf 1).active = false ∧ s.regionPlanes 1 ≠ [] ∧
     (s.tenant 0).cutint * 700 ≤ ({ s with cycle := 700000 } : State).cycle - max 0 0 ∧ s.cycle - max 0 0 < (s.tenant 0).cutint * 700) ∧
    (let v : Snap := { num := 5, image := some (0x100000, 1, 9) }
     let s := launched 5 { stopped := true } { exists_ := true, last := v, pending := true } (imageMem 5 0 9)
     (s.slot 1).drained = false ∧ (s.cutsOf 1).pending = true ∧ brokenPlanes s 1 = [] ∧ (s.cutsOf 1).last = v ∧ (s.cutsOf 1).replay = [] ∧
     (imageRead s 1 v).1 = .here) ∧
    (let s := launched 5 { threads := [0] } { exists_ := true, pending := true } []
     (imageRead s 1 (s.cutsOf 1).last).1 = .failed ∧ (s.slot 1).fadds = [] ∧ (∀ h ∈ (s.slot 1).threads, (s.thread h).fadd = []) ∧
     s.launchCmds 1 = false ∧ (s.cutsOf 1).pending = true) ∧ Takes (launched 5 {} {} []) 0 0 ∧ (thr.cutsOf 1).pending = false := by
  refine ⟨by decide, ⟨by decide, by decide, fits _ (pages_bound _).2⟩, ⟨by decide, by decide, fits_not _ (pages_bound _).1⟩, by decide, by decide,
    ⟨rfl, rfl, rfl, rfl, rfl, congrArg Prod.fst (image_stands _ _ _ 5 9 false [] rfl (imageMem_reads 5 0 9))⟩,
    by decide, ?_, by decide⟩
  unfold Takes
  decide

/-- A pre-emption that begins, whose cut is complete, whose cut was abandoned, and whose cut a rollback gave up; a resumption of a
launch of one thread; a context in DOUBLE. -/
theorem witness_PreemptionEvents :
    (let s := launched 5 { threads := [0] } {} []
     (∀ j ∈ (s.slot 1).threads, (s.thread j).st = .running ∨ (s.thread j).st = .waiting) ∧
     (s.slot 1).st = .running ∧ (s.slot 1).stopped = false ∧ (s.slot 1).halted = false ∧ (s.slot 1).preempted = false ∧ (s.slot 1).preempting = false ∧
     (s.cutsOf 1).active = false ∧ (s.cutsOf 1).abandoned = false ∧ writesImage s 1 = true) ∧
    (∀ c ∈ [({ preempt := true } : Cuts), { preempt := true, abandoned := true }, {}],
      let s := launched 5 { preempting := true } c []
      (s.slot 1).preempting = true ∧ (s.cutsOf 1).preempt = c.preempt ∧ (s.cutsOf 1).abandoned = c.abandoned ∧ (s.cutsOf 1).active = false ∧
      writesImage s 1 = true) ∧
    (let d : Ctx := { ctx0 with st := .stopped }
     let v : Snap := { num := 5, preempt := true, image := some (0x100000, 1, 9), threads := [(1, d)] }
     let s := launched 5 { preempted := true } { last := v } (imageMem 5 1 9)
     (s.slot 1).preempted = true ∧ (s.cutsOf 1).last.threads = [(1, d)] ∧ d.st = .stopped ∧ (s.thread 1).st = .free ∧ (s.cutsOf 1).last.planes = [] ∧
     plotTakes s (s.slot 1) (1 / 8) = true ∧ latsBusy s [] = false ∧ readPlanes s 0 [] = (some [], s) ∧ imageRead s 1 v = (.here, s)) ∧
    (let s : State := { thr with threads := [(0, { ctx0 with st := .double, ecause := 5 })] }
     (s.thread 0).st = .double ∧ (s.thread 0).ecause.toNat % 256 ≠ 0) ∧ (thr.thread 0).st ≠ .double := by
  refine ⟨by decide, by decide, ⟨rfl, rfl, rfl, rfl, rfl, by decide, rfl, rfl, ?_⟩, by decide, by decide⟩
  exact image_stands _ _ _ 5 9 true _ rfl (imageMem_reads 5 1 9)

/-- A frame entry under way, one that gives way to the next, the last one; withheld cycles below and at the bound; a debug halt, a run,
and both. -/
theorem witness_FramesAndHalts :
    (let e (n : Nat) : BitVec 64 := BitVec.ofNat 64 (0x1F + n * 256)
     let s (c n : Nat) : State := { thr with cycle := c, frame := [(0, { entry := n, table := [(0, e 10), (5, e 20)] })] }
     (s 9 0).cycle < 0 + frameDur ((s 9 0).frameNow 0) ∧ 0 + frameDur ((s 10 0).frameNow 0) ≤ (s 10 0).cycle ∧
     (frameEntries [(0, e 10), (5, e 20)]).find? (fun y => 0 < y.1) = some (5, e 20) ∧ 0 + frameDur ((s 20 5).frameNow 0) ≤ (s 20 5).cycle ∧
     (frameEntries [(0, e 10), (5, e 20)]).find? (fun y => 5 < y.1) = none) ∧
    (thr.cycle ∉ (thr.plot 0).withheld ∧ ([] : List Nat).length < 7 ∧ 7 ≤ ([0, 1, 2, 3, 4, 5, 6].filter fun c => 7 < c + 8).length) ∧
    (let w (n : Nat) : Word := BitVec.ofNat 64 n
     (w 0x8000).toNat % 2 ^ 14 = 0 ∧ bitAt (w 0x8000).toNat 14 = false ∧ bitAt (w 0x8000).toNat 15 = true ∧ bitAt (w 0x8000).toNat 16 = false ∧
     bitAt (w 0x10000).toNat 15 = false ∧ bitAt (w 0x10000).toNat 16 = true ∧ bitAt (w 0x18000).toNat 15 = true ∧ bitAt (w 0x18000).toNat 16 = true) ∧
    (thr.slot 0).st = .running ∧ (thr.slot 0).queue / 64 = 0 ∧ (thr.slot 0).halted = false ∧ (∀ h ∈ (thr.slot 0).threads, (thr.thread h).st = .running) ∧
    (let s : State := { thr with slots := [(0, { st := .running, threads := [0], halted := true })], threads := [(0, { ctx0 with st := .stopped, halted := true })] }
     (s.slot 0).halted = true ∧ ∀ h ∈ (s.slot 0).threads, (s.thread h).st = .stopped ∧ (s.thread h).halted = true) := by decide

/-- A scrub request's header for `n` units from tenant 0 to tenant 1. -/
def shead (n : Nat) : List Byte := leBytes 4 1 ++ leBytes 1 0 ++ leBytes 1 1 ++ leBytes 2 n ++ leBytes 56 0

/-- Lodge core 0 with a scrub request at 0x100 of its instruction-independent memory, for plot 0 of tenant 0. -/
def scrubbing (qs : List Scrub) : State :=
  { State.reset with mem := Mem.write (Mem.write [] 0x200000 (shead 1)) 0x200040 (leBytes 8 (2 ^ 56)), plots := [(0, { owner := some 0 })],
                     tenants := [(1, { plimit := 0x10000, tokbuf := 0x1001 })], scrubs := qs,
                     lodges := [(0, { ctx := { st := .running, priv := .l, regs := (Vector.replicate 32 0).set 1 0x200000 }, role := .active })] }

/-- The request that it makes. -/
def req : Scrub := { seq := 1, outvf := 0, invf := 1, units := [0x100000000000000], nonce := [0, 0, 0, 0] }

/-- SCRUB: misaligned, an illegal header, a request that is accepted, one whose units another request names, one of no unit of the
tenant; each event with its request; FQTAKE. -/
theorem witness_ScrubEvents :
    ((lodgeG [(1, 1)]).g 1).toNat % 64 ≠ 0 ∧
    (let s := scrubbing []
     s.cur = .lodge 0 ∧ s.ctx.priv = .l ∧ (s.g 1).toNat % 64 = 0 ∧ loadWords s (s.g 1) 8 [] = (.ok (shead 1), s) ∧
     loadWords s (s.g 1 + 64) 1 [] = (.ok (leBytes 8 (2 ^ 56)), s)) ∧
    (fieldAt (shead 1) 0 4 = 1 ∧ fieldAt (shead 1) 8 56 = 0 ∧ fieldAt (shead 1) 6 2 = 1 ∧ fieldAt (shead 1) 4 1 = 0 ∧ fieldAt (shead 1) 5 1 = 1 ∧
     fieldAt (shead 0) 6 2 = 0 ∧ fieldAt (shead 1024) 6 2 = 1024 ∧ unitsOf (leBytes 8 (2 ^ 56)) 1 = [0x100000000000000] ∧
     unitKind 0x100000000000000 = 1 ∧ unitIndex 0x100000000000000 = 0) ∧
    (scrubOk (scrubbing []) 0 1 req.units = true ∧ scrubBusy (scrubbing []) req.units = false ∧ scrubBusy (scrubbing [req]) req.units = true ∧
     scrubOk (scrubbing []) 2 1 req.units = false) ∧
    ((scrubbing [req]).scrubs.find? (fun r => !r.cleared) = some req ∧
     (scrubbing [{ req with started := true }]).scrubs.find? (fun r => r.started && !r.cleared) = some { req with started := true }) ∧
    (req.invf ≠ 0xFF ∧ req.nonce.length = 4 ∧ tokenAt ((scrubbing []).tenant 1) = some 0x1000 ∧ ({ req with cleared := true } : Scrub).cleared = true) ∧
    (let x : Tenant := { fqcount := 2 ^ 32, fqacked := 1 }
     0 < 2 ^ 32 ∧ x.fqacked ≤ 2 ^ 32 ∧ 2 ^ 32 ≤ x.fqcount ∧ x.fqcount < 2 ^ 32 + (2 ^ 32 - 1) ∧ (1 : Word).toNat % 2 ^ 32 = (2 ^ 32 - 1) % (2 ^ 32 - 1) + 1) := by
  refine ⟨by decide, ⟨by decide, by decide, by decide, rfl, rfl⟩, by decide, by decide, by decide, by decide, by decide⟩

/-- Descriptors at both ends of the legal sizes, queues and rings that exist or not, TAKE of a record, registers and doorbells. -/
theorem witness_HostWrites :
    (let t : Tenant := { plimit := 2 ^ 40 }
     let d (n : Nat) : BitVec 32 := BitVec.ofNat 32 n
     (d 0x14).toNat % 16 = 4 ∧ (d 0x1C).toNat % 16 = 12 ∧ (d 0x1C).getLsbD 4 = true ∧ (d 0x1C).toNat < 2 ^ 5 ∧ (d 0x0C).getLsbD 4 = false ∧
     praOk t 0x40 (64 + 64 * 2 ^ 12) = true ∧ praOk t 0x20 (32 * 2 ^ 12) = true ∧ (0x40#64).toNat % 64 = 0 ∧ (0x20#64).toNat % 32 = 0 ∧ d 1 ≠ 0 ∧
     (d 0x13).toNat % 16 < 4 ∧ 12 < (d 0x1D).toNat % 16) ∧
    ((thr.queue 0).en = false ∧ (thr.cring 0 0).en = false ∧ ({ en := true } : HQueue).live = [] ∧ ({ en := true, live := [1] } : HQueue).live ≠ []) ∧
    (let r : CRing := { en := true, posted := 16, taken := 3 }
     0 < 16 ∧ r.taken ≤ 16 ∧ 16 ≤ r.posted ∧ r.posted < 16 + (2 ^ 32 - 1) ∧ (16#32).toNat = (16 - 1) % (2 ^ 32 - 1) + 1) ∧
    (63 < 64 ∧ 66 < 67) ∧ (4088 % 8 = 0 ∧ 4088 < 4096) ∧ thr.admin.busy = false ∧ ({ busy := true, done := true } : AdminBox).done = true ∧
    thr.admin.done = false := by decide

/-- Legal operands of the administrative commands, and what refuses them. -/
theorem witness_AdminCommands :
    (AdminRuns State.reset 1 ∧ AdminRuns { State.reset with admin := { busy := true, buf := [(0, 9)] } } 9) ∧ State.reset.plotsOf 0 = [] ∧ thr.plotsOf 0 ≠ [] ∧ State.reset.holdsGranule 0 = false ∧
    State.reset.tierEnc = [] ∧ (∀ e ∈ State.reset.perms, bitAt e.2.toNat 7 = false) ∧ bitAt (0x140#64).toNat 7 = false ∧ bitAt (Tbl.getD State.reset.perms 262143 0).toNat 7 = false ∧
    (let lm := List.replicate 16 16384
     lm.length = 16 ∧ (∀ m ∈ lm, m ≤ 16384) ∧ quotaBelow thr 0 16384 4096 128 lm = false ∧ quotaBelow thr 0 0 0 0 (List.replicate 16 0) = true) ∧
    (16368 + 16 ≤ 16384 ∧ (∀ e ∈ thr.tenants, e.1 ≠ 1 → e.2.recCount = 0 ∨ e.2.recFirst + e.2.recCount ≤ 16368 ∨ 16368 + 16 ≤ e.2.recFirst) ∧
     ∀ e ∈ thr.slots, thr.inRecRange 1 e.1 = true → e.2.st = .idle) ∧
    (scrubOk (scrubbing []) 0 1 req.units = true ∧ scrubBusy (scrubbing []) req.units = false ∧ tagsOk (placementAfter (scrubbing []) 1 req.units) = true) ∧
    clearingFor thr 0 = false ∧ (({ thr with threads := [(0, { ctx0 with halted := true })] } : State).thread 0).halted = true ∧ (thr.thread 0).halted = false ∧
    granuleUsed State.reset 16383 = false ∧
    granuleUsed { State.reset with tenants := [(0, { pbase := granuleSpa State.reset 5, plimit := 4096 })] } 5 = true ∧
    ((0xFFFFF000000#64).toNat + 2 ^ 24 ≤ 2 ^ 44 ∧ (2 ^ 61 - 1 : Nat) < 2 ^ 61) := by
  refine ⟨⟨.inl rfl, .inr ⟨by decide, by decide⟩⟩, ?_⟩
  decide

/-- A reset of a function at work and one whose launches are gone; accesses of another package; host accesses of a shared line. -/
theorem witness_HostAndLinks :
    ((thr.tenant 0).flr = false ∧ (∀ e ∈ thr.slots, e.2.st ≠ .queued) ∧ (thr.slot 0).st = .running ∧ (thr.slot 0).queue / 64 = 0 ∧ (thr.slot 0).comp = none) ∧
    (State.reset.staged = none ∧ (∀ c, c < 4 → State.reset.worn (.lodge c) = none) ∧
     (({ State.reset with wear := [{ unit_ := .lodge 0, worn := some 3 }] } : State).worn (.lodge 0)).isSome = true) ∧
    ({ flr := true } : Tenant).flr = true ∧ (∀ e ∈ State.reset.slots, (e.2.st ≠ .running ∧ e.2.st ≠ .queued) ∨ e.2.queue / 64 ≠ 0) ∧
    (thr.isLocal 0x9000 = true ∧ mapsMemory 0x9000 = true ∧ thr.isBad 0x9000 16 = false) ∧
    (leNat (Mem.read thr.mem 0x9000 8) = (0 : Word).toNat % 2 ^ (8 * 8) ∧ leNat (Mem.read thr.mem 0x9000 4) ≠ (1 : Word).toNat % 2 ^ (8 * 4)) ∧
    (let r : Remote := { id := 1, party := .thread 0, spa := 2 ^ 46, n := 8, since := 0 }
     let s : State := { thr with remotes := [r], cycle := 700000 }
     r.amo = none ∧ s.remotes.find? (fun x => decide (x.id = 1) && x.st == .sent) = some r ∧ (List.replicate 8 (0 : Byte)).length = r.n ∧ r ∈ s.remotes ∧ r.st = .sent ∧
     r.since + 700000 ≤ s.cycle ∧ ∀ q ∈ s.pend, q.id ≠ 1) ∧
    (let q : Pend := { id := 2, party := .thread 0, tenant := 0, asid := 1, va := 0, spa := 2 ^ 46, bytes := [1] }
     ({ thr with pend := [q], cycle := 700000 } : State).pend.find? (fun y => decide (y.id = 2) && !thr.isLocal y.spa && decide (y.at_ + 700000 ≤ 700000)) = some q) ∧
    (let s : State := { thr with shared := [0] }
     let w : Word := 0x100000000008
     s.isLocal w.toNat = true ∧ isTier2 w.toNat = true ∧ s.shared.contains (tier2Granule w.toNat) = true ∧ w.toNat % 8 = 0) ∧ thr.shared = [] := by decide

/-- A unit with some wear. -/
def wearing (x : Wear) : State := { State.reset with wear := [x] }

/-- Samples and errors below and at their bounds; a row state; a plot with and without a spare; each other kind of unit. -/
theorem witness_WearAndSpares :
    ((State.reset.wearOf (.plot 0)).low + 1 < 16 ∧ 16 ≤ ((wearing { unit_ := .plot 0, low := 15 }).wearOf (.plot 0)).low + 1 ∧
     (State.reset.wearOf (.plot 0)).worn = none) ∧
    (16 < (((List.replicate 16 0).filter fun y => 5 < y + 2520000000000) ++ [5]).length ∧ (([] : List Nat) ++ [5]).length ≤ 16) ∧
    (Tbl.get? (withRegion regn []).regions 0 = some regn ∧ Tbl.get? regn.parts (partKey 0 0) = some { built := true }) ∧
    (let s := wearing { unit_ := .plot 0, worn := some 1, cuts := some [] }
     s.worn (.plot 0) = some 1 ∧ Tbl.getD s.spares 0 0 < 20 ∧ moveWaits s 0 = false ∧ (s.wearOf (.plot 0)).cuts = some [] ∧ s.frameStarts 0 = true) ∧
    (let s := { wearing { unit_ := .plot 0, worn := some 1 } with spares := [(0, 20)] }
     20 ≤ Tbl.getD s.spares 0 0 ∧ (s.plot 0).partner = none ∧ s.pairsOn 0 < 20 ∧ pairFor s 0 = some 1 ∧ moveWaits s 1 = false ∧ s.frameStarts 0 = true) ∧
    (let s := wearing { unit_ := .column 0 0 127, worn := some 2, cuts := some [] }
     s.worn (.column 0 0 127) = some 2 ∧ Tbl.getD s.colSpares (colKey s 0 0) 0 < 4 ∧ (s.wearOf (.column 0 0 127)).cuts = some [] ∧ (s.lat 0 0).binds = [] ∧
     (s.lat 0 0).work = none) ∧
    (let s := wearing { unit_ := .way 127 15, worn := some 3 }
     s.worn (.way 127 15) = some 3 ∧ Tbl.getD s.waySpares 127 0 = 0 ∧ Tbl.getD ([(127, 1)] : Tbl Nat) 127 0 ≠ 0) ∧
    (wearing { unit_ := .row 7, worn := some 1 }).worn (.row 7) = some 1 ∧
    ((wearing { unit_ := .lane 15 7, worn := some 1 }).worn (.lane 15 7) = some 1 ∧ Tbl.getD State.reset.lanes 15 0 = 0 ∧ Tbl.getD ([(15, 1)] : Tbl Nat) 15 0 ≠ 0) ∧
    State.reset.worn (.row 7) = none ∧
    (let s : State := { State.reset with plots := [(0, { assist := { st := .double } })] }
     (s.plot 0).assist.st = .double ∧ (s.plot 0).failed = false ∧ (s.wearOf (.plot 0)).worn = none ∧ (s.wearOf (.plot 0)).cuts = none) := by decide

/-- A lodge core and an assist context are no threads. -/
theorem witness_DeniedOffThread :
    State.reset.isThread = false ∧ ({ thr with cur := .assist 0 } : State).isThread = false ∧ State.reset.ctx.priv ≠ .u := by decide

/-- Lodge core 0 with a word in its instruction memory, under a clause. -/
def coded (w : Nat) (cl : Clause) : State :=
  { State.reset with imem := Mem.write [] 0 (leBytes 4 w), lodges := [(0, { ctx := { st := .running, priv := .l, cl := cl }, role := .active })] }

/-- A context fetches a word that decodes, one that does not, one that a clause skips and one that it may not govern; one that waits; a
thread's word in its instruction cache; an event on the agenda. -/
theorem witness_StepRuns :
    (Fetches (coded 0x04A63800 {}) ∧ CodeAt (coded 0x04A63800 {}) 0 [0x04A63800] ∧ decodeWords [0x04A63800] = .ok (.aluAdd 5 6 7)) ∧
    (CodeAt (coded 0 {}) 0 [0] ∧ (match decodeWords [0] with | .error _ => true | _ => false) = true) ∧
    (Fetches (coded 0x04A63800 { kind := .whenSkip }) ∧ ungovernable 0x04A63800 = false ∧ hasLength 0x04A63800 = true) ∧
    (let w := firstWord (.rpt 1 3)
     Fetches (coded w.toNat { kind := .whenExec }) ∧ CodeAt (coded w.toNat { kind := .whenExec }) 0 [w] ∧ ungovernable w = true ∧ hasLength w = true) ∧
    (let l : ILine := { tenant := 0, asid := 1, line := 0x40, sline := 0x240, bytes := leBytes 4 0x04A63800 }
     let s : State := { thr with plots := [(0, { owner := some 0, icache := [l] })], xlats := [{ page0 with page := 0x1000, spa := 0x9000 }] }
     Fetches s ∧ CodeAt s 0x1000 [0x04A63800]) ∧
    (let s := waiting (.swait 1 2 3) []
     s.agenda = [] ∧ s.ctx.halted = false ∧ s.ctx.st = .waiting ∧ s.ctx.wait = some { instr := .swait 1 2 3, start := 0, mark := 9 } ∧
     s.cycle ∉ (s.plot 0).withheld ∧ (s.plot 0).resident = true ∧ s.waitsPage (.thread 0) = false) ∧
    ({ thr with agenda := [.event .scrubRequestStart] } : State).agenda = [.event .scrubRequestStart] ∧
    ({ ctx0 with halted := true } : Ctx).halted = true ∧
    (Fetches (coded 0x9C0000C0 {}) ∧ (coded 0x9C0000C0 {}).agenda = [] ∧ codeWord (coded 0x9C0000C0 {}) 0 = some 0x9C0000C0) := by
  refine ⟨⟨⟨rfl, rfl, rfl, rfl, rfl⟩, ⟨by decide, by decide⟩, rfl⟩, ⟨⟨by decide, by decide⟩, by decide⟩, ⟨⟨rfl, rfl, rfl, rfl, rfl⟩, by decide, by decide⟩,
    ⟨⟨rfl, rfl, rfl, rfl, rfl⟩, ⟨by decide, by decide⟩, by decide, by decide⟩,
    ⟨⟨rfl, rfl, rfl, rfl, ⟨by decide, by decide, by decide⟩⟩, ⟨by decide, by decide⟩⟩, by decide, by decide, by decide,
    ⟨⟨rfl, rfl, rfl, rfl, rfl⟩, by decide, by decide⟩⟩

/-- A BRK at hand at an aligned pc. -/
theorem witness_BreakTrap :
    (coded 0x9C0000C0 {}).ctx.pc.toNat % 4 = 0 ∧ Fetches (coded 0x9C0000C0 {}) ∧ (coded 0x9C0000C0 {}).ctx.cl.kind = .none ∧
    codeWord (coded 0x9C0000C0 {}) 0 = some 0x9C0000C0 :=
  ⟨by decide, ⟨rfl, rfl, rfl, rfl, rfl⟩, by decide, by decide⟩

/-- An aligned pc. -/
theorem witness_TrapCall : thr.ctx.pc.toNat % 4 = 0 := by decide

/-- Well-formed control instructions with operands at the ends of their ranges. -/
theorem witness_RoundTrip :
    ∀ i ∈ [Instr.aluAdd 31 0 31, .addiExt 31 31 (.one 0xFFFFFFFF), .addiExt 0 0 (.two 0xFFFFFFFF 0xFFFFFFFF), .jmp 0x1FFFFFF, .stq 30 31 0x3FF true, .brk],
      i.wf = true ∧ i.isControl = true := by decide

/-- The reset state is canonical, and a step leads from it to a next state. -/
theorem witness_MemoryCanonical : State.reset.memOk = true ∧ (match step State.reset with | .next _ => true | _ => false) = true := by decide

/-! One step each, and the manual's own numbers. -/

/-- What an instruction answers. -/
def after (i : Instr) (s : State) : State := match exec i s with | .next t => t | _ => State.reset

/-- Addition wraps at 64 bits; the sum goes to the destination, and the pc passes the word (R80, Table 4.4). -/
theorem test_add_wraps :
    let t := after (.aluAdd 3 1 2) (thrG [(1, 0xFFFFFFFFFFFFFFFF), (2, 2)])
    t.g 3 = 1 ∧ t.g 1 = 0xFFFFFFFFFFFFFFFF ∧ t.ctx.pc = 0x1004 ∧ t.ctx.retired = 1 := by decide

/-- Division of the least number by -1, and by 0 (R80). -/
theorem test_div_corners :
    (after (.aluDiv 3 1 2) (thrG [(1, 0x8000000000000000), (2, 0xFFFFFFFFFFFFFFFF)])).g 3 = 0x7FFFFFFFFFFFFFFF ∧
    (after (.aluRem 3 1 2) (thrG [(1, 0x8000000000000000), (2, 0xFFFFFFFFFFFFFFFF)])).g 3 = 0 ∧
    (after (.aluDiv 3 1 2) (thrG [(1, 5)])).g 3 = 0 ∧ (after (.aluRem 3 1 2) (thrG [(1, 5)])).g 3 = 5 := by decide

/-- g0 discards a write (R49). -/
theorem test_g0_discards : (after (.addi 0 1 5) (thrG [(1, 1)])).g 0 = 0 := by decide

/-- The clamp of the worked example: 243 is not below 200, and `when.z` of 0 lets its instruction run (Table 4.12). -/
theorem test_clamp_example :
    (after (.slti 10 8 200) (thrG [(8, 243)])).g 10 = 0 ∧ (after (.slti 10 8 200) (thrG [(8, 81)])).g 10 = 1 ∧
    (after (.when .z 10 0) thr).ctx.cl.kind = .whenExec ∧ (after (.rpt 4 0) (thrG [(4, 5)])).ctx.cl.rem = 5 := by decide

/-- BRK leaves its own address in EPC, FBYTE and FADDR, and BREAK in ECAUSE (R342); the handler's word is in the instruction
cache. -/
theorem test_brk :
    let l : ILine := { tenant := 0, asid := 1, line := 0, sline := 0x200, bytes := leBytes 4 0 }
    let c := (after .brk { thr with plots := [(0, { owner := some 0, icache := [l] })] }).ctx
    c.ecause.toNat % 256 = 8 ∧ c.epc = 0x1000 ∧ c.fbyte = 0x1000 ∧ c.faddr = 0x1000 ∧ c.einfo = 0 ∧ c.priv = .s := by decide

/-- FP32 0x3F880008 converts to E4M3 0x39 at once, and to 0x38 by way of FP16 0x3C40 (the example after R61). -/
theorem test_one_rounding :
    fpE4M3.round .rne false (fp32.val 0x3F880008) = 0x39 ∧ fp16.round .rne false (fp32.val 0x3F880008) = 0x3C40 ∧
    fpE4M3.round .rne false (fp16.val 0x3C40) = 0x38 := by decide

/-- Table 3.6: 3.0, -0.75, 0.3 and zeros as BFP4: scale 0x80, mantissas 6, -2, 1. -/
theorem test_quantise_bfp4 :
    quantise 4 .rne ([fp32.val 0x40400000, fp32.val 0xBF400000, fp32.val 0x3E99999A] ++ List.replicate 29 (fp32.val 0)) =
      (0x80, [6, -2, 1] ++ List.replicate 29 0) := by decide +kernel

/-- GACT.relu of -inf and -3 is NaN; GACT.silu of 2 and -inf is -0 (R67). -/
theorem test_gact :
    gactRound fp32 2 false (fp32.val 0xFF800000) (fp32.val 0xC0400000) = 0x7FC00000 ∧
    gactRound fp32 0 false (fp32.val 0x40000000) (fp32.val 0xFF800000) = 0x80000000 := by decide

/-- Table 7.11: 2^24, 1.0 and -2^24 merged in the two orders. -/
theorem test_fadd_orders :
    let add (a b : Nat) := fp32.round .rne false (Val.add .rne (fp32.val a) (fp32.val b))
    add (add (add 0 0x4B800000) 0x3F800000) 0xCB800000 = 0 ∧ add (add (add 0 0xCB800000) 0x3F800000) 0x4B800000 = 0x3F800000 := by decide

/-- Table 8.6b: two chunks of column 0 enter an empty row; the second renormalises it by 13. -/
theorem test_renormalisation :
    let c (s f : Int) : List Chunk := { s := s, f := f } :: List.replicate 127 {}
    let a := addChunk {} 0 (c 524290 (-19))
    let b := addChunk a 0 (c 12845056 (-2))
    ((a.row 0).x, (a.row 0).ms.headD 0, (a.row 0).h, a.renorm) = (-30, 2 ^ 30 + 2 ^ 12, 8, 0) ∧
    ((b.row 0).x, (b.row 0).ms.headD 0, (b.row 0).h, b.renorm, b.maxshift, b.trunc) = (-17, 420906926080, 0, 1, 13, 0) := by decide +kernel

/-- Table 8.6c: 3,211,265 read out in each format. -/
theorem test_read_out :
    let v : Val := .fin false 3211265 0
    (outFmt 6).round .rne false v = 0x4148800080000000 ∧ (outFmt 0).round .rne false v = 0x4A440004 ∧ (outFmt 2).round .rne false v = 0x4A44 ∧
    (outFmt 1).round .rne false v = 0x7C00 ∧ (outFmt 3).round .rne false v = 0x7E ∧ (outFmt 3).round .rne true v = 0x7F ∧
    (outFmt 4).round .rne false v = 0x7C := by decide

/-- The region of Table 13.10. -/
def drifting (n x : Int) : Region :=
  { regn with cols := 3, bfmt := 2, rfmt := 2, parts := [(0, { built := true, n := n, x := x })] }

/-- Table 13.10: 2^50 enters at X = -12 with 2^12 added to the shifted sum, and is withdrawn exactly. -/
theorem test_drift_example :
    let u (col old new : Nat) : DUpd := { row := 0, part := 0, elts := [(col, BitVec.ofNat 32 old, BitVec.ofNat 32 new)], pend := 0, party := .thread 0, gran := 0, held := none, lnch := none }
    let part (r : Region) := (Tbl.getD r.parts 0 {}).n
    let exp (r : Region) := (Tbl.getD r.parts 0 {}).x
    let a := (drifting (2 ^ 62) (-62)).applyUpd (u 2 0 0x58800000)
    let b := a.applyUpd (u 1 0 0x35800000)
    let c := b.applyUpd (u 2 0x58800000 0)
    (part a, exp a, Tbl.getD a.drift 0 0) = (0x4000000000001000, -12, 0) ∧ (part b, exp b, Tbl.getD b.drift 0 0) = (0x4000000000001000, -12, 1) ∧
    (part c, exp c) = (0x1000, -12) ∧ leNat (c.rowValue 0) = 0x3F800000 := by decide +kernel

/-- The shape word of a 64 by 128 FP32 tile: 32 KiB, 8 granules (R179's example). -/
theorem test_tile_size :
    let t : Tile := { st := .ready, esz := 4, rows := 64, cols := 128 }
    tileBytes t = 32768 ∧ t.granules = 8 := by decide

/-- The pc's first step from reset: lodge core 0 at address 0, whose word 0 is no instruction, traps with ILLEGAL (R18, R309). -/
theorem test_reset_step :
    (match step State.reset with | .next t => decide (t.ctx.ecause.toNat % 256 = 1 ∧ t.ctx.epc = 0) | _ => false) = true := by decide

/-- SHA3-256 of the three bytes "abc", from the published standard's examples. -/
theorem test_sha3 : digest [0x61, 0x62, 0x63] =
    [0x3A, 0x98, 0x5D, 0xA7, 0x4F, 0xE2, 0x25, 0xB2, 0x04, 0x5C, 0x17, 0x2D, 0x6B, 0xD3, 0x90, 0xBD,
     0x85, 0x5F, 0x08, 0x6E, 0x3E, 0x9D, 0x52, 0x5B, 0x46, 0xBF, 0xE2, 0x45, 0x11, 0x43, 0x15, 0x32] := by decide +kernel

end Sys2Proof.Tests
end

namespace Sys2Proof

/-! Decoding undoes encoding (02_words R15-R29): what each field of an encoded word reads as, what each format's decoder
makes of its encoder's word, and the round trip of every control instruction. -/

/-! Fields inside a format's low part. -/

/-- A field that lies in the low part of two joined bit strings. -/
theorem extract_within {n m : Nat} (k j : Nat) (x : BitVec n) (y : BitVec m) (h : k + j ≤ m) :
    (x ++ y).extractLsb' k j = y.extractLsb' k j := by
  apply BitVec.eq_of_getLsbD_eq
  intro i hi
  have hlow : k + i < m := by omega
  simp [BitVec.getLsbD_append, hi, hlow]

/-- A bit is the field of width 1 there. -/
theorem getLsbD_of_field {n : Nat} (w : BitVec n) (k : Nat) (b : Bool) (h : w.extractLsb' k 1 = BitVec.ofBool b) :
    w.getLsbD k = b := by
  have hbit : (w.extractLsb' k 1).getLsbD 0 = (BitVec.ofBool b).getLsbD 0 := by rw [h]
  simpa [BitVec.getLsbD_extractLsb'] using hbit

/-- A field of the modifiers of a word in R format (R16). -/
theorem encR_mods (maj : BitVec 6) (rd rs1 rs2 : Reg) (sub : BitVec 5) (mods : BitVec 4) (len : BitVec 2)
    (k j : Nat) (h : k + j ≤ 4) : (encR maj rd rs1 rs2 sub mods len).extractLsb' (2 + k) j = mods.extractLsb' k j :=
  (extract_high k j _ len).trans (extract_within k j _ mods h)

/-- One modifier bit. -/
theorem encR_modBit (maj : BitVec 6) (rd rs1 rs2 : Reg) (sub : BitVec 5) (mods : BitVec 4) (len : BitVec 2)
    (k : Nat) (b : Bool) (h : k + 1 ≤ 4) (hb : mods.extractLsb' k 1 = BitVec.ofBool b) :
    (encR maj rd rs1 rs2 sub mods len).getLsbD (2 + k) = b :=
  getLsbD_of_field _ _ b ((encR_mods maj rd rs1 rs2 sub mods len k 1 h).trans hb)

/-- A field of the immediate of a word in format I, S or B. -/
theorem encI_imm (maj : BitVec 6) (rd rs1 : Reg) (imm : Imm14) (len : BitVec 2) (k j : Nat) (h : k + j ≤ 14) :
    (encI maj rd rs1 imm len).extractLsb' (2 + k) j = imm.extractLsb' k j :=
  (extract_high k j _ len).trans (extract_within k j _ imm h)

/-- The element-size bit of a word in format Q (R24). -/
theorem encQ_es (maj : BitVec 6) (rd rs1 : Reg) (off : BitVec 13) (es : Bool) (len : BitVec 2) :
    (encQ maj rd rs1 off es len).getLsbD 2 = es :=
  getLsbD_of_field _ _ es ((extract_high 0 1 _ len).trans (extract_low _ (BitVec.ofBool es)))

/-! `encT` -/

/-- The size field of a tile access (R25). -/
def sizeField : AccSize → BitVec 2
  | .b => 0 | .h => 1 | .w => 2 | .d => 3

theorem accSizeOf_sizeField (sz : AccSize) : accSizeOf (sizeField sz) = sz := by cases sz <;> rfl

theorem encT_eq (maj : BitVec 6) (rd ro : Reg) (h : BitVec 8) (sz : AccSize) (len : BitVec 2) :
    encT maj rd ro h sz len = maj ++ rd ++ ro ++ h ++ sizeField sz ++ 0#4 ++ len := by
  cases sz <;> rfl

@[simp] theorem encT_fRd (maj : BitVec 6) (rd ro : Reg) (h : BitVec 8) (sz : AccSize) (len : BitVec 2) :
    fRd (encT maj rd ro h sz len) = rd := by
  rw [encT_eq]
  exact (extract_high 19 5 _ len).trans ((extract_high 15 5 _ 0#4).trans ((extract_high 13 5 _ (sizeField sz)).trans
    ((extract_high 5 5 _ h).trans ((extract_high 0 5 _ ro).trans (extract_low _ rd)))))

@[simp] theorem encT_fRs1 (maj : BitVec 6) (rd ro : Reg) (h : BitVec 8) (sz : AccSize) (len : BitVec 2) :
    fRs1 (encT maj rd ro h sz len) = ro := by
  rw [encT_eq]
  exact (extract_high 14 5 _ len).trans ((extract_high 10 5 _ 0#4).trans ((extract_high 8 5 _ (sizeField sz)).trans
    ((extract_high 0 5 _ h).trans (extract_low _ ro))))

@[simp] theorem encT_handle (maj : BitVec 6) (rd ro : Reg) (h : BitVec 8) (sz : AccSize) (len : BitVec 2) :
    (encT maj rd ro h sz len).extractLsb' 8 8 = h := by
  rw [encT_eq]
  exact (extract_high 6 8 _ len).trans ((extract_high 2 8 _ 0#4).trans ((extract_high 0 8 _ (sizeField sz)).trans
    (extract_low _ h)))

@[simp] theorem encT_size (maj : BitVec 6) (rd ro : Reg) (h : BitVec 8) (sz : AccSize) (len : BitVec 2) :
    (encT maj rd ro h sz len).extractLsb' 6 2 = sizeField sz := by
  rw [encT_eq]
  exact (extract_high 4 2 _ len).trans ((extract_high 0 2 _ 0#4).trans (extract_low _ (sizeField sz)))

@[simp] theorem encT_fMods (maj : BitVec 6) (rd ro : Reg) (h : BitVec 8) (sz : AccSize) (len : BitVec 2) :
    fMods (encT maj rd ro h sz len) = 0 := by
  rw [encT_eq]
  exact (extract_high 0 4 _ len).trans (extract_low _ 0#4)

/-! `encAmo` -/

/-- The order field of an atomic operation (R26). -/
def orderField : AmoOrder → BitVec 2
  | .rlx => 0 | .acq => 1 | .rel => 2 | .acqrel => 3

theorem amoOrderOf_orderField (o : AmoOrder) : amoOrderOf (orderField o) = o := by cases o <;> rfl

theorem encAmo_eq (sub : BitVec 5) (rd rs1 rs2 : Reg) (ret dw : Bool) (o : AmoOrder) :
    encAmo sub rd rs1 rs2 ret dw o =
      encR 0x21 rd rs1 rs2 sub (BitVec.ofBool ret ++ BitVec.ofBool dw ++ orderField o) 0 := by
  cases o <;> rfl

section
variable (sub : BitVec 5) (rd rs1 rs2 : Reg) (ret dw : Bool) (o : AmoOrder)

@[simp] theorem encAmo_fRd : fRd (encAmo sub rd rs1 rs2 ret dw o) = rd := encR_fRd ..
@[simp] theorem encAmo_fRs1 : fRs1 (encAmo sub rd rs1 rs2 ret dw o) = rs1 := encR_fRs1 ..
@[simp] theorem encAmo_fRs2 : fRs2 (encAmo sub rd rs1 rs2 ret dw o) = rs2 := encR_fRs2 ..
@[simp] theorem encAmo_fSub : fSub (encAmo sub rd rs1 rs2 ret dw o) = sub.toNat := encR_fSub ..

theorem encAmo_ret : (encAmo sub rd rs1 rs2 ret dw o).getLsbD 5 = ret := by
  rw [encAmo_eq]
  exact encR_modBit _ _ _ _ _ _ _ 3 ret (by decide) ((extract_high 1 1 _ (orderField o)).trans
    ((extract_high 0 1 _ (BitVec.ofBool dw)).trans (extract_all (BitVec.ofBool ret))))

theorem encAmo_dw : (encAmo sub rd rs1 rs2 ret dw o).getLsbD 4 = dw := by
  rw [encAmo_eq]
  exact encR_modBit _ _ _ _ _ _ _ 2 dw (by decide) ((extract_high 0 1 _ (orderField o)).trans
    (extract_low _ (BitVec.ofBool dw)))

theorem encAmo_order : amoOrderOf ((encAmo sub rd rs1 rs2 ret dw o).extractLsb' 2 2) = o := by
  rw [encAmo_eq]
  have hfield := (encR_mods 0x21 rd rs1 rs2 sub (BitVec.ofBool ret ++ BitVec.ofBool dw ++ orderField o) 0 0 2
    (by decide)).trans (extract_low _ (orderField o))
  exact (congrArg amoOrderOf hfield).trans (amoOrderOf_orderField o)

end

/-! What each format's decoder reads from its encoder's word. -/

section
variable (maj : BitVec 6) (rd rs1 rs2 : Reg) (sub : BitVec 5)

@[simp] theorem check_true (e : DecodeError) (i : Except DecodeError Instr) : check true e i = i := rfl

theorem decR3_encR (mk : Reg → Reg → Reg → Instr) : decR3 (encR maj rd rs1 rs2 sub 0 0) mk = .ok (mk rd rs1 rs2) := by
  simp [decR3]

theorem decR2_encR (mk : Reg → Reg → Instr) : decR2 (encR maj rd rs1 0 sub 0 0) mk = .ok (mk rd rs1) := by
  simp [decR2]

theorem decR0_encR (i : Instr) : decR0 (encR maj 0 0 0 sub 0 0) i = .ok i := by
  simp [decR0]

theorem decPair_even (w : BitVec 32) (i : Instr) (h : (fRd w).even = true) : decPair w (.ok i) = .ok i := by
  simp [decPair, h]

@[simp] theorem decMod1_encR (m : Bool) (mk : Bool → Except DecodeError Instr) :
    decMod1 (encR maj rd rs1 rs2 sub (0#3 ++ BitVec.ofBool m) 0#2) mk = mk m := by
  have hzero : (encR maj rd rs1 rs2 sub (0#3 ++ BitVec.ofBool m) 0#2).extractLsb' 3 3 = 0#3 :=
    (encR_mods _ _ _ _ _ _ _ 1 3 (by decide)).trans ((extract_high 0 3 0#3 (BitVec.ofBool m)).trans (extract_all 0#3))
  have hbit : (encR maj rd rs1 rs2 sub (0#3 ++ BitVec.ofBool m) 0#2).getLsbD 2 = m :=
    encR_modBit _ _ _ _ _ _ _ 0 m (by decide) (extract_low 0#3 (BitVec.ofBool m))
  simp only [decMod1, hzero, hbit, encR_fLen]
  rfl

theorem decI_short (imm : Imm14) (e0 e1 : BitVec 32) (short : Reg → Reg → Imm14 → Instr)
    (long : Reg → Reg → Ext → Instr) :
    decI (encI maj rd rs1 imm 0) e0 e1 short long = .ok (short rd rs1 imm) := by
  simp [decI]

/-- The first extension word, and the second where there is one. -/
def Ext.first : Ext → BitVec 32 | .one e0 => e0 | .two e0 _ => e0
def Ext.second : Ext → BitVec 32 | .one _ => 0 | .two _ e1 => e1

theorem extOf_words (e : Ext) : extOf e.lenField.toNat e.first e.second = e := by cases e <;> rfl

theorem Ext.lenField_pos (e : Ext) : e.lenField.toNat ≠ 0 := by cases e <;> simp [Ext.lenField]

theorem decI_long (e : Ext) (short : Reg → Reg → Imm14 → Instr) (long : Reg → Reg → Ext → Instr) :
    decI (encI maj rd rs1 0 e.lenField) e.first e.second short long = .ok (long rd rs1 e) := by
  simp only [decI, encI_fLen, e.lenField_pos, if_false, encI_fImm, encI_fRd, encI_fRs1, extOf_words]
  rfl

theorem decB_short (imm : Imm14) (e0 : BitVec 32) (short : Reg → Reg → Imm14 → Instr)
    (long : Reg → Reg → BitVec 32 → Instr) :
    decB (encI maj rd rs1 imm 0) e0 short long = .ok (short rd rs1 imm) := by
  simp [decB]

theorem decB_long (e0 : BitVec 32) (short : Reg → Reg → Imm14 → Instr) (long : Reg → Reg → BitVec 32 → Instr) :
    decB (encI maj rd rs1 0 1) e0 short long = .ok (long rd rs1 e0) := by
  simp [decB]

theorem decQ_short (off : BitVec 13) (es : Bool) (e0 e1 : BitVec 32) (short : Reg → Reg → BitVec 13 → Bool → Instr)
    (long : Reg → Reg → Bool → Ext → Instr) (h : rd.even = true) :
    decQ (encQ maj rd rs1 off es 0) e0 e1 short long = .ok (short rd rs1 off es) := by
  simp only [decQ, encQ_fLen, encQ_fRd, encQ_fRs1, encQ_off, encQ_es]
  exact decPair_even _ _ (by rw [encQ_fRd, h])

theorem decQ_long (es : Bool) (e : Ext) (short : Reg → Reg → BitVec 13 → Bool → Instr)
    (long : Reg → Reg → Bool → Ext → Instr) (h : rd.even = true) :
    decQ (encQ maj rd rs1 0 es e.lenField) e.first e.second short long = .ok (long rd rs1 es e) := by
  simp only [decQ, encQ_fLen, e.lenField_pos, if_false, encQ_fRd, encQ_fRs1, encQ_off, encQ_es, extOf_words]
  exact decPair_even _ _ (by rw [encQ_fRd, h])

theorem decT_short (h : BitVec 8) (sz : AccSize) (e0 : BitVec 32) (short : Reg → Reg → BitVec 8 → AccSize → Instr)
    (long : Reg → Reg → BitVec 8 → AccSize → BitVec 32 → Instr) :
    decT (encT maj rd rs1 h sz 0) e0 short long = .ok (short rd rs1 h sz) := by
  simp [decT, accSizeOf_sizeField]

theorem decT_long (h : BitVec 8) (sz : AccSize) (e0 : BitVec 32) (short : Reg → Reg → BitVec 8 → AccSize → Instr)
    (long : Reg → Reg → BitVec 8 → AccSize → BitVec 32 → Instr) :
    decT (encT maj rd rs1 h sz 1) e0 short long = .ok (long rd rs1 h sz e0) := by
  simp [decT, accSizeOf_sizeField]

theorem decAmo_encAmo (ret dw : Bool) (o : AmoOrder) (mk : Reg → Reg → Reg → Bool → Bool → AmoOrder → Instr)
    (h : amoOk rd ret = true) :
    decAmo (encAmo sub rd rs1 rs2 ret dw o) mk = .ok (mk rd rs1 rs2 ret dw o) := by
  simp only [decAmo, encAmo_fRd, encAmo_fRs1, encAmo_fRs2, encAmo_ret, encAmo_dw, encAmo_order, h, check_true]

/-- The number of a system register (R28). -/
theorem encI_csrNumber (n : BitVec 11) : (encI maj rd rs1 (0#3 ++ n) 0).extractLsb' 2 11 = n :=
  (encI_imm _ _ _ _ _ 0 11 (by decide)).trans (extract_low 0#3 n)

theorem decCsr_encI (n : BitVec 11) (i : Instr) : decCsr (encI maj rd rs1 (0#3 ++ n) 0) i = .ok i := by
  have hzero : (encI maj rd rs1 (0#3 ++ n) 0).extractLsb' 13 3 = 0#3 :=
    (encI_imm _ _ _ _ _ 11 3 (by decide)).trans ((extract_high 0 3 0#3 n).trans (extract_all 0#3))
  simp only [decCsr, hzero, encI_fLen]
  rfl

end

/-! Shifts and fences. -/

section
variable (rd rs1 : Reg) (kind : BitVec 2) (sh : BitVec 6)

theorem encI_shiftKind : (encI 0x06 rd rs1 (kind ++ 0#6 ++ sh) 0).extractLsb' 14 2 = kind :=
  (encI_imm _ _ _ _ _ 12 2 (by decide)).trans ((extract_high 6 2 _ sh).trans
    ((extract_high 0 2 kind 0#6).trans (extract_all kind)))

theorem encI_shiftZero : (encI 0x06 rd rs1 (kind ++ 0#6 ++ sh) 0).extractLsb' 8 6 = 0#6 :=
  (encI_imm _ _ _ _ _ 6 6 (by decide)).trans ((extract_high 0 6 _ sh).trans (extract_low kind 0#6))

theorem encI_shiftAmount : (encI 0x06 rd rs1 (kind ++ 0#6 ++ sh) 0).extractLsb' 2 6 = sh :=
  (encI_imm _ _ _ _ _ 0 6 (by decide)).trans (extract_low _ sh)

end

theorem scopeOf?_code (s : Scope) : scopeOf? s.code.toNat = some s := by cases s <;> rfl

theorem fenceKindOf?_code (k : FenceKind) : fenceKindOf? k.code.toNat = some k := by cases k <;> rfl

@[simp] theorem icScopeOf_code (s : IcScope) : icScopeOf s.code = s := by cases s <;> rfl

theorem decFence_encI (s : Scope) (k : FenceKind) :
    decFence (encI 0x22 0 0 (s.code ++ k.code ++ 0#8) 0) = .ok (.fence s k) := by
  have hzero : (encI 0x22 0 0 (s.code ++ k.code ++ 0#8) 0).extractLsb' 2 8 = 0#8 :=
    (encI_imm _ _ _ _ _ 0 8 (by decide)).trans (extract_low _ 0#8)
  have hkind : (encI 0x22 0 0 (s.code ++ k.code ++ 0#8) 0).extractLsb' 10 3 = k.code :=
    (encI_imm _ _ _ _ _ 8 3 (by decide)).trans ((extract_high 0 3 _ 0#8).trans (extract_low _ k.code))
  have hscope : (encI 0x22 0 0 (s.code ++ k.code ++ 0#8) 0).extractLsb' 13 3 = s.code :=
    (encI_imm _ _ _ _ _ 11 3 (by decide)).trans ((extract_high 3 3 _ 0#8).trans
      ((extract_high 0 3 _ k.code).trans (extract_all s.code)))
  simp only [decFence, hzero, hkind, hscope, scopeOf?_code, fenceKindOf?_code, encI_fLen, encI_fRd, encI_fRs1]
  rfl

/-! Lists of words. -/

theorem decodeWords_one (w : BitVec 32) (h : fLen w = 0) : decodeWords [w] = decode w 0 0 := by
  simp [decodeWords, h]

theorem decodeWords_two (w e0 : BitVec 32) (h : fLen w = 1) : decodeWords [w, e0] = decode w e0 0 := by
  simp [decodeWords, h]

theorem decodeWords_ext (w : BitVec 32) (e : Ext) (h : fLen w = e.lenField.toNat) :
    decodeWords (w :: e.words) = decode w e.first e.second := by
  cases e <;> simp [decodeWords, Ext.words, h, Ext.lenField, Ext.first, Ext.second]

/-! Modifiers of ICINV and MREAD. -/

section
variable (maj : BitVec 6) (rd rs1 rs2 : Reg) (sub : BitVec 5) (sc : BitVec 2) (c m : Bool)

@[simp] theorem encR_scopeZero : (encR maj rd rs1 rs2 sub (0#2 ++ sc) 0#2).extractLsb' 4 2 = 0#2 :=
  (encR_mods _ _ _ _ _ _ _ 2 2 (by decide)).trans ((extract_high 0 2 0#2 sc).trans (extract_all 0#2))

@[simp] theorem encR_scope : (encR maj rd rs1 rs2 sub (0#2 ++ sc) 0#2).extractLsb' 2 2 = sc :=
  (encR_mods _ _ _ _ _ _ _ 0 2 (by decide)).trans (extract_low 0#2 sc)

theorem encR_twoBitsZero :
    (encR maj rd rs1 rs2 sub (0#2 ++ BitVec.ofBool c ++ BitVec.ofBool m) 0#2).extractLsb' 4 2 = 0#2 :=
  (encR_mods _ _ _ _ _ _ _ 2 2 (by decide)).trans ((extract_high 1 2 _ (BitVec.ofBool m)).trans
    ((extract_high 0 2 0#2 (BitVec.ofBool c)).trans (extract_all 0#2)))

theorem encR_firstOfTwoBits :
    (encR maj rd rs1 rs2 sub (0#2 ++ BitVec.ofBool c ++ BitVec.ofBool m) 0#2).getLsbD 3 = c :=
  encR_modBit _ _ _ _ _ _ _ 1 c (by decide) ((extract_high 0 1 _ (BitVec.ofBool m)).trans
    (extract_low 0#2 (BitVec.ofBool c)))

theorem encR_secondOfTwoBits :
    (encR maj rd rs1 rs2 sub (0#2 ++ BitVec.ofBool c ++ BitVec.ofBool m) 0#2).getLsbD 2 = m :=
  encR_modBit _ _ _ _ _ _ _ 0 m (by decide) (extract_low _ (BitVec.ofBool m))

end

/-! The groups of several operations: their words are read by the group's decoder (Table 2.3). -/

section
variable (rd rs1 rs2 : Reg) (sub : BitVec 5) (mods : BitVec 4)

@[simp] theorem decodeWords_alu :
    decodeWords [encR 1#6 rd rs1 rs2 sub mods 0#2] = decAlu (encR 1#6 rd rs1 rs2 sub mods 0#2) := by
  rw [decodeWords_one _ (encR_fLen ..), decode, encR_fMaj, encR_fLen, if_neg (by decide), if_neg (by decide)]
  rfl

@[simp] theorem decodeWords_clause :
    decodeWords [encR 17#6 rd rs1 rs2 sub mods 0#2] = decClause (encR 17#6 rd rs1 rs2 sub mods 0#2) 0 := by
  rw [decodeWords_one _ (encR_fLen ..), decode, encR_fMaj, encR_fLen, if_neg (by decide), if_neg (by decide)]
  rfl

@[simp] theorem decodeWords_sys :
    decodeWords [encR 39#6 rd rs1 rs2 sub mods 0#2] = decSys (encR 39#6 rd rs1 rs2 sub mods 0#2) 0 := by
  rw [decodeWords_one _ (encR_fLen ..), decode, encR_fMaj, encR_fLen, if_neg (by decide), if_neg (by decide)]
  rfl

@[simp] theorem decodeWords_tlb :
    decodeWords [encR 40#6 rd rs1 rs2 sub mods 0#2] = decTlb (encR 40#6 rd rs1 rs2 sub mods 0#2) := by
  rw [decodeWords_one _ (encR_fLen ..), decode, encR_fMaj, encR_fLen, if_neg (by decide), if_neg (by decide)]
  rfl

@[simp] theorem decodeWords_set :
    decodeWords [encR 41#6 rd rs1 rs2 sub mods 0#2] = decSet (encR 41#6 rd rs1 rs2 sub mods 0#2) := by
  rw [decodeWords_one _ (encR_fLen ..), decode, encR_fMaj, encR_fLen, if_neg (by decide), if_neg (by decide)]
  rfl

@[simp] theorem decodeWords_stream :
    decodeWords [encR 42#6 rd rs1 rs2 sub mods 0#2] = decStream (encR 42#6 rd rs1 rs2 sub mods 0#2) := by
  rw [decodeWords_one _ (encR_fLen ..), decode, encR_fMaj, encR_fLen, if_neg (by decide), if_neg (by decide)]
  rfl

@[simp] theorem decodeWords_tile :
    decodeWords [encR 43#6 rd rs1 rs2 sub mods 0#2] = decTile (encR 43#6 rd rs1 rs2 sub mods 0#2) := by
  rw [decodeWords_one _ (encR_fLen ..), decode, encR_fMaj, encR_fLen, if_neg (by decide), if_neg (by decide)]
  rfl

@[simp] theorem decodeWords_matrix :
    decodeWords [encR 44#6 rd rs1 rs2 sub mods 0#2] = decMatrix (encR 44#6 rd rs1 rs2 sub mods 0#2) := by
  rw [decodeWords_one _ (encR_fLen ..), decode, encR_fMaj, encR_fLen, if_neg (by decide), if_neg (by decide)]
  rfl

@[simp] theorem decodeWords_derived :
    decodeWords [encR 45#6 rd rs1 rs2 sub mods 0#2] = decDerived (encR 45#6 rd rs1 rs2 sub mods 0#2) := by
  rw [decodeWords_one _ (encR_fLen ..), decode, encR_fMaj, encR_fLen, if_neg (by decide), if_neg (by decide)]
  rfl

@[simp] theorem decodeWords_ring :
    decodeWords [encR 46#6 rd rs1 rs2 sub mods 0#2] = decRing (encR 46#6 rd rs1 rs2 sub mods 0#2) := by
  rw [decodeWords_one _ (encR_fLen ..), decode, encR_fMaj, encR_fLen, if_neg (by decide), if_neg (by decide)]
  rfl

@[simp] theorem decodeWords_gate :
    decodeWords [encR 47#6 rd rs1 rs2 sub mods 0#2] = decGate (encR 47#6 rd rs1 rs2 sub mods 0#2) := by
  rw [decodeWords_one _ (encR_fLen ..), decode, encR_fMaj, encR_fLen, if_neg (by decide), if_neg (by decide)]
  rfl

@[simp] theorem decodeWords_copy :
    decodeWords [encR 48#6 rd rs1 rs2 sub mods 0#2] = decCopy (encR 48#6 rd rs1 rs2 sub mods 0#2) := by
  rw [decodeWords_one _ (encR_fLen ..), decode, encR_fMaj, encR_fLen, if_neg (by decide), if_neg (by decide)]
  rfl

@[simp] theorem decodeWords_launch :
    decodeWords [encR 49#6 rd rs1 rs2 sub mods 0#2] = decLaunch (encR 49#6 rd rs1 rs2 sub mods 0#2) := by
  rw [decodeWords_one _ (encR_fLen ..), decode, encR_fMaj, encR_fLen, if_neg (by decide), if_neg (by decide)]
  rfl

@[simp] theorem decodeWords_near :
    decodeWords [encR 50#6 rd rs1 rs2 sub mods 0#2] = decNear (encR 50#6 rd rs1 rs2 sub mods 0#2) := by
  rw [decodeWords_one _ (encR_fLen ..), decode, encR_fMaj, encR_fLen, if_neg (by decide), if_neg (by decide)]
  rfl

@[simp] theorem decodeWords_lodge :
    decodeWords [encR 51#6 rd rs1 rs2 sub mods 0#2] = decLodge (encR 51#6 rd rs1 rs2 sub mods 0#2) := by
  rw [decodeWords_one _ (encR_fLen ..), decode, encR_fMaj, encR_fLen, if_neg (by decide), if_neg (by decide)]
  rfl

@[simp] theorem decodeWords_clauseExt (e0 : BitVec 32) :
    decodeWords [encR 17#6 rd rs1 rs2 sub mods 1#2, e0] = decClause (encR 17#6 rd rs1 rs2 sub mods 1#2) e0 := by
  rw [decodeWords_two _ _ (encR_fLen ..), decode, encR_fMaj, encR_fLen, if_neg (by decide), if_neg (by decide)]
  rfl

@[simp] theorem decodeWords_sysExt (e0 : BitVec 32) :
    decodeWords [encR 39#6 rd rs1 rs2 sub mods 1#2, e0] = decSys (encR 39#6 rd rs1 rs2 sub mods 1#2) e0 := by
  rw [decodeWords_two _ _ (encR_fLen ..), decode, encR_fMaj, encR_fLen, if_neg (by decide), if_neg (by decide)]
  rfl

@[simp] theorem decodeWords_amo (ret dw : Bool) (o : AmoOrder) :
    decodeWords [encAmo sub rd rs1 rs2 ret dw o] = decAmoGroup (encAmo sub rd rs1 rs2 ret dw o) := by
  rw [decodeWords_one _ (encAmo_fLen ..), decode, encAmo_fMaj, encAmo_fLen, if_neg (by decide), if_neg (by decide)]
  rfl

end

/-- The words of a well-formed control instruction decode to it: each format's decoder undoes its encoder (R15-R29). -/
theorem decodeWords_encode (i : Instr) (hwf : i.wf = true) (hc : i.isControl = true) : decodeWords (encode i) = .ok i := by
  cases i
  case aluAdd | aluSub | aluAnd | aluOr | aluXor | aluSll | aluSrl | aluSra | aluSlt | aluSltu | aluMin | aluMax |
      aluMinu | aluMaxu | aluMul | aluMulh | aluMulhu | aluDiv | aluDivu | aluRem | aluRemu | waitLoc | tlbinv | sbind |
      swait | scfg | talloc | tfill | tdrain | twait | mload | dsync | rinit | rawait | ginit | gwait | ckick |
      lpatch | larm | nbdot | nbwait =>
    change decodeWords [encR _ _ _ _ _ _ _] = _
    simp [decAlu, decSys, decTlb, decStream, decTile, decMatrix, decDerived, decRing, decGate, decCopy, decLaunch,
      decNear, decR3]
  case clz | ctz | popc | tlbinva | tlbsync | join | leave | sbar | smark | tfree | tstat | mbind | mzero | mnorm |
      mhead | dreb | ddrop | dstat | rrel | rpeek | garr | cstat | cstop | lstat | kscan | jrnl | disp | chold |
      crel =>
    change decodeWords [encR _ _ _ _ _ _ _] = _
    simp [decAlu, decTlb, decSet, decStream, decTile, decMatrix, decDerived, decRing, decGate, decCopy, decLaunch,
      decLodge, decR2]
  case eret | brk | exitThread | nop | cbar =>
    change decodeWords [encR _ _ _ _ _ _ _] = _
    simp [decSys, decStream, decR0]
  case trap | rpt =>
    change decodeWords [encR _ _ _ _ _ _ _] = _
    simp [decSys, decClause]
  case trapImm | rptImm =>
    change decodeWords [encR _ _ _ _ _ _ _, _] = _
    simp [decSys, decClause]
  case when c _ _ =>
    change decodeWords [encR _ _ _ _ _ _ _] = _
    cases c <;> simp [decClause, Cond.code]
  case icinv =>
    change decodeWords [encR _ _ _ _ _ _ _] = _
    simp [decSys]
  case mread =>
    change decodeWords [encR 44#6 _ _ _ _ _ 0#2] = _
    rw [decodeWords_matrix, decMatrix, encR_fSub]
    simp only [encR_twoBitsZero, encR_firstOfTwoBits, encR_secondOfTwoBits, encR_fLen, encR_fRd, encR_fRs1, encR_fRs2]
    rfl
  case sclose | gexp =>
    change decodeWords [encR _ _ _ _ _ _ _] = _
    simp [decStream, decGate]
  case drd =>
    change decodeWords [encR _ _ _ _ _ _ _] = _
    simpa [decDerived, decPair] using (show Reg.even _ = true from hwf)
  case ddecl | scrub =>
    change decodeWords [encR _ _ _ _ _ _ _] = _
    simpa [decDerived, decLodge, decPair, decR2] using (show Reg.even _ = true from hwf)
  case hbeat =>
    change decodeWords [encR _ _ _ _ _ _ _] = _
    simp [decLodge, decR2]
  case amoAdd | amoAnd | amoOr | amoXor | amoMin | amoMax | amoMinu | amoMaxu | amoSwap =>
    change decodeWords [encAmo _ _ _ _ _ _ _] = _
    rw [decodeWords_amo, decAmoGroup, encAmo_fSub, encAmo_fLen]
    exact decAmo_encAmo _ _ _ _ _ _ _ _ hwf
  case amoCas | amoFadd =>
    change decodeWords [encAmo _ _ _ _ _ _ _] = _
    rw [decodeWords_amo, decAmoGroup, encAmo_fSub, encAmo_fLen]
    simp only [encAmo_ret, encAmo_dw, encAmo_order, encAmo_fRd, encAmo_fRs1, encAmo_fRs2]
    rfl
  case addi | andi | ori | xori | slti | ldb | ldbu | ldh | ldhu | ldw | ldwu | ldd | stb | sth | stw | std =>
    change decodeWords [encI _ _ _ _ _] = _
    rw [decodeWords_one _ (encI_fLen ..), decode, encI_fMaj, encI_fLen, if_neg (by decide), if_neg (by decide)]
    exact decI_short ..
  case addiExt | andiExt | oriExt | xoriExt | sltiExt | ldbExt | ldbuExt | ldhExt | ldhuExt | ldwExt | ldwuExt |
      lddExt | stbExt | sthExt | stwExt | stdExt =>
    change decodeWords (encI _ _ _ 0 _ :: _) = _
    rw [decodeWords_ext _ _ (encI_fLen ..), decode, encI_fMaj, encI_fLen, if_neg (by decide), if_neg (Ext.lenField_ne _)]
    exact decI_long ..
  case beq | bne | blt | bge | bltu | bgeu | jalr =>
    change decodeWords [encI _ _ _ _ _] = _
    rw [decodeWords_one _ (encI_fLen ..), decode, encI_fMaj, encI_fLen, if_neg (by decide), if_neg (by decide)]
    exact decB_short ..
  case beqExt | bneExt | bltExt | bgeExt | bltuExt | bgeuExt | jalrExt =>
    change decodeWords [encI _ _ _ _ _, _] = _
    rw [decodeWords_two _ _ (encI_fLen ..), decode, encI_fMaj, encI_fLen, if_neg (by decide), if_neg (by decide)]
    exact decB_long ..
  case ldq | stq =>
    change decodeWords [encQ _ _ _ _ _ _] = _
    rw [decodeWords_one _ (encQ_fLen ..), decode, encQ_fMaj, encQ_fLen, if_neg (by decide), if_neg (by decide)]
    exact decQ_short _ _ _ _ _ _ _ _ _ hwf
  case ldqExt | stqExt =>
    change decodeWords (encQ _ _ _ 0 _ _ :: _) = _
    rw [decodeWords_ext _ _ (encQ_fLen ..), decode, encQ_fMaj, encQ_fLen, if_neg (by decide), if_neg (Ext.lenField_ne _)]
    exact decQ_long _ _ _ _ _ _ _ hwf
  case tld | tst =>
    change decodeWords [encT _ _ _ _ _ _] = _
    rw [decodeWords_one _ (encT_fLen ..), decode, encT_fMaj, encT_fLen, if_neg (by decide), if_neg (by decide)]
    exact decT_short ..
  case tldExt | tstExt =>
    change decodeWords [encT _ _ _ _ _ _, _] = _
    rw [decodeWords_two _ _ (encT_fLen ..), decode, encT_fMaj, encT_fLen, if_neg (by decide), if_neg (by decide)]
    exact decT_long ..
  case jmp | jal =>
    change decodeWords [encJ _ _ _] = _
    rw [decodeWords_one _ (encJ_fLen ..), decode, encJ_fMaj, encJ_fLen, if_neg (by decide), if_neg (by decide)]
    simp only [encJ_off]
    rfl
  case csrr | csrw | csrs | csrc =>
    change decodeWords [encI _ _ _ _ _] = _
    rw [decodeWords_one _ (encI_fLen ..), decode, encI_fMaj, encI_fLen, if_neg (by decide), if_neg (by decide)]
    simp only [encI_csrNumber, encI_fRd, encI_fRs1]
    exact decCsr_encI ..
  case slli | srli | srai =>
    change decodeWords [encI _ _ _ _ _] = _
    rw [decodeWords_one _ (encI_fLen ..), decode, encI_fMaj, encI_fLen, if_neg (by decide), if_neg (by decide)]
    change decShi _ = _
    simp only [decShi, encI_shiftKind, encI_shiftZero, encI_shiftAmount, encI_fLen, encI_fRd, encI_fRs1]
    rfl
  case fence =>
    change decodeWords [encI _ _ _ _ _] = _
    rw [decodeWords_one _ (encI_fLen ..), decode, encI_fMaj, encI_fLen, if_neg (by decide), if_neg (by decide)]
    exact decFence_encI ..
  -- What remains are events, which no words encode.
  all_goals cases hc

end Sys2Proof

namespace Sys2Proof.Machine

open Sys2Proof.Claim

/-! Traps of the issuing context (R335). -/

/-- What an exception saves of the clause, and the carve-out it leaves. -/
theorem takeTrap_saved (s : State) (a : Agent) (cause : Nat) (epc fbyte faddr einfo : Word) :
    let c := s.ctxOf a
    let d := (takeTrap s a cause epc fbyte faddr einfo).ctxOf a
    d.clrem = (if c.cl.kind = .rpt then c.cl.rem else 0) ∧
    d.clhdr = (if c.cl.kind = .none then 0 else c.cl.hdrw.zeroExtend 64) ∧
    d.carveMem = c.carveMem := by
  unfold takeTrap
  dsimp only
  split <;> simp

/-- The issuing context's exceptions enter privilege S on a thread and L elsewhere. -/
theorem takeTrap_priv (s : State) (cause : Nat) (epc fbyte faddr einfo : Word) :
    ((takeTrap s s.cur cause epc fbyte faddr einfo).ctxOf s.cur).priv = if s.isThread then .s else .l := by
  unfold takeTrap State.isThread
  generalize s.cur = a
  cases a <;> dsimp only <;> split <;> simp

/-- After a trap of the issuing context that context still issues. -/
theorem trapHere_ctxOf (s : State) (cause : Nat) (faddr einfo : Word) :
    (trapHere s cause faddr einfo).ctx = (trapHere s cause faddr einfo).ctxOf s.cur := by
  have hcur : (trapHere s cause faddr einfo).cur = s.cur := by
    unfold trapHere
    rw [takeTrap_only]
    exact State.setCtxOf_cur ..
  rw [State.ctx, hcur]

/-- A trap at the current instruction is TakeTrap's, and RETIRED stands. -/
theorem trapHere_trapped (s : State) (cause : Nat) (faddr einfo : Word) :
    Trapped s (trapHere s cause faddr einfo) cause (s.ctx.pc &&& ~~~3#64) faddr einfo := by
  have hctx := trapHere_ctxOf s cause faddr einfo
  obtain ⟨hepc, hfbyte, hcause, hfaddr, heinfo, hclause, hpp, hpc, hregs, hretired, hcl, hst⟩ :=
    takeTrap_ctx s s.cur cause s.ctx.pc s.ctx.pc faddr einfo
  obtain ⟨hclrem, hclhdr, hcarve⟩ := takeTrap_saved s s.cur cause s.ctx.pc s.ctx.pc faddr einfo
  have hpriv := takeTrap_priv s cause s.ctx.pc s.ctx.pc faddr einfo
  refine ⟨⟨(trapHere_ctx s cause faddr einfo).1, ?_⟩, ?_⟩
  · rw [hctx]
    exact ⟨hepc, hfbyte, hcause, hfaddr, heinfo, hclause, hclrem, hclhdr, hpp, hpriv, hpc, hregs, hcl, hcarve, hst⟩
  · rw [hctx]
    exact hretired

/-- A trap with the first word in EINFO, written as a number. -/
theorem trapHere_word (s : State) (cause : Nat) (faddr : Word) (w : BitVec 32) :
    Trapped s (trapHere s cause faddr (w.zeroExtend 64)) cause (s.ctx.pc &&& ~~~3#64) faddr (BitVec.ofNat 64 w.toNat) := by
  rw [BitVec.ofNat_toNat]
  exact trapHere_trapped ..

/-- An aligned address has its two low bits clear. -/
theorem and_not_three_of_aligned (a : Word) (h : a.toNat % 4 = 0) : a &&& ~~~3#64 = a := by
  have hlow : a &&& 3#64 = 0#64 := by
    apply BitVec.eq_of_toNat_eq
    have hmask : a.toNat &&& (2 ^ 2 - 1) = a.toNat % 2 ^ 2 := Nat.and_two_pow_sub_one_eq_mod ..
    simpa [h] using hmask
  calc a &&& ~~~3#64 = (a &&& ~~~3#64) ||| (a &&& 3#64) := by rw [hlow, BitVec.or_zero]
    _ = a := by rw [← BitVec.and_or_distrib_left, BitVec.or_comm, BitVec.or_not_self, BitVec.and_allOnes]

/-! Fetching at hand words (R18, R19). -/

/-- A party with nothing outstanding over the links reaches a line homed here at once. -/
theorem lineReach_local (s : State) (h : Holder) (spa : Nat) (hl : s.isLocal spa = true)
    (hr : ∀ r ∈ s.remotes, r.party ≠ h) : lineReach s h spa = (.here, s) := by
  have hline : s.isLocal (spa / 64 * 64) = true := by
    have hpkg : pkgOf (spa / 64 * 64) = pkgOf spa := by
      simp only [pkgOf, Nat.shiftRight_eq_div_pow]
      omega
    simpa only [State.isLocal, hpkg] using hl
  have hend : endReach s h = s := by
    have hkeep : s.remotes.filter (fun r => !(r.party == h && r.st != .sent)) = s.remotes :=
      List.filter_eq_self.mpr fun r hmem => by simp [hr r hmem]
    simp only [endReach, hkeep]
  simp only [lineReach, reach, hline, if_true, hend]

/-- A translation that is cached and neither refused nor awaited answers and changes nothing. -/
theorem translate_cached (s : State) (h : Holder) (role v asid : Nat) (u : Bool) (va : Word) (kind : AccKind) (x : Xlat)
    (hva : va.toNat < 2 ^ 56) (hf : s.fatalAnswer h (va.toNat / 4096) kind = none)
    (hw : s.waitsFor h (va.toNat / 4096) kind = false)
    (hx : (s.xlats.find? fun x => x.covers (xlatHolder h) role v asid u va.toNat kind) = some x) :
    translate s h role v asid u va kind = (.ok (x.spa + (va.toNat - x.page)), s) := by
  simp only [translate, ge_iff_le, Nat.not_le.mpr hva, if_false, hf, hw, hx, Bool.false_eq_true]

/-- The word at hand is what a thread fetches, with no other effect. -/
theorem threadFetch_codeWord (s : State) (t : Nat) (a : Word) (w : BitVec 32) (hcur : s.cur = .thread t)
    (h : codeWord s a = some w) : threadFetch s t a = (.ok w, s) := by
  have hctx : s.thread t = s.ctx := by rw [State.ctx, hcur]; rfl
  simp only [codeWord, hcur] at h
  split at h
  · cases h
  · rename_i hok
    obtain ⟨hva, hfatal, hwait⟩ : a.toNat < 2 ^ 56 ∧ s.fatalAnswer (.thread t) (a.toNat / 4096) .fetch = none ∧
        s.waitsFor (.thread t) (a.toNat / 4096) .fetch = false := by
      simpa [not_or] using hok
    obtain ⟨x, hx, hline⟩ := Option.bind_eq_some_iff.mp h
    obtain ⟨l, hl, rfl⟩ := Option.map_eq_some_iff.mp hline
    simp only [threadFetch, hctx]
    rw [translate_cached s _ _ _ _ _ _ _ x hva hfatal hwait hx]
    simp only [hl, ILine.word]

/-- The word at hand is what the issuing context fetches, with no other effect. -/
theorem fetchWord_codeWord (s : State) (a : Word) (w : BitVec 32) (hf : Fetches s) (h : codeWord s a = some w) :
    fetchWord s s.cur a = (.ok w, s) := by
  obtain ⟨-, -, -, -, hunit⟩ := hf
  cases hcur : s.cur with
  | thread t => exact threadFetch_codeWord s t a w hcur h
  | lodge k =>
    simp only [codeWord, hcur] at h
    split at h
    · rename_i hin
      simp only [fetchWord, if_pos hin]
      rw [Option.some.inj h]
    · cases h
  | assist p =>
    simp only [codeWord, hcur] at h
    simp only [hcur] at hunit
    split at h
    · rename_i hmem
      obtain ⟨hmaps, hlocal, hgood⟩ := hmem
      simp only [fetchWord, hmaps, hgood, lineReach_local s _ _ hlocal hunit.2.2]
      rw [← Option.some.inj h]
      rfl
    · cases h

/-- The words at hand from the pc are the instruction's: the extension words are fetched with no other effect, and decoding
the list is decoding its first word with them. -/
theorem fetchExt_codeAt (s : State) (pc : Word) (ws : List (BitVec 32)) (hf : Fetches s) (h : CodeAt s pc ws) :
    codeWord s pc = some (ws.headD 0) ∧ ws.length = 1 + fLen (ws.headD 0) ∧
    ∃ e0 e1, fetchExt s s.cur pc (fLen (ws.headD 0)) = (.ok e0 e1, s) ∧ decodeWords ws = decode (ws.headD 0) e0 e1 := by
  match ws, h with
  | [w], ⟨hw, hl⟩ =>
    refine ⟨hw, ?_, 0, 0, ?_, ?_⟩
    · simp [hl]
    · simp [fetchExt, hl]
    · simp [decodeWords, hl]
  | [w, e0], ⟨hw, h0, hl⟩ =>
    have hfirst : fetchWord s s.cur (pc + 4#64) = (.ok e0, s) := fetchWord_codeWord s _ e0 hf h0
    refine ⟨hw, ?_, e0, 0, ?_, ?_⟩
    · simp [hl]
    · simp [fetchExt, hl, hfirst]
    · simp [decodeWords, hl]
  | [w, e0, e1], ⟨hw, h0, h1, hl⟩ =>
    have hfirst : fetchWord s s.cur (pc + 4#64) = (.ok e0, s) := fetchWord_codeWord s _ e0 hf h0
    have hsecond : fetchWord s s.cur (pc + 8#64) = (.ok e1, s) := fetchWord_codeWord s _ e1 hf h1
    refine ⟨hw, ?_, e0, e1, ?_, ?_⟩
    · simp [hl]
    · simp [fetchExt, hl, hfirst, hsecond]
    · simp [decodeWords, hl]

/-- Words at hand whose first has a length are judged at their position (R18, R85). -/
theorem fetchFresh_codeAt (s : State) (ws : List (BitVec 32)) (hf : Fetches s) (h : CodeAt s s.ctx.pc ws) :
    ∃ e0 e1, decodeWords ws = decode (ws.headD 0) e0 e1 ∧
      fetchFresh s = if hasLength (ws.headD 0) then judge s (ws.headD 0) e0 e1 else .run (.illegal (ws.headD 0)) s := by
  obtain ⟨hw, -, e0, e1, hext, hdec⟩ := fetchExt_codeAt s _ ws hf h
  refine ⟨e0, e1, hdec, ?_⟩
  simp only [fetchFresh, fetchWord_codeWord s _ _ hf hw, hext]
  cases hasLength (ws.headD 0) <;> rfl

/-- A word without a length is no instruction (R18). -/
theorem decode_noLength (w e0 e1 : BitVec 32) (h : hasLength w = false) : ∃ e, decode w e0 e1 = .error e := by
  by_cases hm : fMaj w = 0 ∨ 0x34 ≤ fMaj w
  · exact ⟨.noMajor, by rw [decode, if_pos hm]⟩
  · have hl : fLen w = 3 := Decidable.byContradiction fun hne => by
      have hlength : hasLength w = true := by
        simp only [hasLength, Bool.and_eq_true, bne_iff_ne, decide_eq_true_eq]
        omega
      rw [hlength] at h
      cases h
    exact ⟨.lenThree, by rw [decode, if_neg hm, if_pos hl]⟩

/-! Which instruction issues. -/

/-- A context that runs or waits, is not halted and waits for no page is live. -/
theorem live_cur (s : State) (hh : s.ctx.halted = false) (hst : s.ctx.st = .running ∨ s.ctx.st = .waiting)
    (hp : ∀ t, s.cur = .thread t → s.waitsPage (.thread t) = false) : s.live s.cur = true := by
  unfold State.live
  rw [State.ctxOf_cur]
  simp only [hh, Bool.not_false, Bool.true_and, Bool.and_eq_true, Bool.or_eq_true, beq_iff_eq]
  refine ⟨hst, ?_⟩
  cases hc : s.cur with
  | thread t => simp [hp t hc]
  | lodge k => rfl
  | assist p => rfl

/-- A plot's core runs in a cycle that is not withheld, while its plot is resident. -/
theorem plotCore_runs (s : State) (p : Nat) (hw : s.cycle ∉ (s.plot p).withheld) (hr : (s.plot p).resident = true) :
    (!s.withheldNow p && (s.plot p).resident) = true := by
  simp [State.withheldNow, hw, hr]

/-- A context that fetches is live on a core in service. -/
theorem fetches_goes (s : State) (hf : Fetches s) : s.live s.cur = true ∧ s.coreRuns s.cur = true := by
  obtain ⟨-, hh, hst, -, hunit⟩ := hf
  refine ⟨live_cur s hh (.inl hst) fun t hc => ?_, ?_⟩
  · rw [hc] at hunit
    exact hunit.2.2
  · cases hc : s.cur with
    | thread t => rw [hc] at hunit; exact plotCore_runs s (t / 8) hunit.1 hunit.2.1
    | lodge k => rw [hc] at hunit; simp [State.coreRuns, hunit]
    | assist p => rw [hc] at hunit; exact plotCore_runs s p hunit.1 hunit.2.1

theorem fetchNext_fetches (s : State) (hf : Fetches s) : fetchNext s = fetchFresh s := by
  obtain ⟨hl, hr⟩ := fetches_goes s hf
  obtain ⟨-, -, -, hw, -⟩ := hf
  simp only [fetchNext, hl, hr, Bool.and_self, if_true, hw]

/-- A live waiting context on a core in service tries its instruction again (R74). -/
theorem fetchNext_waiting (s : State) (w : Waiting) (hl : s.live s.cur = true) (hr : s.coreRuns s.cur = true)
    (hw : s.ctx.wait = some w) : fetchNext s = .run w.instr s := by
  simp only [fetchNext, hl, hr, Bool.and_self, if_true, hw]

/-- An instruction found runs in the next cycle (log 1). -/
theorem step_run (s : State) (i : Instr) (ha : s.agenda = []) (h : fetchNext s = .run i s) :
    step s = exec i (ticked s) := by
  simp only [step, ha, issue, h]
  rfl

theorem step_skipped (s t : State) (ha : s.agenda = []) (h : fetchNext s = .skipped t) : step s = .next t := by
  simp only [step, ha, issue, h]

theorem step_rest (s : State) (ha : s.agenda = []) (h : fetchNext s = .rest s) : step s = .next (ticked s) := by
  simp only [step, ha, issue, h]
  rfl

/-! Judging words at their position (R85-R87). -/

theorem Clause.skips_iff (c : Clause) : c.skips = true ↔ c.kind = .whenSkip ∨ (c.kind = .rpt ∧ c.rem = 0) := by
  simp [Clause.skips]

section
variable (s : State) (w e0 e1 : BitVec 32)

theorem judge_ungovernable (hk : s.ctx.cl.kind ≠ .none) (hu : ungovernable w = true) :
    judge s w e0 e1 = .run (.illegal w) s := by
  simp [judge, hk, hu]

theorem judge_skips (hu : ungovernable w = false) (hs : s.ctx.cl.skips = true) :
    judge s w e0 e1 = .skipped (s.setCtx (s.ctx.advance (4 + 4 * fLen w))) := by
  simp [judge, hu, hs]

/-- At a position that neither forbids nor skips it, a decoded instruction runs. -/
theorem judge_ok (hg : s.ctx.cl.kind = .none ∨ ungovernable w = false) (hs : s.ctx.cl.skips = false) (i : Instr)
    (hd : decode w e0 e1 = .ok i) : judge s w e0 e1 = .run i s := by
  rcases hg with hk | hu
  · simp [judge, hk, hs, hd]
  · simp [judge, hu, hs, hd]

/-- Words that are no instruction run ILLEGAL there. -/
theorem judge_error (hg : s.ctx.cl.kind = .none ∨ ungovernable w = false) (hs : s.ctx.cl.skips = false)
    (e : DecodeError) (hd : decode w e0 e1 = .error e) : judge s w e0 e1 = .run (.illegal w) s := by
  rcases hg with hk | hu
  · simp [judge, hk, hs, hd]
  · simp [judge, hu, hs, hd]

end

/-- Outside a clause nothing is skipped. -/
theorem Clause.skips_none (c : Clause) (h : c.kind = .none) : c.skips = false := by simp [Clause.skips, h]

/-- Passing an instruction's bytes completes it (R86, R87), seen from a context whose RETIRED is one lower. -/
theorem advance_completed (c : Ctx) (n : Word) (len : Nat) (h : c.retired = n + 1) :
    Completed { c with retired := n } (c.advance len) len := by
  refine ⟨by rw [Ctx.advance_retired, h], Ctx.advance_straight c len, ?_, ?_, ?_⟩
  all_goals
    intro hk
    simp only [Ctx.advance, hk, if_false]
  · intro hmore
    simp [Nat.lt_of_not_le hmore]
  · intro hlast hagain
    simp [Nat.not_lt.mpr hlast, hagain]
  · intro hlast hend
    simp [Nat.not_lt.mpr hlast, hend]

/-! What a step does. -/

/-- The instructions at hand, as a clause has it (R15, R18, R85-R87). -/
theorem step_fetches (s : State) (ws : List (BitVec 32)) (hf : Fetches s) (h : CodeAt s s.ctx.pc ws) :
    let w := ws.headD 0
    let cl := s.ctx.cl
    let skips := cl.kind = .whenSkip ∨ (cl.kind = .rpt ∧ cl.rem = 0)
    (cl.kind ≠ .none → ungovernable w = true → hasLength w = true → step s = exec (.illegal w) (ticked s)) ∧
    (cl.kind ≠ .none → ungovernable w = false → skips → hasLength w = true → ∃ t, step s = .next t ∧ SameElse s t ∧
      Completed { s.ctx with retired := t.ctx.retired - 1 } t.ctx (4 * ws.length) ∧ t.ctx.retired = s.ctx.retired ∧
      t.ctx.regs = s.ctx.regs) ∧
    ((cl.kind = .none ∨ (ungovernable w = false ∧ ¬ skips)) →
      (∀ i, decodeWords ws = .ok i → step s = exec i (ticked s)) ∧
      (∀ e, decodeWords ws = .error e → step s = exec (.illegal w) (ticked s))) := by
  intro w cl skips
  obtain ⟨e0, e1, hdec, hfetch⟩ := fetchFresh_codeAt s ws hf h
  have hlen : ws.length = 1 + fLen w := (fetchExt_codeAt s _ ws hf h).2.1
  have hnext : fetchNext s = if hasLength w then judge s w e0 e1 else .run (.illegal w) s :=
    (fetchNext_fetches s hf).trans hfetch
  have hagenda : s.agenda = [] := hf.1
  refine ⟨fun hk hu hl => ?_, fun hk hu hs hl => ?_, fun hg => ?_⟩
  · refine step_run s _ hagenda ?_
    rw [hnext, hl, if_pos rfl, judge_ungovernable s w e0 e1 hk hu]
  · have hskip : fetchNext s = .skipped (s.setCtx (s.ctx.advance (4 + 4 * fLen w))) := by
      rw [hnext, hl, if_pos rfl, judge_skips s w e0 e1 hu ((Clause.skips_iff _).mpr hs)]
    have hbytes : 4 + 4 * fLen w = 4 * ws.length := by rw [hlen]; omega
    refine ⟨_, step_skipped s _ hagenda hskip, ?_, ?_, ?_, ?_⟩
    · simp [SameElse]
    · rw [State.ctx_setCtx, hbytes, Ctx.advance_retired]
      exact advance_completed s.ctx _ _ (BitVec.sub_add_cancel s.ctx.retired 1).symm
    · simp
    · simp
  · have hs : s.ctx.cl.skips = false := by
      rcases hg with hk | ⟨-, hno⟩
      · exact Clause.skips_none _ hk
      · exact Bool.eq_false_iff.mpr fun hyes => hno ((Clause.skips_iff _).mp hyes)
    have hpos : cl.kind = .none ∨ ungovernable w = false := hg.imp id And.left
    rw [hdec]
    refine ⟨fun i hi => step_run s _ hagenda ?_, fun e he => step_run s _ hagenda ?_⟩
    · cases hl : hasLength w with
      | true => rw [hnext, hl, if_pos rfl, judge_ok s w e0 e1 hpos hs i hi]
      | false =>
        obtain ⟨e, he⟩ := decode_noLength w e0 e1 hl
        cases hi.symm.trans he
    · cases hl : hasLength w with
      | true => rw [hnext, hl, if_pos rfl, judge_error s w e0 e1 hpos hs e he]
      | false => rw [hnext, hl]; rfl

/-- A waiting context tries its instruction again, on a core in service (R74). -/
theorem step_waiting (s : State) (w : Sys2Proof.Machine.Waiting) (ha : s.agenda = []) (hh : s.ctx.halted = false)
    (hst : s.ctx.st = .running ∨ s.ctx.st = .waiting) (hw : s.ctx.wait = some w)
    (hp : ∀ t, s.cur = .thread t → s.waitsPage (.thread t) = false) (hr : s.coreRuns s.cur = true) :
    step s = exec w.instr (ticked s) :=
  step_run s _ ha (fetchNext_waiting s w (live_cur s hh hst hp) hr hw)

/-- A halted context issues nothing. -/
theorem step_halted (s : State) (ha : s.agenda = []) (hh : s.ctx.halted = true) : step s = .next (ticked s) := by
  refine step_rest s ha ?_
  have hl : s.live s.cur = false := by simp [State.live, hh]
  simp only [fetchNext, hl, Bool.false_and, Bool.false_eq_true, if_false]

/-- BRK's word at an aligned pc traps with BREAK at its own address, whatever follows it (R342). -/
theorem step_brk (s : State) (hpc : s.ctx.pc.toNat % 4 = 0) (hf : Fetches s) (hk : s.ctx.cl.kind = .none)
    (hw : codeWord s s.ctx.pc = some 0x9C0000C0) :
    ∃ t, step s = .next t ∧ Trapped (ticked s) t 0x08 s.ctx.pc s.ctx.pc 0 := by
  have hdec : decodeWords [0x9C0000C0] = .ok .brk := decodeWords_encode .brk rfl rfl
  have hstep : step s = exec .brk (ticked s) :=
    ((step_fetches s [0x9C0000C0] hf ⟨hw, by decide⟩).2.2 (.inl hk)).1 .brk hdec
  have htrap := trapHere_trapped (ticked s) cBreak (ticked s).ctx.pc 0
  rw [and_not_three_of_aligned (ticked s).ctx.pc hpc] at htrap
  exact ⟨_, hstep, htrap⟩

/-- An instruction that answers a trap at itself. -/
theorem exec_traps (i : Instr) (s : State) (cause : Nat) (faddr einfo : Word)
    (h : exec i s = .next (trapHere s cause faddr einfo)) :
    ∃ t, exec i s = .next t ∧ Trapped s t cause (s.ctx.pc &&& ~~~3#64) faddr einfo :=
  ⟨_, h, trapHere_trapped ..⟩

/-! Addresses as the claims write them (R17, R24). -/

theorem value_extValue (e : Ext) : e.value = extValue e := by
  cases e with
  | one e0 => rfl
  | two e0 e1 =>
    apply BitVec.eq_of_toNat_eq
    have h0 := e0.isLt
    have h1 := e1.isLt
    simp only [Ext.value, extValue, BitVec.toNat_append, BitVec.toNat_ofNat]
    rw [← Nat.shiftLeft_add_eq_or_of_lt h0, Nat.shiftLeft_eq, Nat.mod_eq_of_lt (by omega), Nat.add_comm]

theorem addrI_offAddr (s : State) (rb : Reg) (i : Imm14) : addrI s rb i = offAddr s rb i.toInt := rfl

theorem addrE_extValue (s : State) (rb : Reg) (e : Ext) : addrE s rb e = s.g rb + extValue e := by
  rw [addrE, value_extValue]

theorem addrQ_offAddr (s : State) (rb : Reg) (off : BitVec 13) : addrQ s rb off = offAddr s rb (16 * off.toInt) := by
  have hoff : BitVec.ofInt 64 (16 * off.toInt) = off.signExtend 64 * 16 := by
    rw [BitVec.ofInt_mul, BitVec.mul_comm]
    rfl
  rw [addrQ, offAddr, hoff]

theorem aligned_eq_false (a : Word) (n : Nat) : aligned a n = false ↔ a.toNat % n ≠ 0 := by
  simp [aligned]

/-! Misaligned accesses trap before anything else (R167). -/

section
variable (s : State) (i : Instr) (r : Reg) (a : Word)

theorem loadOp_misaligned (n : Nat) (mk : List Byte → Word) (len : Nat) (h : a.toNat % n ≠ 0) :
    loadOp s i r a n mk len = .next (trapHere s cMisalign a (missInfo i)) := by
  simp [loadOp, (aligned_eq_false a n).mpr h]

theorem storeOp_misaligned (n len : Nat) (h : a.toNat % n ≠ 0) :
    storeOp s i r a n len = .next (trapHere s cMisalign a (missInfo i)) := by
  simp [storeOp, (aligned_eq_false a n).mpr h]

theorem loadQuad_misaligned (len : Nat) (h : a.toNat % 16 ≠ 0) :
    loadQuad s i r a len = .next (trapHere s cMisalign a (missInfo i)) := by
  simp [loadQuad, (aligned_eq_false a 16).mpr h]

theorem storeQuad_misaligned (es : Bool) (len : Nat) (h : a.toNat % 16 ≠ 0) :
    storeQuad s i r a es len = .next (trapHere s cMisalign a (missInfo i)) := by
  simp [storeQuad, (aligned_eq_false a 16).mpr h]

theorem waitLoc_misaligned (r1 r2 : Reg) (h : (s.g r1).toNat % 8 ≠ 0) :
    execWaitLoc r r1 r2 s = .next (trapHere s cMisalign (s.g r1) (missInfo (.waitLoc r r1 r2))) := by
  simp [execWaitLoc, (aligned_eq_false (s.g r1) 8).mpr h]

theorem jumpReg_misaligned (len : Nat) (h : a.toNat % 4 ≠ 0) :
    jumpReg s r a len = .next (trapHere s cMisalign a 0) := by
  simp [jumpReg, h]

end

/-! The tables of the claims and the operations behind them. -/

/-- Each load is one operation of its size, in both lengths. -/
theorem loadTable_exec : ∀ op ∈ loadTable, ∃ mk, ∀ (rd rb : Reg) (i : Imm14) (e : Ext) (s : State),
    exec (op.1 rd rb i) s = loadOp s (op.1 rd rb i) rd (addrI s rb i) op.2.2.1 mk 4 ∧
    exec (op.2.1 rd rb e) s = loadOp s (op.2.1 rd rb e) rd (addrE s rb e) op.2.2.1 mk (extLen e) := by
  simp only [loadTable, List.mem_cons, List.not_mem_nil, or_false, forall_eq_or_imp, forall_eq]
  exact ⟨⟨_, fun _ _ _ _ _ => ⟨rfl, rfl⟩⟩, ⟨_, fun _ _ _ _ _ => ⟨rfl, rfl⟩⟩, ⟨_, fun _ _ _ _ _ => ⟨rfl, rfl⟩⟩,
    ⟨_, fun _ _ _ _ _ => ⟨rfl, rfl⟩⟩, ⟨_, fun _ _ _ _ _ => ⟨rfl, rfl⟩⟩, ⟨_, fun _ _ _ _ _ => ⟨rfl, rfl⟩⟩,
    ⟨_, fun _ _ _ _ _ => ⟨rfl, rfl⟩⟩⟩

/-- Each store is one operation of its size, in both lengths. -/
theorem storeTable_exec : ∀ op ∈ storeTable, ∀ (rs rb : Reg) (i : Imm14) (e : Ext) (s : State),
    exec (op.1 rs rb i) s = storeOp s (op.1 rs rb i) rs (addrI s rb i) op.2.2 4 ∧
    exec (op.2.1 rs rb e) s = storeOp s (op.2.1 rs rb e) rs (addrE s rb e) op.2.2 (extLen e) := by
  simp only [storeTable, List.mem_cons, List.not_mem_nil, or_false, forall_eq_or_imp, forall_eq]
  exact ⟨fun _ _ _ _ _ => ⟨rfl, rfl⟩, fun _ _ _ _ _ => ⟨rfl, rfl⟩, fun _ _ _ _ _ => ⟨rfl, rfl⟩,
    fun _ _ _ _ _ => ⟨rfl, rfl⟩⟩

/-- Each atomic operation of the table is `amoRun` with a code of its own. -/
theorem amoTable_exec : ∀ op ∈ amoTable, ∃ code, ∀ (rd rs1 rs2 : Reg) (ret dw : Bool) (ord : AmoOrder) (s : State),
    exec (op.1 rd rs1 rs2 ret dw ord) s = amoRun s (op.1 rd rs1 rs2 ret dw ord) code rd rs1 rs2 ret dw ord := by
  simp only [amoTable, List.mem_cons, List.not_mem_nil, or_false, forall_eq_or_imp, forall_eq]
  exact ⟨⟨_, fun _ _ _ _ _ _ _ => rfl⟩, ⟨_, fun _ _ _ _ _ _ _ => rfl⟩, ⟨_, fun _ _ _ _ _ _ _ => rfl⟩,
    ⟨_, fun _ _ _ _ _ _ _ => rfl⟩, ⟨_, fun _ _ _ _ _ _ _ => rfl⟩, ⟨_, fun _ _ _ _ _ _ _ => rfl⟩,
    ⟨_, fun _ _ _ _ _ _ _ => rfl⟩, ⟨_, fun _ _ _ _ _ _ _ => rfl⟩, ⟨_, fun _ _ _ _ _ _ _ => rfl⟩⟩

/-! Atomic operations in a reproducible launch (R175). -/

theorem repro_of_inRepro (s : State) (h : inRepro s) : s.repro = true := by
  obtain ⟨k, hc, hflag⟩ := h
  simp [State.repro, State.isThread, hc, State.isRepro, hflag]

theorem amoRun_repro (s : State) (i : Instr) (op : Nat) (rd rs1 rs2 : Reg) (dw : Bool) (ord : AmoOrder)
    (hr : inRepro s) (ha : (s.g rs1).toNat % (if dw then 8 else 4) = 0) (hva : (s.g rs1).toNat < 2 ^ 56) :
    amoRun s i op rd rs1 rs2 true dw ord = .next (trapHere s cRepro 0 0) := by
  have haligned : aligned (s.g rs1) (amoSize dw) = true := by simp [aligned, amoSize, ha]
  simp only [amoRun, haligned, repro_of_inRepro s hr, Nat.not_le.mpr hva, Bool.not_true, Bool.false_eq_true, and_false,
    and_self, if_false, if_true]

/-! Tile accesses that their tile refuses (R172). -/

section
variable (s : State) (i : Instr) (h : BitVec 8) (off : Word) (n cause : Nat) (k : Out)

theorem tileCheck_offThread (ht : s.isThread = false) :
    tileCheck s i h off n cause k = .next (trapHere s cTile 0 (tileInfo h 0 i)) := by
  simp [tileCheck, ht]

theorem tileCheck_vacant (ht : s.isThread = true)
    (hst : (s.tile s.curPlot h.toNat).st = .free ∨ (s.tile s.curPlot h.toNat).st = .empty) :
    tileCheck s i h off n cause k = .next (trapHere s cTile 0 (tileInfo h (s.tile s.curPlot h.toNat).st.code i)) := by
  rcases hst with hst | hst <;> simp [tileCheck, ht, hst]

theorem tileCheck_misaligned (ht : s.isThread = true) (hst : (s.tile s.curPlot h.toNat).st = .ready)
    (ho : off.toNat % n ≠ 0) :
    tileCheck s i h off n cause k = .next (trapHere s cMisalign off (tileInfo h 3 i)) := by
  simp [tileCheck, ht, hst, (aligned_eq_false off n).mpr ho, TileSt.code]

theorem tileCheck_beyond (ht : s.isThread = true) (hst : (s.tile s.curPlot h.toNat).st = .ready)
    (ho : off.toNat % n = 0) (hsize : (s.tile s.curPlot h.toNat).size < off.toNat + n) :
    tileCheck s i h off n cause k = .next (trapHere s cause off (tileInfo h 3 i)) := by
  simp [tileCheck, ht, hst, aligned, ho, hsize, TileSt.code]

end

/-! System registers that refuse an access (R18, R28, R79). -/

/-- The four instructions on a system register are one operation. -/
theorem csrForms_exec (rd a : Reg) (n : BitVec 11) (s : State) :
    ∀ f ∈ csrForms rd a n s, exec f.1 s = csrOp s f.1 rd n.toNat f.2 := by
  simp only [csrForms, List.mem_cons, List.not_mem_nil, or_false, forall_eq_or_imp, forall_eq]
  exact ⟨rfl, rfl, rfl, rfl⟩

/-- No number that a chapter assigns is unassigned. -/
theorem csrRows_assigned :
    ∀ r ∈ csrRowsA ++ csrRowsB ++ csrRowsC, ∀ k, k < r.hi + 1 - r.lo → unassigned (r.lo + k) = false := by
  decide +kernel

theorem csrRow_unassigned (n : Nat) (h : unassigned n = true) : csrRow n = none := by
  refine List.find?_eq_none.mpr fun r hr hin => ?_
  obtain ⟨hlo, hhi⟩ : r.lo ≤ n ∧ n ≤ r.hi := by simpa using hin
  have hassigned := csrRows_assigned r hr (n - r.lo) (by omega)
  rw [Nat.add_sub_cancel' hlo, h] at hassigned
  cases hassigned

/-- The registers of the claims are those of the machine's tables, with the privileges of reading and writing. -/
theorem csrRow_regs : ∀ r ∈ threadRegs ++ tenantRegs ++ plotRegs ++ unitRegs ++ lodgeRegs ++ assistRegs,
    (csrRow r.n).map (fun c => (c.rd.code, c.wr.map Priv.code)) = some (r.rd, r.wr) := by
  decide +kernel

/-- What the register of a claim refuses. -/
theorem csrRefused_reg (r : RegSpec) (hr : r ∈ threadRegs ++ tenantRegs ++ plotRegs ++ unitRegs ++ lodgeRegs ++ assistRegs)
    (s : State) (w : BitVec 32) :
    (r.wr = none → csrRefused s w r.n true = some (trapIllegal s w)) ∧
    (s.ctx.priv.code < r.rd → csrRefused s w r.n false = some (trapPriv s w)) ∧
    (∀ p, r.wr = some p → s.ctx.priv.code < p → csrRefused s w r.n true = some (trapPriv s w)) := by
  obtain ⟨c, hc, haccess⟩ := Option.map_eq_some_iff.mp (csrRow_regs r hr)
  obtain ⟨hrd, hwr⟩ := Prod.mk.inj haccess
  refine ⟨fun hnone => ?_, fun hlow => ?_, fun p hp hlow => ?_⟩
  · have hro : c.wr = none := by simpa [hnone] using hwr
    simp [csrRefused, hc, hro]
  · rw [← hrd] at hlow
    simp [csrRefused, hc, hlow]
  · obtain ⟨q, hq, rfl⟩ := Option.map_eq_some_iff.mp (hwr.trans hp)
    simp [csrRefused, hc, hq, hlow]

theorem csrOp_refused (s t : State) (i : Instr) (rd : Reg) (n : Nat) (new : Option (Word → Word))
    (h : csrRefused s (firstWord i) n new.isSome = some t) : csrOp s i rd n new = .next t := by
  simp only [csrOp, h]

/-! Privilege (R18). -/

theorem needPriv_traps (s : State) (p : Priv) (i : Instr) (k : Out) (h : exec i s = needPriv s p i k)
    (hp : s.ctx.priv.code < p.code) :
    ∃ t, exec i s = .next t ∧
      Trapped s t 0x06 (s.ctx.pc &&& ~~~3#64) s.ctx.pc (BitVec.ofNat 64 (firstWord i).toNat) :=
  ⟨_, h.trans (needPriv_unmet s p i k hp), trapHere_word ..⟩

/-! The claims of O45. -/

theorem jumpMisaligned : JumpMisaligned := by
  unfold JumpMisaligned
  intro rd a i e s
  exact ⟨fun h => exec_traps _ s _ _ _ (jumpReg_misaligned s rd _ 4 h),
    fun h => exec_traps _ s _ _ _ (jumpReg_misaligned s rd _ 8 h)⟩

theorem misalignedAccess : MisalignedAccess := by
  unfold MisalignedAccess
  intro rd rb r2 i e off es s traps
  have loads : ∀ op ∈ loadTable, traps (op.1 rd rb i) (offAddr s rb i.toInt) op.2.2.1 ∧
      traps (op.2.1 rd rb e) (s.g rb + extValue e) op.2.2.1 := by
    intro op hop
    obtain ⟨mk, hexec⟩ := loadTable_exec op hop
    obtain ⟨hshort, hlong⟩ := hexec rd rb i e s
    rw [addrE_extValue] at hlong
    exact ⟨fun h => exec_traps _ s _ _ _ (hshort.trans (loadOp_misaligned _ _ _ _ _ _ _ h)),
      fun h => exec_traps _ s _ _ _ (hlong.trans (loadOp_misaligned _ _ _ _ _ _ _ h))⟩
  have stores : ∀ op ∈ storeTable, traps (op.1 rd rb i) (offAddr s rb i.toInt) op.2.2 ∧
      traps (op.2.1 rd rb e) (s.g rb + extValue e) op.2.2 := by
    intro op hop
    obtain ⟨hshort, hlong⟩ := storeTable_exec op hop rd rb i e s
    rw [addrE_extValue] at hlong
    exact ⟨fun h => exec_traps _ s _ _ _ (hshort.trans (storeOp_misaligned _ _ _ _ _ _ h)),
      fun h => exec_traps _ s _ _ _ (hlong.trans (storeOp_misaligned _ _ _ _ _ _ h))⟩
  refine ⟨loads, stores, fun h => ?_, fun h => ?_, fun h => ?_, fun h => ?_, fun h => ?_⟩
  · rw [← addrQ_offAddr] at h ⊢
    exact exec_traps _ s _ _ _ (loadQuad_misaligned _ _ _ _ _ h)
  · rw [← addrE_extValue] at h ⊢
    exact exec_traps _ s _ _ _ (loadQuad_misaligned _ _ _ _ _ h)
  · rw [← addrQ_offAddr] at h ⊢
    exact exec_traps _ s _ _ _ (storeQuad_misaligned _ _ _ _ _ _ h)
  · rw [← addrE_extValue] at h ⊢
    exact exec_traps _ s _ _ _ (storeQuad_misaligned _ _ _ _ _ _ h)
  · exact exec_traps _ s _ _ _ (waitLoc_misaligned _ _ _ _ h)

theorem tileAccessTrap : TileAccessTrap := by
  unfold TileAccessTrap
  intro r ro h sz e s x n code traps
  have hbytes : accBytes sz = n := by cases sz <;> rfl
  have refuses (i : Instr) (off : Word) (cause : Nat) (k : Out)
      (hexec : exec i s = tileCheck s i h off (accBytes sz) cause k) : traps i off cause := by
    rw [hbytes] at hexec
    refine ⟨fun ht => ?_, fun ht hst => ?_, fun ht hst ho => ?_, fun ht hst ho hsize => ?_⟩
    · exact exec_traps _ s _ _ _ (hexec.trans (tileCheck_offThread _ _ _ _ _ _ _ ht))
    · have hcode : code x.st = x.st.code := by rcases hst with hst | hst <;> rw [hst] <;> rfl
      rw [hcode]
      exact exec_traps _ s _ _ _ (hexec.trans (tileCheck_vacant _ _ _ _ _ _ _ ht hst))
    · exact exec_traps _ s _ _ _ (hexec.trans (tileCheck_misaligned _ _ _ _ _ _ _ ht hst ho))
    · exact exec_traps _ s _ _ _ (hexec.trans (tileCheck_beyond _ _ _ _ _ _ _ ht hst ho hsize))
  exact ⟨refuses _ _ _ _ rfl, refuses _ _ _ _ rfl, refuses _ _ _ _ rfl, refuses _ _ _ _ rfl⟩

theorem amoRepro : AmoRepro := by
  unfold AmoRepro
  intro op hop rd rs1 rs2 dw ord s hr ha hva
  obtain ⟨code, hexec⟩ := amoTable_exec op hop
  exact ⟨exec_traps _ s _ _ _ ((hexec rd rs1 rs2 true dw ord s).trans (amoRun_repro _ _ _ _ _ _ _ _ hr ha hva)),
    exec_traps _ s _ _ _ (amoRun_repro _ _ _ _ _ _ _ _ hr ha hva)⟩

theorem systemRegisterRefused : SystemRegisterRefused := by
  unfold SystemRegisterRefused
  intro rd a n s f hf traps
  have hexec := csrForms_exec rd a n s f hf
  have illegal (h : csrRefused s (firstWord f.1) n.toNat f.2.isSome = some (trapIllegal s (firstWord f.1))) : traps 0x01 :=
    ⟨_, hexec.trans (csrOp_refused _ _ _ _ _ _ h), trapHere_word ..⟩
  have priv (h : csrRefused s (firstWord f.1) n.toNat f.2.isSome = some (trapPriv s (firstWord f.1))) : traps 0x06 :=
    ⟨_, hexec.trans (csrOp_refused _ _ _ _ _ _ h), trapHere_word ..⟩
  refine ⟨fun hn => illegal ?_, fun r hr hrn => ?_⟩
  · simp only [csrRefused, csrRow_unassigned _ hn]
  · obtain ⟨hreadOnly, hread, hwrite⟩ := csrRefused_reg r hr s (firstWord f.1)
    rw [← hrn] at illegal priv
    refine ⟨fun hw hro => illegal ?_, fun hw hlow => priv ?_, fun p hw hp hlow => priv ?_⟩
    · rw [Option.isSome_iff_ne_none.mpr hw]
      exact hreadOnly hro
    · rw [hw]
      exact hread hlow
    · rw [Option.isSome_iff_ne_none.mpr hw]
      exact hwrite p hp hlow

theorem privilegeTrap : PrivilegeTrap := by
  unfold PrivilegeTrap
  intro rd a b s traps
  refine ⟨fun hu => ?_, fun hl => ?_⟩
  · have hlow : s.ctx.priv.code < Priv.s.code := by rw [hu]; decide
    simp only [List.mem_cons, List.not_mem_nil, or_false, forall_eq_or_imp, forall_eq]
    exact ⟨needPriv_traps _ _ _ _ rfl hlow, needPriv_traps _ _ _ _ rfl hlow, needPriv_traps _ _ _ _ rfl hlow,
      needPriv_traps _ _ _ _ rfl hlow⟩
  · have hlow : s.ctx.priv.code < Priv.l.code := by
      cases hp : s.ctx.priv with
      | l => exact absurd hp hl
      | u => decide
      | s => decide
    simp only [List.mem_cons, List.not_mem_nil, or_false, forall_eq_or_imp, forall_eq]
    exact ⟨needPriv_traps _ _ _ _ rfl hlow, needPriv_traps _ _ _ _ rfl hlow, needPriv_traps _ _ _ _ rfl hlow,
      needPriv_traps _ _ _ _ rfl hlow, needPriv_traps _ _ _ _ rfl hlow, needPriv_traps _ _ _ _ rfl hlow,
      needPriv_traps _ _ _ _ rfl hlow⟩

end Sys2Proof.Machine

namespace Sys2Proof.Proofs

open Sys2Proof.Machine Sys2Proof.Claim

/-- Settles O38: the round trip of `decodeWords_encode`. -/
theorem roundTrip : Obligations.RoundTrip := by
  unfold Obligations.RoundTrip
  exact decodeWords_encode

/-- Settles O45: each refused instruction answers a trap at itself. -/
theorem instructionTraps : Obligations.InstructionTraps := by
  unfold Obligations.InstructionTraps
  exact ⟨jumpMisaligned, misalignedAccess, tileAccessTrap, amoRepro, systemRegisterRefused, privilegeTrap⟩

/-- Settles O34: what the issuing context finds to run, by the turn its core and its clause give it. -/
theorem stepRuns : Obligations.StepRuns := by
  unfold Obligations.StepRuns
  refine ⟨step_fetches, ?_, ?_, step_halted, step_brk⟩
  · intro s w ha hh hst hw
    refine ⟨fun k hc hrole => ?_, fun p hc hcycle hres => ?_, fun t hc hcycle hres hpage => ?_⟩
    · exact step_waiting s w ha hh hst hw (by simp [hc]) (by simp [hc, State.coreRuns, hrole])
    · exact step_waiting s w ha hh hst hw (by simp [hc]) (by rw [hc]; exact plotCore_runs s p hcycle hres)
    · exact step_waiting s w ha hh hst hw (by simpa [hc] using hpage) (by rw [hc]; exact plotCore_runs s (t / 8) hcycle hres)
  · intro s i rest ha
    simp only [step, ha]
    rfl

/-- Settles O37: each word is decoded. -/
theorem decodeWords : Obligations.DecodeWords := by
  unfold Obligations.DecodeWords
  refine ⟨?_, ?_, ?_, ?_, ?_, ?_, ?_, ?_, ?_, ?_, ?_, ?_, ?_, ?_, ?_, ?_, ?_⟩ <;> decide

end Sys2Proof.Proofs
